-- ==== Sys2Proof/Word.lean ====
section
/-! DEFINITION. The word types and the plainest containers the model is written over. -/

namespace Sys2Proof

/-- One byte of a packet, a memory or a table. -/
abbrev Byte := BitVec 8

/-- A 32-bit word: a register, a slot word, a Skaiq scalar. -/
abbrev Word := BitVec 32

/-- Values by a natural key, keys strictly rising, no entry equal to the default the reader names. -/
abbrev Sparse (α : Type) := List (Nat × α)

end Sys2Proof
end

