-- ==== Sys2Proof/Syntax.lean ====
section
/-! DEFINITION. The commands of the N2048, one constructor of `Instr` for each row of spec/opcode_table.json,
with the operands the rule of the row gives it. -/

namespace Sys2Proof

/-- The path a request comes by (the PATH codes of `EVT.REJECTf`, R366), and PCI configuration writes. -/
inductive Path where
  | bar0 | bar2 | conductor | engine | config
  deriving DecidableEq, Repr

/-- Who makes a register access: the path, and the PCI Express function or tenancy (R366). -/
structure Who where
  path : Path
  fn   : Fin 4
  deriving DecidableEq, Repr

/-- A Skaiq sequencer (R176): block `b` of region `r`, or conductor context `t`. -/
inductive SeqId where
  | blk (r : Fin 4) (b : Fin 12)
  | ctx (t : Fin 4)
  deriving DecidableEq, Repr

/-- A 66-bit block as it leaves the deskew stage, still scrambled (R47, R48): its sync header, 0b01 for data and 0b10
for control, and the 64 bits after it, the first sent in bit 0. -/
structure Block where
  sync : BitVec 2
  line : BitVec 64
  deriving DecidableEq, Repr

/-- An ingest packet as it leaves the deskew stage (R55): its blocks from the Start block on. -/
structure Packet where
  blocks : List Block
  deriving DecidableEq, Repr

/-- Why a lane is lost (R51): its block lock, or 64 invalid sync headers in 100 µs. -/
inductive LaneLoss where
  | blockLock | syncHeaders
  deriving DecidableEq, Repr

/-- A signal of a reference (R305): the 10 MHz input, the PPS input, or REFC's servo is not a signal here. -/
inductive RefSignal where
  | tenMHz | pps
  deriving DecidableEq, Repr

/-- A monitored clock source (R321), in the bit order of `CLK.MONSTAT`. -/
inductive ClkSrc where
  | xtal1 | xtal2 | root | fio | sio
  | egress (p : Fin 2) | memory (h : Fin 4) | pcie
  deriving DecidableEq, Repr

/-- One of the two reeves, or the feed that powers it (R326). -/
inductive Reeve where
  | a | b
  deriving DecidableEq, Repr

/-- What went wrong with a rail (R335): its monitor, its missing key, or a regulator that does not answer. -/
inductive RailCause where
  | outOfLimits | noKey | pmbus
  deriving DecidableEq, Repr

/-- A read, or a write of the bytes given (R235, R356). -/
inductive Access where
  | read (len : Nat)
  | write (data : List Byte)
  deriving DecidableEq, Repr

/-- What a training operation measured (R253): the lanes that failed a PATR, and each lane's longest run
of passing delays. -/
structure TrainResult where
  failed  : BitVec 36
  windows : List (Option (BitVec 7 × BitVec 7))
  deriving DecidableEq, Repr

/-- The commands: one constructor per row of the table, in the table's order. -/
inductive Instr where
  /-- REGISTER_WRITE (R7): a write of `v` at `off`, a BAR0 offset or, from other paths, a window offset. -/
  | registerWrite (w : Who) (off : Word) (v : BitVec 64)
  /-- PEAK_READ (R124). -/
  | peakRead (w : Who) (off : Word)
  /-- FRAME_TICK (R21). -/
  | frameTick
  /-- SKEW_FORCED_TICK (R22). -/
  | skewForcedTick
  /-- COAST_TICK (R23). -/
  | coastTick
  /-- SEAL_POINT (R33). -/
  | sealPoint
  /-- TICK_CTRL_WRITE (R26). -/
  | tickCtrlWrite (w : Who) (v : Word)
  /-- COMMIT_EQ (R34). -/
  | commitEq (w : Who)
  /-- COMMIT_DLY (R34). -/
  | commitDly (w : Who)
  /-- COMMIT_BW (R37). -/
  | commitBw (w : Who)
  /-- COMMIT_WT (R37). -/
  | commitWt (w : Who)
  /-- SHADOW_TABLE_WRITE (R35): bytes written at an internal address of a table view. -/
  | shadowTableWrite (w : Who) (addr : BitVec 48) (data : List Byte)
  /-- TEN_RESERVE_WRITE (R45). -/
  | tenReserveWrite (w : Who) (t : Fin 4) (v : Word)
  /-- INGEST_PACKET (R62). -/
  | ingestPacket (n : Fin 8) (p : Packet)
  /-- OUT_OF_PACKET_BLOCK (R49): a block outside a packet. -/
  | outOfPacketBlock (n : Fin 8) (b : Block)
  /-- LANE_BLOCK_LOCK (R51): lane `k` locks, its block boundary at `phase` UI (R54). -/
  | laneBlockLock (n : Fin 8) (k : Fin 8) (phase : BitVec 7)
  /-- LANE_LOSS (R51). -/
  | laneLoss (n : Fin 8) (k : Fin 8) (why : LaneLoss)
  /-- MARKER_LOCK (R52): lane `k` locks on markers that carry `logical`, arriving `late` UI after the earliest lane. -/
  | markerLock (n : Fin 8) (k : Fin 8) (logical : Fin 8) (late : BitVec 8)
  /-- MARKER_LOCK_LOSS (R52). -/
  | markerLockLoss (n : Fin 8) (k : Fin 8)
  /-- PRESENT_CHANGE (R68): the debounced level, `seated` for a low pin. -/
  | presentChange (n : Fin 8) (seated : Bool)
  /-- FWD_CLOCK_QUALIFIED (R65). -/
  | fwdClockQualified (n : Fin 8)
  /-- FWD_CLOCK_FAULT (R74). -/
  | fwdClockFault (n : Fin 8)
  /-- TRAIN_TIMEOUT (R65). -/
  | trainTimeout (n : Fin 8)
  /-- MARKER_TIMEOUT (R65). -/
  | markerTimeout (n : Fin 8)
  /-- RECEIVERS_OFF (R65). -/
  | receiversOff (n : Fin 8)
  /-- BUTTON_PRESS (R69). -/
  | buttonPress (n : Fin 8)
  /-- INGEST_CTRL_WRITE (R73). -/
  | ingestCtrlWrite (w : Who) (n : Fin 8) (v : Word)
  /-- INGEST_SLIP (R54). -/
  | ingestSlip (w : Who) (n : Fin 8) (lane : Fin 8)
  /-- INGEST_CLRCNT (R62). -/
  | ingestClrcnt (w : Who) (n : Fin 8)
  /-- INGEST_REJOIN (R65). -/
  | ingestRejoin (w : Who) (n : Fin 8)
  /-- INGEST_DRAIN (R67). -/
  | ingestDrain (w : Who) (n : Fin 8)
  /-- PRBS_CTRL_WRITE (R71). -/
  | prbsCtrlWrite (w : Who) (n : Fin 8) (v : Word)
  /-- PRBS_CHECKER_LOCK (R71): checker `k` takes as many bits as `raw`, the bits of the partner's lane, earliest first,
  has; after them it loses lock where `lost` is set. -/
  | prbsCheckerLock (n : Fin 8) (k : Fin 8) (raw : List Bool) (lost : Bool)
  /-- FE_CFG_WRITE (R79). -/
  | feCfgWrite (w : Who) (v : Word)
  /-- FE_CTRL_WRITE (R81): `FEn.CTRL`, or `FEn.SPIKE` when `spike`. -/
  | feCtrlWrite (w : Who) (n : Fin 8) (spike : Bool) (v : Word)
  /-- FE_CTRL_EFFECT (R81). -/
  | feCtrlEffect (n : Fin 8)
  /-- DC_CLR (R81). -/
  | dcClr (w : Who) (n : Fin 8)
  /-- FE_CLRCNT (R96). -/
  | feClrcnt (w : Who) (n : Fin 8)
  /-- FINE_SAMPLE_FORMED (R84): fine time `t` of frame `k` for the inputs of group `g` of port `n` in coarse
  channel `j`; `differs` names the fine channels and 8-byte words in which the twin differs from the lane (R264). -/
  | fineSampleFormed (n : Fin 8) (g : Fin 4) (j : Fin 16) (k : BitVec 34) (t : BitVec 13) (differs : List (BitVec 8 × Fin 8))
  /-- HOLD_RELEASE (R90). -/
  | holdRelease (n : Fin 8)
  /-- FE_INIT_DONE (R98). -/
  | feInitDone
  /-- MV_DOORBELL (R101). -/
  | mvDoorbell (w : Who) (e : Fin 16) (tail : Word)
  /-- MV_RING_CFG_WRITE (R101). -/
  | mvRingCfgWrite (w : Who) (e : Fin 16) (v : Word)
  /-- DESCRIPTOR_FETCH (R101). -/
  | descriptorFetch (e : Fin 16)
  /-- DESCRIPTOR_COMPLETE (R106): `moved` elements had been read if the slot of an SMODE 3 source was lost. -/
  | descriptorComplete (e : Fin 16) (moved : Nat)
  /-- MIRE_CMD_FREEZE (R117). -/
  | mireCmdFreeze (w : Who)
  /-- MIRE_CMD_THAW (R117). -/
  | mireCmdThaw (w : Who)
  /-- MIRE_MARK_WRITE (R115). -/
  | mireMarkWrite (w : Who) (v : BitVec 64)
  /-- SEQ_START (R185). -/
  | seqStart (w : Who) (r : Fin 4) (b : Fin 12)
  /-- SEQ_STOP (R185). -/
  | seqStop (w : Who) (r : Fin 4) (b : Fin 12)
  /-- CND_START (R185). -/
  | cndStart (w : Who) (t : Fin 4)
  /-- CND_STOP (R185). -/
  | cndStop (w : Who) (t : Fin 4)
  /-- CND_MEM_WRITE (R184). -/
  | cndMemWrite (w : Who) (t : Fin 4) (v : Word)
  /-- NOP (R200). -/
  | nop (q : SeqId)
  /-- ADD (R203). -/
  | add (q : SeqId)
  /-- SUB (R203). -/
  | sub (q : SeqId)
  /-- AND (R203). -/
  | and (q : SeqId)
  /-- OR (R203). -/
  | or (q : SeqId)
  /-- XOR (R203). -/
  | xor (q : SeqId)
  /-- SHL (R203). -/
  | shl (q : SeqId)
  /-- SHR (R203). -/
  | shr (q : SeqId)
  /-- SRA (R203). -/
  | sra (q : SeqId)
  /-- LI (R203). -/
  | li (q : SeqId)
  /-- LUI (R203). -/
  | lui (q : SeqId)
  /-- CMP (R203). -/
  | cmp (q : SeqId)
  /-- BR (R204). -/
  | br (q : SeqId)
  /-- BRP (R204). -/
  | brp (q : SeqId)
  /-- LOOP (R188). -/
  | loop (q : SeqId)
  /-- WAIT_TICK (R204). -/
  | waitTick (q : SeqId)
  /-- WAIT_EVT (R192). -/
  | waitEvt (q : SeqId)
  /-- SIG (R204). -/
  | sig (q : SeqId)
  /-- CSRR (R181). -/
  | csrr (q : SeqId)
  /-- CSRW (R181). -/
  | csrw (q : SeqId)
  /-- FENCE (R198). -/
  | fence (q : SeqId)
  /-- FRAME_END (R187). -/
  | frameEnd (q : SeqId)
  /-- FRAME_END_RETIRE (R185). -/
  | frameEndRetire (q : SeqId)
  /-- HALT (R185). -/
  | halt (q : SeqId)
  /-- STALL_RESOLVED (R190). -/
  | stallResolved (q : SeqId)
  /-- MV_LD (R209). -/
  | mvLd (r : Fin 4) (b : Fin 12)
  /-- MV_ST (R209). -/
  | mvSt (r : Fin 4) (b : Fin 12)
  /-- MV_DESC (R210). -/
  | mvDesc (r : Fin 4) (b : Fin 12)
  /-- MV_WAITB (R192). -/
  | mvWaitb (r : Fin 4) (b : Fin 12)
  /-- MV_SPILL (R139). -/
  | mvSpill (r : Fin 4) (b : Fin 12)
  /-- COND_MV_LD (R206). -/
  | condMvLd (t : Fin 4)
  /-- COND_MV_ST (R198). -/
  | condMvSt (t : Fin 4)
  /-- COND_CSRR (R206). -/
  | condCsrr (t : Fin 4)
  /-- COND_CSRW (R206). -/
  | condCsrw (t : Fin 4)
  /-- WRITE_BUFFER_DRAIN (R198). -/
  | writeBufferDrain
  /-- SYS_TICK (R207). -/
  | sysTick (t : Fin 4)
  /-- SYS_SEAL (R207). -/
  | sysSeal (t : Fin 4)
  /-- SYS_COMMIT (R208). -/
  | sysCommit (t : Fin 4)
  /-- SYS_FLOW (R207). -/
  | sysFlow (t : Fin 4)
  /-- SYS_MIRE (R207). -/
  | sysMire (t : Fin 4)
  /-- SYS_TEN (R207). -/
  | sysTen (t : Fin 4)
  /-- SYS_EVT (R207). -/
  | sysEvt (t : Fin 4)
  /-- VADD (R212). -/
  | vadd (r : Fin 4) (b : Fin 12)
  /-- VSUB (R212). -/
  | vsub (r : Fin 4) (b : Fin 12)
  /-- VMUL (R212). -/
  | vmul (r : Fin 4) (b : Fin 12)
  /-- VMAC (R212). -/
  | vmac (r : Fin 4) (b : Fin 12)
  /-- VMOVS (R174). -/
  | vmovs (r : Fin 4) (b : Fin 12)
  /-- VRNDC (R173). -/
  | vrndc (r : Fin 4) (b : Fin 12)
  /-- VCMP (R212). -/
  | vcmp (r : Fin 4) (b : Fin 12)
  /-- VSEL (R212). -/
  | vsel (r : Fin 4) (b : Fin 12)
  /-- VPACK (R212). -/
  | vpack (r : Fin 4) (b : Fin 12)
  /-- VMAXI (R175). -/
  | vmaxi (r : Fin 4) (b : Fin 12)
  /-- VMINI (R175). -/
  | vmini (r : Fin 4) (b : Fin 12)
  /-- VROWMAX (R175). -/
  | vrowmax (r : Fin 4) (b : Fin 12)
  /-- VROWSUM (R175). -/
  | vrowsum (r : Fin 4) (b : Fin 12)
  /-- CX_START (R218). -/
  | cxStart (r : Fin 4) (b : Fin 12)
  /-- CX_PRELOAD (R133). -/
  | cxPreload (r : Fin 4) (b : Fin 12)
  /-- CX_DUMP_WRITEBACK (R134). -/
  | cxDumpWriteback (r : Fin 4) (b : Fin 12)
  /-- CX_DUMP_CLOSE (R135). -/
  | cxDumpClose (r : Fin 4) (b : Fin 12)
  /-- CX_SAVE (R148). -/
  | cxSave (r : Fin 4) (b : Fin 12)
  /-- CX_RESTORE (R148). -/
  | cxRestore (r : Fin 4) (b : Fin 12)
  /-- CX_CLEAR (R218). -/
  | cxClear (r : Fin 4) (b : Fin 12)
  /-- CX_WAIT (R191). -/
  | cxWait (r : Fin 4) (b : Fin 12)
  /-- CB_START (R218). -/
  | cbStart (r : Fin 4) (b : Fin 12)
  /-- CELL_SPARE (R143). -/
  | cellSpare (r : Fin 4) (b : Fin 12)
  /-- CELL_RUN_END (R220). -/
  | cellRunEnd (r : Fin 4) (b : Fin 12) (c : Fin 32)
  /-- X2_FORCED_SPILL (R139). -/
  | x2ForcedSpill (r : Fin 4) (b : Fin 12) (c : Fin 32)
  /-- CELL_DUMP_DONE (R142). -/
  | cellDumpDone (r : Fin 4) (b : Fin 12) (c : Fin 32)
  /-- REDO_START (R143). -/
  | redoStart (r : Fin 4) (b : Fin 12)
  /-- REDO_END (R143). -/
  | redoEnd (r : Fin 4) (b : Fin 12)
  /-- GATE_RELEASE (R231): block `b` of region `r` writes RELx. -/
  | gateRelease (r : Fin 4) (b : Fin 12) (x : Fin 2)
  /-- GATE_RELEASE_EFFECT (R231). -/
  | gateReleaseEffect (r : Fin 4) (b : Fin 12) (x : Fin 2)
  /-- GATE_FILL (R230): block `b` of region `r` writes FILLx. -/
  | gateFill (r : Fin 4) (b : Fin 12) (x : Fin 2)
  /-- BEAM_CFG_WRITE (R166): `BEAMβ.CFG`, or `BEAMβ.OUT` when `out`. -/
  | beamCfgWrite (w : Who) (beam : BitVec 8) (out : Bool) (v : Word)
  /-- BLOCK_BEAM_WRITE (R157). -/
  | blockBeamWrite (w : Who) (r : Fin 4) (b : Fin 12) (v : Word)
  /-- BEAM_CLRCNT (R160). -/
  | beamClrcnt (w : Who)
  /-- VOLTAGE_PACKET (R162): the packet of beam `beam` with first local channel `c0` of region `r` and first fine time `t0`. -/
  | voltagePacket (beam : BitVec 8) (r : Fin 4) (c0 : BitVec 10) (t0 : BitVec 13)
  /-- POWER_PERIOD_CLOSE (R163). -/
  | powerPeriodClose (beam : BitVec 8) (r : Fin 4)
  /-- WATCH_RELEASE (R169). -/
  | watchRelease
  /-- FABRIC_REQUEST (R235). -/
  | fabricRequest (init : Fin 66) (id : BitVec 10) (qos : BitVec 4) (ten : Fin 4) (addr : BitVec 48) (acc : Access)
  /-- SEGMENT_GRANT (R244). -/
  | segmentGrant (port : Fin 192)
  /-- FABRIC_RESPONSE (R235). -/
  | fabricResponse (target : Fin 108)
  /-- STARVE_PROMOTION (R243). -/
  | starvePromotion (port : Fin 192)
  /-- PERIPHERAL_TIMEOUT (R234). -/
  | peripheralTimeout
  /-- DRAM_COMMAND (R250). -/
  | dramCommand (p : Fin 128)
  /-- REFRESH_DUE (R251). -/
  | refreshDue (p : Fin 128)
  /-- TOWER_INIT (R253). -/
  | towerInit (w : Who)
  /-- SELF_REFRESH_ENTER (R255). -/
  | selfRefreshEnter (w : Who)
  /-- SELF_REFRESH_RESIDENCY (R255). -/
  | selfRefreshResidency (p : Fin 128)
  /-- SELF_REFRESH_EXIT (R255). -/
  | selfRefreshExit (w : Who)
  /-- MEMTR_PATW (R253). -/
  | memtrPatw (w : Who) (live : Bool)
  /-- MEMTR_PATR (R253). -/
  | memtrPatr (w : Who) (live : Bool)
  /-- MEMTR_SWEEPR (R253). -/
  | memtrSweepr (w : Who) (live : Bool)
  /-- MEMTR_SWEEPW (R253). -/
  | memtrSweepw (w : Who) (live : Bool)
  /-- MEMTR_APPLY (R253). -/
  | memtrApply (w : Who) (live : Bool)
  /-- MEMTR_DONE (R252). -/
  | memtrDone (w : Who)
  /-- MEMTR_TRAIN (R253). -/
  | memtrTrain (w : Who)
  /-- MEMTR_OP_DONE (R253). -/
  | memtrOpDone (res : TrainResult)
  /-- MEM_RETRAIN (R254): tower `h` reads `temp` °C. -/
  | memRetrain (h : Fin 4) (temp : Byte)
  /-- MEM_PLL_LOCK (R320). -/
  | memPllLock (h : Fin 4)
  /-- PAGE_RETIRE (R256). -/
  | pageRetire (w : Who) (p : Fin 128) (granule : BitVec 20) (noCopy : Bool)
  /-- PAGE_RETIRE_DONE (R256). -/
  | pageRetireDone (p : Fin 128)
  /-- CORRECTION_WRITEBACK (R259): the word at internal address `addr`. -/
  | correctionWriteback (addr : BitVec 48)
  /-- SCRUB_WORD (R269): scrub unit `u` (0 to 237) reads its next word. -/
  | scrubWord (u : Fin 238)
  /-- SCRUB_SLOW (R269). -/
  | scrubSlow (u : Fin 238)
  /-- TWIN_REARM (R264). -/
  | twinRearm (w : Who) (n : Fin 8)
  /-- LOG_CLR (R272). -/
  | logClr (w : Who) (l : Fin 4)
  /-- SRAM_BANK_RETIRE (R273). -/
  | sramBankRetire (w : Who) (u : Fin 238) (bank : BitVec 9)
  /-- SRAM_BANK_RETIRE_DONE (R273). -/
  | sramBankRetireDone (u : Fin 238)
  /-- KEY_LOAD (R275). -/
  | keyLoad (w : Who) (slot : Fin 64) (long : Bool) (ten : Fin 4)
  /-- KEY_ERASE (R275). -/
  | keyErase (w : Who) (slot : Fin 64)
  /-- PRODUCT_STAGE (R282): the oldest product waiting for staging. -/
  | productStage
  /-- SLUICE_SELECT (R290). -/
  | sluiceSelect (p : Fin 2)
  /-- FLOW_CONTEXT_WRITE (R281): bytes written from byte `start` of the context of flow `f`. -/
  | flowContextWrite (w : Who) (f : BitVec 18) (start : Fin 16) (data : List Byte)
  /-- ETHERNET_RX_FRAME (R277): a frame from its destination MAC address to its FCS, and the FCS it came with. -/
  | ethernetRxFrame (p : Fin 2) (frame : List Byte) (fcs : Word)
  /-- EGRESS_LINK_CHANGE (R278). -/
  | egressLinkChange (p : Fin 2) (aligned fecLock localFault remoteFault : Bool)
  /-- TSQ_HI_READ (R296). -/
  | tsqHiRead (w : Who) (p : Fin 2)
  /-- PTPRX_POP (R297). -/
  | ptprxPop (w : Who) (p : Fin 2)
  /-- PTPRX_CLR (R297). -/
  | ptprxClr (w : Who) (p : Fin 2)
  /-- TOD_SEC_READ (R298). -/
  | todSecRead (w : Who)
  /-- TOD_SETSEC (R298). -/
  | todSetsec (w : Who) (sec : BitVec 48)
  /-- TOD_SECOND_CARRY (R298). -/
  | todSecondCarry
  /-- NOTE_NEXT_READ (R301). -/
  | noteNextRead (w : Who) (t : Fin 4)
  /-- NOTE_WORD_READ (R301). -/
  | noteWordRead (w : Who) (t : Fin 4)
  /-- NOTE_DROP (R301). -/
  | noteDrop (w : Who) (t : Fin 4)
  /-- NOTE_CLR (R301). -/
  | noteClr (w : Who) (t : Fin 4)
  /-- REF_ACTIVITY_CHANGE (R305). -/
  | refActivityChange (x : Fin 2) (sg : RefSignal) (active : Bool)
  /-- FREQUENCY_GATE_END (R306): the fractional offsets of REFA and REFB measured over the gate, in 10^-12. -/
  | frequencyGateEnd (fofs0 fofs1 : Word)
  /-- REFERENCE_BOUNDARY (R315): second boundary of reference `x`, `ofs` ps after the timebase's (for REFA and REFB the
  PPS edge, without DELAY). -/
  | referenceBoundary (x : Fin 3) (ofs : Word)
  /-- REFERENCE_SWITCH_DONE (R311). -/
  | referenceSwitchDone
  /-- WTR_EXPIRY (R310). -/
  | wtrExpiry
  /-- HOLDMAX_EXPIRY (R315): of the timebase, or of the PTP servo (R318). -/
  | holdmaxExpiry (servo : Bool)
  /-- TB_CFG_WRITE (R309). -/
  | tbCfgWrite (w : Who) (v : Word)
  /-- TB_QUAL_WRITE (R307). -/
  | tbQualWrite (w : Who) (v : Word)
  /-- TB_PSTEP_WRITE (R314). -/
  | tbPstepWrite (w : Who) (v : Word)
  /-- PSTEP_DONE (R314). -/
  | pstepDone
  /-- PTP_MEASUREMENT (R318). -/
  | ptpMeasurement (w : Who) (ofs : BitVec 64)
  /-- PTPS_MEAS_TIMEOUT (R318). -/
  | ptpsMeasTimeout
  /-- PTPS_CFG_WRITE (R318). -/
  | ptpsCfgWrite (w : Who) (v : Word)
  /-- ROOT_PLL_LOCK (R320). -/
  | rootPllLock
  /-- CLOCK_MONITOR_FAIL (R321): `stopped` when the source has no edge left, so the switch is forced (R323). -/
  | clockMonitorFail (src : ClkSrc) (stopped : Bool)
  /-- CLOCK_RESTORE (R322). -/
  | clockRestore (w : Who)
  /-- CLOCK_GATE (R324). -/
  | clockGate (w : Who) (unit : BitVec 6)
  /-- CLOCK_UNGATE (R324). -/
  | clockUngate (w : Who) (unit : BitVec 6)
  /-- CLOCK_FORCED_GATE (R325). -/
  | clockForcedGate (w : Who) (unit : BitVec 6)
  /-- GATE_IDLE_STOP (R324). -/
  | gateIdleStop
  /-- GATE_REFUSED (R324). -/
  | gateRefused
  /-- FEED_LOSS (R326). -/
  | feedLoss (f : Reeve)
  /-- FEED_BACK (R326). -/
  | feedBack (f : Reeve)
  /-- LEASE_RENEWAL (R327). -/
  | leaseRenewal
  /-- LEASE_EXPIRY (R329). -/
  | leaseExpiry
  /-- TAKE (R329). -/
  | take (f : Reeve)
  /-- SAVED_STATE_WRITE (R330): `ok` when the flash write and its read-back succeeded. -/
  | savedStateWrite (ok : Bool)
  /-- RESYNC (R331): whether the mailbox copy's CRC is good and names this ROM version. -/
  | resync (f : Reeve) (crcGood romMatches : Bool)
  /-- HANDOVER (R332). -/
  | handover (w : Who)
  /-- RAIL_FAULT (R335). -/
  | railFault (cause : RailCause) (rail : Fin 7)
  /-- THERMAL_POLL (R336): the raw readings of the 16 die sensors (`none`: no answer), in 0.25 °C, and the four
  tower readings in °C. -/
  | thermalPoll (die : List (Option (BitVec 16))) (towers : List Byte)
  /-- THERM_CFG_WRITE (R336). -/
  | thermCfgWrite (w : Who) (v : Word)
  /-- THERMAL_TRIP (R337). -/
  | thermalTrip
  /-- PEAT_GET (R343). -/
  | peatGet (w : Who)
  /-- PEAT_SET (R340). -/
  | peatSet (w : Who)
  /-- PEAT_DELETE (R340). -/
  | peatDelete (w : Who)
  /-- PEAT_COMPACT (R340). -/
  | peatCompact (w : Who)
  /-- PEAT_COMMAND_DONE (R343): `flashOk` unless a program or erase failed (R340). -/
  | peatCommandDone (flashOk : Bool)
  /-- CAL_USER_WRITE (R345). -/
  | calUserWrite (w : Who) (i : Fin 131) (v : Word)
  /-- POR (R346): feed `f` is the first to rise; `torn` when the last power loss cut a flash program short (R341). -/
  | por (f : Reeve) (torn : Bool)
  /-- RESET_PIN (R346): RESET_N has been low for 1 µs, or (`low` false) rises again. -/
  | resetPin (low : Bool)
  /-- PERST (R354): PERST# asserted, or (`asserted` false) deasserted. -/
  | perst (asserted : Bool)
  /-- RST_CHIP (R346). -/
  | rstChip (w : Who)
  /-- RST_REGION (R346). -/
  | rstRegion (w : Who) (n : Fin 4)
  /-- RST_PROGRAM (R347). -/
  | rstProgram (w : Who) (n : Fin 4) (blocks : BitVec 12) (ctxs : BitVec 4)
  /-- PROGRAM_RESET_DONE (R347). -/
  | programResetDone (q : SeqId)
  /-- CHIP_RESET_RELEASE (R348). -/
  | chipResetRelease
  /-- PWR_RUN (R349). -/
  | pwrRun (w : Who)
  /-- PWR_IDLE (R349). -/
  | pwrIdle (w : Who)
  /-- PWR_STANDBY (R349). -/
  | pwrStandby (w : Who)
  /-- PWR_DORMANT (R349). -/
  | pwrDormant (w : Who)
  /-- WAKE_TIMER (R349). -/
  | wakeTimer
  /-- LINK_DOWN (R354). -/
  | linkDown
  /-- FUNCTION_LEVEL_RESET (R354). -/
  | functionLevelReset (f : Fin 4)
  /-- BAR2_ACCESS (R356): at BAR2 offset `off`. -/
  | bar2Access (f : Fin 4) (off : BitVec 33) (acc : Access)
  /-- TEN_CMD (R358). -/
  | tenCmd (w : Who) (t : Fin 4)
  /-- EVT_RAISE (R363). -/
  | evtRaise (w : Who) (source : BitVec 9)
  /-- EVT_ENABLE_WRITE (R363). -/
  | evtEnableWrite (w : Who) (word : Fin 16) (v : Word)
  /-- MSIX_UNMASK (R364): vector `vec` of function `f`, or the Function Mask when `none`. -/
  | msixUnmask (f : Fin 4) (vec : Option (BitVec 9))
  /-- MSIX_ENABLE (R364): MSI-X Enable set, or (`d0`) the function's return to D0. -/
  | msixEnable (f : Fin 4) (d0 : Bool)
  /-- CELL_OPERATION_END (R191). -/
  | cellOperationEnd (r : Fin 4) (b : Fin 12) (c : Fin 32)
  /-- PACKET_ELIGIBLE (R292). -/
  | packetEligible (p : Fin 2)
  /-- CLOCK_SOURCE_GOOD (R321). -/
  | clockSourceGood (src : ClkSrc)
  /-- HOLD_VALID (R316): after 68 s in LOCKED; the mean of `TB.FREQ` the rule gives for `TB.HOLD`. -/
  | holdValid (mean : Word)
  /-- HOLDOVER_HISTORY (R342). -/
  | holdoverHistory
  /-- SELF_REFRESH_EXIT_DONE (R255). -/
  | selfRefreshExitDone (p : Fin 128)
  /-- HOST_LINK_UP (R366): trained at `width` lanes and speed code `speed`. -/
  | hostLinkUp (width : BitVec 4) (speed : BitVec 4)
  /-- D3HOT_ENTRY (R353). -/
  | d3hotEntry (f : Fin 4)
  /-- WEIGHT_INIT_DONE (R159). -/
  | weightInitDone
  deriving DecidableEq, Repr

end Sys2Proof
end

