-- ==== Sys2Proof/Decode.lean ====
section
/-! DEFINITION. The table of operations gives its rows no bits: the block takes commands, and no word spells one. -/

namespace Sys2Proof

/-- The command a word of `nbits` bits spells by the table: no row of the table has bits, so none. -/
def decodeTableWord (_nbits _w : Nat) : Option Instr := none

end Sys2Proof
end

