-- ==== Sys2Proof/Config.lean ====
section
/-! DEFINITION. What one N2048 fixes for good (its fuses, its factory calibration) and the free values: constants
without a body, of which nothing can be proved. -/

namespace Sys2Proof

/-- The option fuse: true on HKN2048-B0-FX, false on HKN2048-B0-FC (R1, R2). -/
opaque Config.sealFused : Bool

/-- The unit serial number (`CHIP.SERIAL`). -/
opaque Config.serial : BitVec 64

/-- Factory calibration value `i` (R344). -/
opaque Config.calFactory (i : Nat) : BitVec 16

/-- Factory memory baseline delay word `i` (`CAL.MEMBASE`). -/
opaque Config.memBaseline (i : Nat) : BitVec 32

/-- The cells the factory has retired in block 12n + b (R17, R144). -/
opaque Config.fusedCells (blk : Nat) : BitVec 32

/-- What byte `i` of `PEAT.DATA` holds after a power-on: undefined (R11). -/
opaque Config.peatDataReset (draw i : Nat) : Byte

/-- The syndrome of a correctable or uncorrectable word, which the state does not hold (R257). -/
opaque Config.freeSyndrome (fresh : Nat) : Byte

/-- A free 32-bit value, drawn with the state's counter. -/
opaque Config.freeWord (fresh : Nat) : Word

/-- The PTP servo's filter (R318): the offset it makes of a measurement. -/
opaque Config.ptpFilter (fresh : Nat) (ofs : BitVec 64) : Int

/-- The bytes of the saved-state record (R342: its layout is private to the reeve ROM). -/
opaque Config.savedBytes (fresh : Nat) : List Byte

/-- A free natural number, drawn with the state's counter and a key. -/
opaque Config.freeNat (fresh key : Nat) : Nat

/-- The address that errors of ingest state number `i` are logged under: it has no internal address (R99, R271). -/
opaque Config.stateLoc : Nat → BitVec 48

/-- The 64 KB bank that word `i` of an ingest engine's state lies in, which R273 does not give. -/
opaque Config.stateBank : Nat → Nat

/-- How many consecutive output channels, less one, a product of visibilities packs into a packet, by product type; R151
gives the range only. -/
opaque Config.packNc : Nat → Nat

end Sys2Proof
end

