-- ==== Sys2Proof/Machine/RegMap.lean ====
section
/-! DEFINITION. The register maps: for every register its place in the control register window, its width, reset
domain, who may write it, its reset value and its fields, as the maps of spec/ give them. The banked registers of
function f (`HOST`, the MSI-X table) and its MSI-X control word are keyed at (f + 1) · 2^32 + offset. -/

namespace Sys2Proof.Machine

/-- Access codes (R7); RWS is read-write. -/
inductive Acc where
  | rw | ro | w1c | wo | po
  deriving DecidableEq, Repr

/-- Reset domains (R346) that a register may have. -/
inductive Domain where
  | por | chip | region
  deriving DecidableEq, Repr

/-- Who besides function 0 may write a register (R359): nobody, the tenancy the index names, everybody, the tenancy
the index names and nobody else, the block's tenancy, the source's owner, the beam's tenancy, the ring's tenancy. -/
inductive Rights where
  | f0 | ten | any | own | blk | evt | beam | ring
  deriving DecidableEq, Repr

/-- A field of a register: its bits and its access code. -/
structure Fld where
  hi  : Nat
  lo  : Nat
  acc : Acc
  deriving DecidableEq, Repr

/-- A register, or an array of registers with up to two indices. -/
structure RegDef where
  name    : String
  base    : Nat
  stride1 : Nat
  count1  : Nat
  stride2 : Nat
  count2  : Nat
  width   : Nat
  dom     : Domain
  rights  : Rights
  reset   : Nat → Nat → Nat
  fields  : List Fld

/-- A named field of a register. -/
structure RField where
  reg : RegDef
  hi  : Nat
  lo  : Nat

/-- The owner column of R366. -/
def evtOwner (i : Nat) : Nat :=
  if 48 ≤ i ∧ i ≤ 51 then i - 48
  else if 132 ≤ i ∧ i ≤ 135 then i - 132
  else if 136 ≤ i ∧ i ≤ 139 then i - 136
  else if 154 ≤ i ∧ i ≤ 157 then i - 154
  else if 158 ≤ i ∧ i ≤ 161 then i - 158
  else if 164 ≤ i ∧ i ≤ 167 then i - 164
  else 0

/-- The sources the table of R366 lists; the others are reserved. -/
def evtListed (i : Nat) : Bool :=
  i ≤ 10 || (16 ≤ i && i ≤ 36) || (48 ≤ i && i ≤ 54) || (64 ≤ i && i ≤ 161) || (163 ≤ i && i ≤ 175)
    || (192 ≤ i && i < 384 && ((i - 192) % 48 ≤ 5 || (8 ≤ (i - 192) % 48 && (i - 192) % 48 ≤ 15)))
    || (384 ≤ i && i ≤ 387) || (400 ≤ i && i ≤ 407) || (416 ≤ i && i ≤ 434) || (448 ≤ i && i ≤ 511)

/-- `EVT.CFGi` after reset: CLASS 0 for sources 0 to 7 and 3 for the others, FN and OWN as the owner column, VEC i. -/
def evtCfgReset (i : Nat) : Nat :=
  (if i ≤ 7 then 0 else 3) * 2 ^ 30 + evtOwner i * 2 ^ 24 + evtOwner i * 2 ^ 16 + i

/-- `CHIP.ID`. -/
def chipId : RegDef :=
  ⟨"CHIP.ID", 0x0, 0x1, 1, 0x1, 1, 32, .chip, .f0, fun _ _ => 0x2048b000,
    [⟨31, 16, .ro⟩, ⟨15, 8, .ro⟩]⟩

/-- `CHIP.OPT`. -/
def chipOpt : RegDef :=
  ⟨"CHIP.OPT", 0x4, 0x1, 1, 0x1, 1, 32, .chip, .f0, fun _ _ => if Config.sealFused then 1 else 0,
    [⟨0, 0, .ro⟩]⟩

/-- `CHIP.SERIAL`. -/
def chipSerial : RegDef :=
  ⟨"CHIP.SERIAL", 0x8, 0x1, 1, 0x1, 1, 64, .chip, .f0, fun _ _ => Config.serial.toNat,
    [⟨63, 0, .ro⟩]⟩

/-- `TENt.RESERVE`. -/
def tenReserve : RegDef :=
  ⟨"TENt.RESERVE", 0x1000, 0x10, 4, 0x1, 1, 32, .chip, .f0, fun i _ => if i = 0 then 0x2000080 else 0,
    [⟨31, 26, .rw⟩, ⟨25, 15, .rw⟩, ⟨7, 0, .rw⟩]⟩

/-- `TENt.FLOWS`. -/
def tenFlows : RegDef :=
  ⟨"TENt.FLOWS", 0x1004, 0x10, 4, 0x1, 1, 32, .chip, .f0, fun _ _ => 0,
    [⟨28, 16, .ro⟩, ⟨11, 0, .ro⟩]⟩

/-- `TENt.DRAM`. -/
def tenDram : RegDef :=
  ⟨"TENt.DRAM", 0x1008, 0x10, 4, 0x1, 1, 32, .chip, .f0, fun _ _ => 0,
    [⟨23, 16, .ro⟩, ⟨7, 0, .ro⟩]⟩

/-- `TENt.STATE`. -/
def tenState : RegDef :=
  ⟨"TENt.STATE", 0x100c, 0x10, 4, 0x1, 1, 32, .chip, .f0, fun i _ => if i = 0 then 1 else 0,
    [⟨0, 0, .ro⟩]⟩

/-- `TENt.BLOCKS`. -/
def tenBlocks : RegDef :=
  ⟨"TENt.BLOCKS", 0x1040, 0x8, 4, 0x1, 1, 64, .chip, .f0, fun _ _ => 0,
    [⟨47, 0, .ro⟩]⟩

/-- `TEN.RECw`. -/
def tenRec : RegDef :=
  ⟨"TEN.RECw", 0x1080, 0x4, 8, 0x1, 1, 32, .chip, .f0, fun _ _ => 0,
    [⟨31, 0, .rw⟩]⟩

/-- `TEN.CMD`. -/
def tenCmd : RegDef :=
  ⟨"TEN.CMD", 0x10a0, 0x1, 1, 0x1, 1, 32, .chip, .f0, fun _ _ => 0,
    [⟨1, 0, .wo⟩]⟩

/-- `TEN.STAT`. -/
def tenStat : RegDef :=
  ⟨"TEN.STAT", 0x10a4, 0x1, 1, 0x1, 1, 32, .chip, .f0, fun _ _ => 0,
    [⟨2, 0, .ro⟩]⟩

/-- `CND.CTXt.PROG`. -/
def cndProg : RegDef :=
  ⟨"CND.CTXt.PROG", 0x2000, 0x40, 4, 0x1, 1, 32, .chip, .f0, fun _ _ => 0,
    [⟨31, 16, .rw⟩, ⟨15, 0, .rw⟩]⟩

/-- `CND.CTXt.MEM`. -/
def cndMem : RegDef :=
  ⟨"CND.CTXt.MEM", 0x2004, 0x40, 4, 0x1, 1, 32, .chip, .f0, fun i _ => if i = 0 then 0x40004000 else 0,
    [⟨31, 24, .rw⟩, ⟨23, 16, .rw⟩, ⟨15, 8, .rw⟩, ⟨7, 0, .rw⟩]⟩

/-- `CND.CTXt.CTRL`. -/
def cndCtrl : RegDef :=
  ⟨"CND.CTXt.CTRL", 0x2008, 0x40, 4, 0x1, 1, 32, .chip, .ten, fun _ _ => 0,
    [⟨2, 2, .rw⟩, ⟨1, 1, .wo⟩, ⟨0, 0, .wo⟩]⟩

/-- `CND.CTXt.STAT`. -/
def cndStat : RegDef :=
  ⟨"CND.CTXt.STAT", 0x200c, 0x40, 4, 0x1, 1, 32, .chip, .f0, fun _ _ => 0,
    [⟨18, 16, .ro⟩, ⟨15, 0, .ro⟩]⟩

/-- `CND.CTXt.EXC`. -/
def cndExc : RegDef :=
  ⟨"CND.CTXt.EXC", 0x2010, 0x40, 4, 0x1, 1, 32, .chip, .f0, fun _ _ => 0,
    [⟨31, 24, .ro⟩, ⟨15, 0, .ro⟩]⟩

/-- `CND.CTXt.SLACK`. -/
def cndSlack : RegDef :=
  ⟨"CND.CTXt.SLACK", 0x2014, 0x40, 4, 0x1, 1, 32, .chip, .f0, fun _ _ => 0,
    [⟨31, 0, .ro⟩]⟩

/-- `CND.WBUF`. -/
def cndWbuf : RegDef :=
  ⟨"CND.WBUF", 0x2100, 0x1, 1, 0x1, 1, 32, .chip, .f0, fun _ _ => 0,
    [⟨4, 0, .ro⟩]⟩

/-- `HOST.PAGE`. -/
def hostPage : RegDef :=
  ⟨"HOST.PAGE", 0x100003000, 0x100000000, 4, 0x1, 1, 32, .chip, .any, fun _ _ => 3,
    [⟨7, 0, .rw⟩]⟩

/-- `HOST.APBASE`. -/
def hostApbase : RegDef :=
  ⟨"HOST.APBASE", 0x100003008, 0x100000000, 4, 0x1, 1, 64, .chip, .any, fun _ _ => 0,
    [⟨47, 30, .rw⟩]⟩

/-- `HOST.ATTR`. -/
def hostAttr : RegDef :=
  ⟨"HOST.ATTR", 0x100003010, 0x100000000, 4, 0x1, 1, 32, .chip, .any, fun _ _ => 0,
    [⟨0, 0, .rw⟩]⟩

/-- `HOST.LINK`. -/
def hostLink : RegDef :=
  ⟨"HOST.LINK", 0x100003014, 0x100000000, 4, 0x1, 1, 32, .chip, .any, fun _ _ => 0,
    [⟨8, 8, .ro⟩, ⟨7, 4, .ro⟩, ⟨3, 0, .ro⟩]⟩

/-- `CLK.SRC`. -/
def clkSrc : RegDef :=
  ⟨"CLK.SRC", 0x100000, 0x1, 1, 0x1, 1, 32, .chip, .f0, fun _ _ => 0xf,
    [⟨7, 4, .ro⟩, ⟨3, 0, .ro⟩]⟩

/-- `CLK.MONSTAT`. -/
def clkMonstat : RegDef :=
  ⟨"CLK.MONSTAT", 0x100004, 0x1, 1, 0x1, 1, 32, .chip, .f0, fun _ _ => 0,
    [⟨11, 0, .ro⟩]⟩

/-- `CLK.STATUS`. -/
def clkStatus : RegDef :=
  ⟨"CLK.STATUS", 0x100008, 0x1, 1, 0x1, 1, 32, .chip, .f0, fun _ _ => 0,
    [⟨10, 10, .w1c⟩, ⟨9, 9, .w1c⟩, ⟨8, 8, .w1c⟩, ⟨7, 7, .w1c⟩, ⟨6, 6, .w1c⟩, ⟨5, 5, .w1c⟩, ⟨4, 4, .w1c⟩, ⟨3, 3, .w1c⟩, ⟨2, 2, .w1c⟩, ⟨1, 1, .w1c⟩, ⟨0, 0, .w1c⟩]⟩

/-- `CLK.CMD`. -/
def clkCmd : RegDef :=
  ⟨"CLK.CMD", 0x10000c, 0x1, 1, 0x1, 1, 32, .chip, .f0, fun _ _ => 0,
    [⟨0, 0, .wo⟩]⟩

/-- `CLK.GATE`. -/
def clkGate : RegDef :=
  ⟨"CLK.GATE", 0x100010, 0x1, 1, 0x1, 1, 32, .chip, .f0, fun _ _ => 0,
    [⟨31, 30, .wo⟩, ⟨5, 0, .wo⟩]⟩

/-- `CLK.GATESTAT`. -/
def clkGatestat : RegDef :=
  ⟨"CLK.GATESTAT", 0x100014, 0x1, 1, 0x1, 1, 32, .chip, .f0, fun _ _ => 0,
    [⟨31, 31, .ro⟩, ⟨30, 28, .ro⟩, ⟨27, 16, .ro⟩, ⟨5, 0, .ro⟩]⟩

/-- `CLK.GATED`. -/
def clkGated : RegDef :=
  ⟨"CLK.GATED", 0x100018, 0x1, 1, 0x1, 1, 64, .chip, .f0, fun _ _ => 0,
    [⟨61, 0, .ro⟩]⟩

/-- `TB.CFG`. -/
def tbCfg : RegDef :=
  ⟨"TB.CFG", 0x200000, 0x1, 1, 0x1, 1, 32, .chip, .f0, fun _ _ => 0x2003c1,
    [⟨22, 20, .rw⟩, ⟨17, 16, .rw⟩, ⟨15, 4, .rw⟩, ⟨0, 0, .rw⟩]⟩

/-- `TB.STATE`. -/
def tbState : RegDef :=
  ⟨"TB.STATE", 0x200004, 0x1, 1, 0x1, 1, 32, .chip, .f0, fun _ _ => 0x30,
    [⟨31, 16, .ro⟩, ⟨11, 10, .ro⟩, ⟨9, 9, .ro⟩, ⟨8, 8, .ro⟩, ⟨5, 4, .ro⟩, ⟨3, 3, .ro⟩, ⟨2, 0, .ro⟩]⟩

/-- `TB.STATUS`. -/
def tbStatus : RegDef :=
  ⟨"TB.STATUS", 0x200008, 0x1, 1, 0x1, 1, 32, .chip, .f0, fun _ _ => 0,
    [⟨7, 7, .w1c⟩, ⟨6, 6, .w1c⟩, ⟨5, 5, .w1c⟩, ⟨4, 4, .w1c⟩, ⟨3, 3, .w1c⟩, ⟨2, 2, .w1c⟩, ⟨1, 1, .w1c⟩, ⟨0, 0, .w1c⟩]⟩

/-- `TB.QUAL`. -/
def tbQual : RegDef :=
  ⟨"TB.QUAL", 0x200010, 0x1, 1, 0x1, 1, 32, .chip, .f0, fun _ _ => 0x1f400c8,
    [⟨31, 16, .rw⟩, ⟨15, 0, .rw⟩]⟩

/-- `TB.PAIR`. -/
def tbPair : RegDef :=
  ⟨"TB.PAIR", 0x200014, 0x1, 1, 0x1, 1, 32, .chip, .f0, fun _ _ => 0xa0032,
    [⟨23, 16, .rw⟩, ⟨15, 0, .rw⟩]⟩

/-- `TB.LOCK`. -/
def tbLock : RegDef :=
  ⟨"TB.LOCK", 0x200018, 0x1, 1, 0x1, 1, 32, .chip, .f0, fun _ _ => 0x3c0014,
    [⟨31, 16, .rw⟩, ⟨15, 0, .rw⟩]⟩

/-- `TB.PSTEP`. -/
def tbPstep : RegDef :=
  ⟨"TB.PSTEP", 0x200020, 0x1, 1, 0x1, 1, 32, .chip, .f0, fun _ _ => 0,
    [⟨31, 0, .wo⟩]⟩

/-- `TB.PSTEP_REM`. -/
def tbPstepRem : RegDef :=
  ⟨"TB.PSTEP_REM", 0x200024, 0x1, 1, 0x1, 1, 32, .chip, .f0, fun _ _ => 0,
    [⟨31, 0, .ro⟩]⟩

/-- `TB.FREQ`. -/
def tbFreq : RegDef :=
  ⟨"TB.FREQ", 0x200028, 0x1, 1, 0x1, 1, 32, .chip, .f0, fun _ _ => 0,
    [⟨31, 0, .ro⟩]⟩

/-- `TB.HOLD`. -/
def tbHold : RegDef :=
  ⟨"TB.HOLD", 0x20002c, 0x1, 1, 0x1, 1, 32, .chip, .f0, fun _ _ => 0,
    [⟨31, 0, .ro⟩]⟩

/-- `TB.FREE_OFS`. -/
def tbFreeOfs : RegDef :=
  ⟨"TB.FREE_OFS", 0x200030, 0x1, 1, 0x1, 1, 32, .chip, .f0, fun _ _ => 0,
    [⟨31, 0, .rw⟩]⟩

/-- `TB.REFx.CFG`. -/
def tbRefCfg : RegDef :=
  ⟨"TB.REFx.CFG", 0x200100, 0x20, 3, 0x1, 1, 32, .chip, .f0, fun i _ => i + 1,
    [⟨3, 0, .rw⟩]⟩

/-- `TB.REFx.DELAY`. -/
def tbRefDelay : RegDef :=
  ⟨"TB.REFx.DELAY", 0x200104, 0x20, 3, 0x1, 1, 32, .chip, .f0, fun _ _ => 0,
    [⟨31, 0, .rw⟩]⟩

/-- `TB.REFx.STAT`. -/
def tbRefStat : RegDef :=
  ⟨"TB.REFx.STAT", 0x200108, 0x20, 3, 0x1, 1, 32, .chip, .f0, fun _ _ => 0,
    [⟨6, 4, .ro⟩, ⟨3, 3, .ro⟩, ⟨2, 2, .ro⟩, ⟨1, 0, .ro⟩]⟩

/-- `TB.REFx.FOFS`. -/
def tbRefFofs : RegDef :=
  ⟨"TB.REFx.FOFS", 0x20010c, 0x20, 3, 0x1, 1, 32, .chip, .f0, fun _ _ => 0,
    [⟨31, 0, .ro⟩]⟩

/-- `TB.REFx.POFS`. -/
def tbRefPofs : RegDef :=
  ⟨"TB.REFx.POFS", 0x200110, 0x20, 3, 0x1, 1, 32, .chip, .f0, fun _ _ => 0,
    [⟨31, 0, .ro⟩]⟩

/-- `PTPS.CFG`. -/
def ptpsCfg : RegDef :=
  ⟨"PTPS.CFG", 0x200200, 0x1, 1, 0x1, 1, 32, .chip, .f0, fun _ _ => 0x2040a,
    [⟨31, 31, .rw⟩, ⟨18, 16, .rw⟩, ⟨15, 8, .rw⟩, ⟨7, 0, .rw⟩]⟩

/-- `PTPS.T2`. -/
def ptpsT2 : RegDef :=
  ⟨"PTPS.T2", 0x200208, 0x1, 1, 0x1, 1, 64, .chip, .f0, fun _ _ => 0,
    [⟨63, 0, .rw⟩]⟩

/-- `PTPS.OFS`. -/
def ptpsOfs : RegDef :=
  ⟨"PTPS.OFS", 0x200210, 0x1, 1, 0x1, 1, 64, .chip, .f0, fun _ _ => 0,
    [⟨63, 0, .wo⟩]⟩

/-- `PTPS.STATE`. -/
def ptpsState : RegDef :=
  ⟨"PTPS.STATE", 0x200218, 0x1, 1, 0x1, 1, 32, .chip, .f0, fun _ _ => 0,
    [⟨2, 0, .ro⟩]⟩

/-- `PTPS.FILT`. -/
def ptpsFilt : RegDef :=
  ⟨"PTPS.FILT", 0x200220, 0x1, 1, 0x1, 1, 64, .chip, .f0, fun _ _ => 0,
    [⟨63, 0, .ro⟩]⟩

/-- `PTPS.FOFS`. -/
def ptpsFofs : RegDef :=
  ⟨"PTPS.FOFS", 0x200228, 0x1, 1, 0x1, 1, 32, .chip, .f0, fun _ _ => 0,
    [⟨31, 0, .ro⟩]⟩

/-- `TICK.CTRL`. -/
def tickCtrl : RegDef :=
  ⟨"TICK.CTRL", 0x208000, 0x1, 1, 0x1, 1, 32, .chip, .f0, fun _ _ => 0x120,
    [⟨8, 8, .rw⟩, ⟨5, 4, .rw⟩, ⟨1, 1, .rw⟩, ⟨0, 0, .rw⟩]⟩

/-- `TICK.EPOCH`. -/
def tickEpoch : RegDef :=
  ⟨"TICK.EPOCH", 0x208008, 0x1, 1, 0x1, 1, 64, .chip, .f0, fun _ _ => 0,
    [⟨47, 0, .rw⟩]⟩

/-- `TICK.FRAME`. -/
def tickFrame : RegDef :=
  ⟨"TICK.FRAME", 0x208010, 0x1, 1, 0x1, 1, 64, .chip, .f0, fun _ _ => 0,
    [⟨33, 0, .ro⟩]⟩

/-- `TICK.FT_TOD`. -/
def tickFtTod : RegDef :=
  ⟨"TICK.FT_TOD", 0x208018, 0x1, 1, 0x1, 1, 64, .chip, .f0, fun _ _ => 0,
    [⟨63, 30, .ro⟩, ⟨29, 0, .ro⟩]⟩

/-- `TICK.SKEW`. -/
def tickSkew : RegDef :=
  ⟨"TICK.SKEW", 0x208020, 0x1, 1, 0x1, 1, 32, .chip, .f0, fun _ _ => 8,
    [⟨15, 8, .ro⟩, ⟨7, 0, .rw⟩]⟩

/-- `TICK.STATUS`. -/
def tickStatus : RegDef :=
  ⟨"TICK.STATUS", 0x208024, 0x1, 1, 0x1, 1, 32, .chip, .f0, fun _ _ => 0,
    [⟨4, 4, .ro⟩, ⟨3, 3, .ro⟩, ⟨2, 2, .w1c⟩, ⟨1, 1, .w1c⟩, ⟨0, 0, .ro⟩]⟩

/-- `TICK.COMMIT`. -/
def tickCommit : RegDef :=
  ⟨"TICK.COMMIT", 0x208030, 0x1, 1, 0x1, 1, 32, .chip, .any, fun _ _ => 0,
    [⟨3, 3, .wo⟩, ⟨2, 2, .wo⟩, ⟨1, 1, .wo⟩, ⟨0, 0, .wo⟩]⟩

/-- `TICK.COMMIT_ST`. -/
def tickCommitSt : RegDef :=
  ⟨"TICK.COMMIT_ST", 0x208034, 0x1, 1, 0x1, 1, 32, .chip, .f0, fun _ _ => 0,
    [⟨7, 6, .ro⟩, ⟨5, 4, .ro⟩, ⟨3, 2, .ro⟩, ⟨1, 0, .ro⟩]⟩

/-- `TOD.SEC`. -/
def todSec : RegDef :=
  ⟨"TOD.SEC", 0x209000, 0x1, 1, 0x1, 1, 64, .chip, .f0, fun _ _ => 0,
    [⟨47, 0, .ro⟩]⟩

/-- `TOD.NS`. -/
def todNs : RegDef :=
  ⟨"TOD.NS", 0x209008, 0x1, 1, 0x1, 1, 32, .chip, .f0, fun _ _ => 0,
    [⟨29, 0, .ro⟩]⟩

/-- `TOD.SETSEC`. -/
def todSetsec : RegDef :=
  ⟨"TOD.SETSEC", 0x209010, 0x1, 1, 0x1, 1, 64, .chip, .f0, fun _ _ => 0,
    [⟨63, 63, .wo⟩, ⟨47, 0, .wo⟩]⟩

/-- `RV.LEASE`. -/
def rvLease : RegDef :=
  ⟨"RV.LEASE", 0x300000, 0x1, 1, 0x1, 1, 32, .por, .f0, fun _ _ => 3,
    [⟨31, 16, .ro⟩, ⟨15, 15, .ro⟩, ⟨14, 14, .ro⟩, ⟨13, 11, .ro⟩, ⟨10, 8, .ro⟩, ⟨7, 7, .ro⟩, ⟨6, 6, .ro⟩, ⟨1, 0, .ro⟩]⟩

/-- `RV.STATUS`. -/
def rvStatus : RegDef :=
  ⟨"RV.STATUS", 0x300004, 0x1, 1, 0x1, 1, 32, .por, .f0, fun _ _ => 0,
    [⟨15, 15, .w1c⟩, ⟨14, 14, .w1c⟩, ⟨13, 13, .w1c⟩, ⟨12, 12, .w1c⟩, ⟨11, 11, .w1c⟩, ⟨10, 10, .w1c⟩, ⟨9, 9, .w1c⟩, ⟨8, 8, .w1c⟩, ⟨7, 7, .w1c⟩, ⟨6, 6, .w1c⟩, ⟨5, 5, .w1c⟩, ⟨4, 4, .w1c⟩, ⟨3, 3, .w1c⟩, ⟨2, 2, .w1c⟩, ⟨1, 1, .w1c⟩, ⟨0, 0, .w1c⟩]⟩

/-- `RV.CMD`. -/
def rvCmd : RegDef :=
  ⟨"RV.CMD", 0x300008, 0x1, 1, 0x1, 1, 32, .por, .f0, fun _ _ => 0,
    [⟨0, 0, .wo⟩]⟩

/-- `PWR.STATE`. -/
def pwrState : RegDef :=
  ⟨"PWR.STATE", 0x300010, 0x1, 1, 0x1, 1, 32, .por, .f0, fun _ _ => 0,
    [⟨10, 8, .ro⟩, ⟨2, 0, .ro⟩]⟩

/-- `PWR.CMD`. -/
def pwrCmd : RegDef :=
  ⟨"PWR.CMD", 0x300014, 0x1, 1, 0x1, 1, 32, .por, .f0, fun _ _ => 0,
    [⟨1, 0, .wo⟩]⟩

/-- `PWR.WAKE`. -/
def pwrWake : RegDef :=
  ⟨"PWR.WAKE", 0x300018, 0x1, 1, 0x1, 1, 32, .por, .f0, fun _ _ => 0,
    [⟨31, 0, .rw⟩]⟩

/-- `RST.CAUSE`. -/
def rstCause : RegDef :=
  ⟨"RST.CAUSE", 0x300020, 0x1, 1, 0x1, 1, 32, .por, .f0, fun _ _ => 1,
    [⟨6, 6, .w1c⟩, ⟨5, 5, .w1c⟩, ⟨4, 4, .w1c⟩, ⟨3, 3, .w1c⟩, ⟨2, 2, .w1c⟩, ⟨1, 1, .w1c⟩, ⟨0, 0, .w1c⟩]⟩

/-- `RST.CMD`. -/
def rstCmd : RegDef :=
  ⟨"RST.CMD", 0x300024, 0x1, 1, 0x1, 1, 32, .por, .f0, fun _ _ => 0,
    [⟨31, 30, .wo⟩, ⟨27, 24, .wo⟩, ⟨23, 12, .wo⟩, ⟨9, 8, .wo⟩]⟩

/-- `THERM.CFG`. -/
def thermCfg : RegDef :=
  ⟨"THERM.CFG", 0x300030, 0x1, 1, 0x1, 1, 32, .por, .f0, fun _ _ => 0x16e695f,
    [⟨24, 24, .rw⟩, ⟨23, 16, .rw⟩, ⟨15, 8, .rw⟩, ⟨7, 0, .rw⟩]⟩

/-- `THERM.STATUS`. -/
def thermStatus : RegDef :=
  ⟨"THERM.STATUS", 0x300034, 0x1, 1, 0x1, 1, 32, .por, .f0, fun _ _ => 0,
    [⟨4, 4, .w1c⟩, ⟨3, 3, .w1c⟩, ⟨2, 2, .w1c⟩, ⟨1, 1, .w1c⟩, ⟨0, 0, .w1c⟩]⟩

/-- `THERM.MAX`. -/
def thermMax : RegDef :=
  ⟨"THERM.MAX", 0x300038, 0x1, 1, 0x1, 1, 32, .por, .f0, fun _ _ => 0,
    [⟨15, 0, .ro⟩]⟩

/-- `THERM.TEMPs`. -/
def thermTemp : RegDef :=
  ⟨"THERM.TEMPs", 0x300040, 0x4, 16, 0x1, 1, 32, .por, .f0, fun _ _ => 0,
    [⟨15, 0, .ro⟩]⟩

/-- `PEAT.KEY`. -/
def peatKey : RegDef :=
  ⟨"PEAT.KEY", 0x300100, 0x1, 1, 0x1, 1, 32, .por, .f0, fun _ _ => 0,
    [⟨31, 0, .rw⟩]⟩

/-- `PEAT.LEN`. -/
def peatLen : RegDef :=
  ⟨"PEAT.LEN", 0x300104, 0x1, 1, 0x1, 1, 32, .por, .f0, fun _ _ => 0,
    [⟨31, 0, .rw⟩]⟩

/-- `PEAT.CMD`. -/
def peatCmd : RegDef :=
  ⟨"PEAT.CMD", 0x300108, 0x1, 1, 0x1, 1, 32, .por, .f0, fun _ _ => 0,
    [⟨2, 0, .wo⟩]⟩

/-- `PEAT.STAT`. -/
def peatStat : RegDef :=
  ⟨"PEAT.STAT", 0x30010c, 0x1, 1, 0x1, 1, 32, .por, .f0, fun _ _ => 0,
    [⟨31, 31, .ro⟩, ⟨2, 0, .ro⟩]⟩

/-- `PEAT.USE`. -/
def peatUse : RegDef :=
  ⟨"PEAT.USE", 0x300110, 0x1, 1, 0x1, 1, 32, .por, .f0, fun _ _ => 0,
    [⟨31, 0, .ro⟩]⟩

/-- `PEAT.DATA`. -/
def peatData : RegDef :=
  ⟨"PEAT.DATA", 0x301000, 0x4, 1024, 0x1, 1, 32, .por, .f0, fun _ _ => 0,
    [⟨31, 0, .rw⟩]⟩

/-- `CAL.FACTORYi`. -/
def calFactory : RegDef :=
  ⟨"CAL.FACTORYi", 0x302000, 0x4, 131, 0x1, 1, 32, .por, .f0, fun i _ => (Config.calFactory i).toNat,
    [⟨15, 0, .ro⟩]⟩

/-- `CAL.USERi`. -/
def calUser : RegDef :=
  ⟨"CAL.USERi", 0x303000, 0x4, 131, 0x1, 1, 32, .chip, .f0, fun _ _ => 0,
    [⟨31, 30, .rw⟩, ⟨15, 0, .rw⟩]⟩

/-- `CAL.EFFi`. -/
def calEff : RegDef :=
  ⟨"CAL.EFFi", 0x304000, 0x4, 131, 0x1, 1, 32, .por, .f0, fun i _ => (Config.calFactory i).toNat,
    [⟨15, 0, .ro⟩]⟩

/-- `CAL.MEMBASE`. -/
def calMembase : RegDef :=
  ⟨"CAL.MEMBASE", 0x308000, 0x4, 1152, 0x1, 1, 32, .por, .f0, fun i _ => (Config.memBaseline i).toNat,
    [⟨31, 0, .ro⟩]⟩

/-- `EVT.STATw`. -/
def evtStat : RegDef :=
  ⟨"EVT.STATw", 0x400000, 0x4, 16, 0x1, 1, 32, .chip, .evt, fun _ _ => 0,
    [⟨31, 0, .w1c⟩]⟩

/-- `EVT.ENw`. -/
def evtEn : RegDef :=
  ⟨"EVT.ENw", 0x400040, 0x4, 16, 0x1, 1, 32, .chip, .evt, fun i _ => if i = 0 then 0xFF else 0,
    [⟨31, 0, .rw⟩]⟩

/-- `EVT.RAISE`. -/
def evtRaise : RegDef :=
  ⟨"EVT.RAISE", 0x400080, 0x1, 1, 0x1, 1, 32, .chip, .f0, fun _ _ => 0,
    [⟨8, 0, .wo⟩]⟩

/-- `EVT.PINS`. -/
def evtPins : RegDef :=
  ⟨"EVT.PINS", 0x400084, 0x1, 1, 0x1, 1, 32, .chip, .f0, fun _ _ => 0,
    [⟨1, 1, .ro⟩, ⟨0, 0, .ro⟩]⟩

/-- `EVT.CNDt`. -/
def evtCnd : RegDef :=
  ⟨"EVT.CNDt", 0x400100, 0x4, 4, 0x1, 1, 32, .chip, .f0, fun _ _ => 0,
    [⟨31, 31, .ro⟩, ⟨8, 0, .ro⟩]⟩

/-- `EVT.REJECTf`. -/
def evtReject : RegDef :=
  ⟨"EVT.REJECTf", 0x400200, 0x8, 4, 0x1, 1, 64, .chip, .f0, fun _ _ => 0,
    [⟨63, 63, .w1c⟩, ⟨62, 61, .ro⟩, ⟨47, 0, .ro⟩]⟩

/-- `EVT.CFGi`. -/
def evtCfg : RegDef :=
  ⟨"EVT.CFGi", 0x401000, 0x4, 512, 0x1, 1, 32, .chip, .evt, fun i _ => evtCfgReset i,
    [⟨31, 30, .rw⟩, ⟨29, 28, .rw⟩, ⟨25, 24, .rw⟩, ⟨17, 16, .rw⟩, ⟨8, 0, .rw⟩]⟩

/-- `MSI-X table entry`. -/
def msixEntry : RegDef :=
  ⟨"MSI-X table entry", 0x100408000, 0x100000000, 4, 0x4, 2048, 32, .chip, .any, fun _ j => if j % 4 = 3 then 1 else 0,
    [⟨31, 0, .rw⟩]⟩

/-- `MSI-X control and power state`. -/
def pciMsix : RegDef :=
  ⟨"MSI-X control and power state", 0x10100000000, 0x100000000, 4, 0x1, 1, 32, .chip, .any, fun _ _ => 0,
    [⟨31, 31, .rw⟩, ⟨30, 30, .rw⟩]⟩

/-- `INGn.CTRL`. -/
def ingCtrl : RegDef :=
  ⟨"INGn.CTRL", 0x1000000, 0x10000, 8, 0x1, 1, 32, .chip, .f0, fun i _ => 2 + i * 0x1000,
    [⟨18, 16, .rw⟩, ⟨14, 12, .rw⟩, ⟨11, 11, .rw⟩, ⟨9, 8, .rw⟩, ⟨7, 6, .rw⟩, ⟨5, 5, .rw⟩, ⟨4, 4, .rw⟩, ⟨3, 3, .rw⟩, ⟨2, 2, .rw⟩, ⟨1, 1, .rw⟩, ⟨0, 0, .rw⟩]⟩

/-- `INGn.PSTATE`. -/
def ingPstate : RegDef :=
  ⟨"INGn.PSTATE", 0x1000004, 0x10000, 8, 0x1, 1, 32, .chip, .f0, fun _ _ => 0,
    [⟨11, 11, .ro⟩, ⟨10, 10, .ro⟩, ⟨9, 9, .ro⟩, ⟨8, 8, .ro⟩, ⟨2, 0, .ro⟩]⟩

/-- `INGn.CMD`. -/
def ingCmd : RegDef :=
  ⟨"INGn.CMD", 0x1000008, 0x10000, 8, 0x1, 1, 32, .chip, .f0, fun _ _ => 0,
    [⟨11, 9, .wo⟩, ⟨8, 8, .wo⟩, ⟨2, 2, .wo⟩, ⟨1, 1, .wo⟩, ⟨0, 0, .wo⟩]⟩

/-- `INGn.STATUS`. -/
def ingStatus : RegDef :=
  ⟨"INGn.STATUS", 0x100000c, 0x10000, 8, 0x1, 1, 32, .chip, .f0, fun _ _ => 0,
    [⟨7, 7, .w1c⟩, ⟨6, 6, .w1c⟩, ⟨5, 5, .w1c⟩, ⟨4, 4, .w1c⟩, ⟨3, 3, .w1c⟩, ⟨2, 2, .w1c⟩, ⟨1, 1, .w1c⟩, ⟨0, 0, .w1c⟩]⟩

/-- `INGn.LANESTAT`. -/
def ingLanestat : RegDef :=
  ⟨"INGn.LANESTAT", 0x1000010, 0x10000, 8, 0x1, 1, 32, .chip, .f0, fun _ _ => 0,
    [⟨23, 16, .ro⟩, ⟨15, 8, .ro⟩, ⟨7, 0, .ro⟩]⟩

/-- `INGn.LED`. -/
def ingLed : RegDef :=
  ⟨"INGn.LED", 0x1000014, 0x10000, 8, 0x1, 1, 32, .chip, .f0, fun _ _ => 0,
    [⟨1, 0, .rw⟩]⟩

/-- `INGn.LANEk.EQ`. -/
def ingLaneEq : RegDef :=
  ⟨"INGn.LANEk.EQ", 0x1000100, 0x10000, 8, 0x10, 8, 64, .chip, .f0, fun _ _ => 0,
    [⟨35, 32, .ro⟩, ⟨31, 24, .ro⟩, ⟨23, 18, .ro⟩, ⟨17, 12, .ro⟩, ⟨11, 6, .ro⟩, ⟨5, 0, .ro⟩]⟩

/-- `INGn.LANEk.DLY`. -/
def ingLaneDly : RegDef :=
  ⟨"INGn.LANEk.DLY", 0x1000108, 0x10000, 8, 0x10, 8, 32, .chip, .f0, fun _ j => j * 0x1000000,
    [⟨26, 24, .ro⟩, ⟨22, 16, .ro⟩, ⟨7, 0, .ro⟩]⟩

/-- `INGn.CNT_*`. -/
def ingCnt : RegDef :=
  ⟨"INGn.CNT_*", 0x1000200, 0x10000, 8, 0x4, 6, 32, .chip, .f0, fun _ _ => 0,
    [⟨31, 0, .ro⟩]⟩

/-- `INGn.LAST`. -/
def ingLast : RegDef :=
  ⟨"INGn.LAST", 0x1000220, 0x10000, 8, 0x1, 1, 64, .chip, .f0, fun _ _ => 0,
    [⟨63, 48, .ro⟩, ⟨47, 0, .ro⟩]⟩

/-- `INGn.PARTNER`. -/
def ingPartner : RegDef :=
  ⟨"INGn.PARTNER", 0x1000228, 0x10000, 8, 0x1, 1, 32, .chip, .f0, fun _ _ => 0,
    [⟨31, 0, .ro⟩]⟩

/-- `INGn.PRBS`. -/
def ingPrbs : RegDef :=
  ⟨"INGn.PRBS", 0x1000300, 0x10000, 8, 0x1, 1, 32, .chip, .f0, fun _ _ => 0,
    [⟨15, 8, .rw⟩, ⟨7, 0, .rw⟩]⟩

/-- `INGn.PRBSk.ERR`. -/
def ingPrbsErr : RegDef :=
  ⟨"INGn.PRBSk.ERR", 0x1000310, 0x10000, 8, 0x4, 8, 32, .chip, .f0, fun _ _ => 0,
    [⟨31, 31, .ro⟩, ⟨30, 0, .ro⟩]⟩

/-- `FEn.CTRL`. -/
def feCtrl : RegDef :=
  ⟨"FEn.CTRL", 0x1001000, 0x10000, 8, 0x1, 1, 32, .chip, .f0, fun _ _ => 0xc0000,
    [⟨20, 16, .rw⟩, ⟨9, 9, .rw⟩, ⟨8, 8, .rw⟩]⟩

/-- `FEn.SPIKE`. -/
def feSpike : RegDef :=
  ⟨"FEn.SPIKE", 0x1001004, 0x10000, 8, 0x1, 1, 32, .chip, .f0, fun _ _ => 0x100018,
    [⟨28, 16, .rw⟩, ⟨5, 0, .rw⟩]⟩

/-- `FEn.CMD`. -/
def feCmd : RegDef :=
  ⟨"FEn.CMD", 0x1001008, 0x10000, 8, 0x1, 1, 32, .chip, .f0, fun _ _ => 0,
    [⟨1, 1, .wo⟩, ⟨0, 0, .wo⟩]⟩

/-- `FEn.STATUS`. -/
def feStatusN : RegDef :=
  ⟨"FEn.STATUS", 0x100100c, 0x10000, 8, 0x1, 1, 32, .chip, .f0, fun _ _ => 0,
    [⟨1, 1, .w1c⟩, ⟨0, 0, .w1c⟩]⟩

/-- `FEn.CNT_PFBSAT, CNT_HOLDOVF`. -/
def feCnt : RegDef :=
  ⟨"FEn.CNT_PFBSAT, CNT_HOLDOVF", 0x1001010, 0x10000, 8, 0x4, 2, 32, .chip, .f0, fun _ _ => 0,
    [⟨31, 0, .ro⟩]⟩

/-- `FE.CFG`. -/
def feCfg : RegDef :=
  ⟨"FE.CFG", 0x10f0000, 0x1, 1, 0x1, 1, 32, .chip, .f0, fun _ _ => 0x550802,
    [⟨23, 16, .rw⟩, ⟨15, 15, .rw⟩, ⟨14, 14, .rw⟩, ⟨11, 10, .rw⟩, ⟨8, 8, .rw⟩, ⟨2, 0, .rw⟩]⟩

/-- `FE.DFE`. -/
def feDfe : RegDef :=
  ⟨"FE.DFE", 0x10f0004, 0x1, 1, 0x1, 1, 32, .chip, .f0, fun _ _ => 0x121,
    [⟨11, 0, .ro⟩]⟩

/-- `FE.FLAGLIM`. -/
def feFlaglim : RegDef :=
  ⟨"FE.FLAGLIM", 0x10f0008, 0x1, 1, 0x1, 1, 32, .chip, .f0, fun _ _ => 0,
    [⟨11, 0, .rw⟩]⟩

/-- `FE.STATUS`. -/
def feStatus : RegDef :=
  ⟨"FE.STATUS", 0x10f000c, 0x1, 1, 0x1, 1, 32, .chip, .f0, fun _ _ => 0,
    [⟨0, 0, .ro⟩]⟩

/-- `FE.DLY_C0`. -/
def feDlyC0 : RegDef :=
  ⟨"FE.DLY_C0", 0x10f0010, 0x1, 1, 0x1, 1, 64, .chip, .f0, fun _ _ => 0,
    [⟨47, 0, .rw⟩]⟩

/-- `FE.DLY_F0`. -/
def feDlyF0 : RegDef :=
  ⟨"FE.DLY_F0", 0x10f0018, 0x1, 1, 0x1, 1, 64, .chip, .f0, fun _ _ => 0,
    [⟨63, 63, .rw⟩, ⟨47, 0, .rw⟩]⟩

/-- `FE.DLY_C0_LIVE`. -/
def feDlyC0Live : RegDef :=
  ⟨"FE.DLY_C0_LIVE", 0x10f0020, 0x1, 1, 0x1, 1, 64, .chip, .f0, fun _ _ => 0,
    [⟨47, 0, .ro⟩]⟩

/-- `FE.DLY_F0_LIVE`. -/
def feDlyF0Live : RegDef :=
  ⟨"FE.DLY_F0_LIVE", 0x10f0028, 0x1, 1, 0x1, 1, 64, .chip, .f0, fun _ _ => 0,
    [⟨63, 63, .ro⟩, ⟨47, 0, .ro⟩]⟩

/-- `MVe.RING_BASE`. -/
def mvRingBase : RegDef :=
  ⟨"MVe.RING_BASE", 0x2000000, 0x1000, 16, 0x1, 1, 64, .chip, .f0, fun _ _ => 0,
    [⟨47, 6, .rw⟩]⟩

/-- `MVe.RING_CFG`. -/
def mvRingCfg : RegDef :=
  ⟨"MVe.RING_CFG", 0x2000008, 0x1000, 16, 0x1, 1, 32, .chip, .f0, fun _ _ => 4,
    [⟨31, 31, .rw⟩, ⟨17, 16, .rw⟩, ⟨8, 8, .rw⟩, ⟨4, 0, .rw⟩]⟩

/-- `MVe.HEAD`. -/
def mvHead : RegDef :=
  ⟨"MVe.HEAD", 0x200000c, 0x1000, 16, 0x1, 1, 32, .chip, .f0, fun _ _ => 0,
    [⟨15, 0, .ro⟩]⟩

/-- `MVe.TAIL`. -/
def mvTail : RegDef :=
  ⟨"MVe.TAIL", 0x2000010, 0x1000, 16, 0x1, 1, 32, .chip, .ring, fun _ _ => 0,
    [⟨15, 0, .rw⟩]⟩

/-- `MVe.STATUS`. -/
def mvStatus : RegDef :=
  ⟨"MVe.STATUS", 0x2000014, 0x1000, 16, 0x1, 1, 32, .chip, .f0, fun _ _ => 0,
    [⟨3, 3, .w1c⟩, ⟨2, 2, .w1c⟩, ⟨1, 1, .w1c⟩, ⟨0, 0, .ro⟩]⟩

/-- `MVe.WM`. -/
def mvWm : RegDef :=
  ⟨"MVe.WM", 0x2000018, 0x1000, 16, 0x1, 1, 32, .chip, .f0, fun _ _ => 0,
    [⟨15, 0, .rw⟩]⟩

/-- `MVe.PEAK`. -/
def mvPeak : RegDef :=
  ⟨"MVe.PEAK", 0x200001c, 0x1000, 16, 0x1, 1, 32, .chip, .f0, fun _ _ => 0,
    [⟨15, 0, .ro⟩]⟩

/-- `MIRE.BASE`. -/
def mireBase : RegDef :=
  ⟨"MIRE.BASE", 0x2010000, 0x1, 1, 0x1, 1, 64, .chip, .f0, fun _ _ => 0,
    [⟨47, 12, .rw⟩]⟩

/-- `MIRE.WORK`. -/
def mireWork : RegDef :=
  ⟨"MIRE.WORK", 0x2010008, 0x1, 1, 0x1, 1, 64, .chip, .f0, fun _ _ => 0,
    [⟨63, 63, .rw⟩, ⟨47, 12, .rw⟩]⟩

/-- `MIRE.CFG`. -/
def mireCfg : RegDef :=
  ⟨"MIRE.CFG", 0x2010010, 0x1, 1, 0x1, 1, 32, .chip, .f0, fun _ _ => 0x10c,
    [⟨24, 24, .rw⟩, ⟨23, 18, .rw⟩, ⟨16, 16, .rw⟩, ⟨11, 8, .rw⟩, ⟨6, 0, .rw⟩]⟩

/-- `MIRE.CMD`. -/
def mireCmd : RegDef :=
  ⟨"MIRE.CMD", 0x2010014, 0x1, 1, 0x1, 1, 32, .chip, .any, fun _ _ => 0,
    [⟨1, 1, .wo⟩, ⟨0, 0, .wo⟩]⟩

/-- `MIRE.MARK`. -/
def mireMark : RegDef :=
  ⟨"MIRE.MARK", 0x2010018, 0x1, 1, 0x1, 1, 64, .chip, .f0, fun _ _ => 0,
    [⟨63, 63, .rw⟩, ⟨33, 0, .rw⟩]⟩

/-- `MIRE.STATUS`. -/
def mireStatus : RegDef :=
  ⟨"MIRE.STATUS", 0x2010020, 0x1, 1, 0x1, 1, 32, .chip, .f0, fun _ _ => 0,
    [⟨6, 6, .w1c⟩, ⟨5, 4, .ro⟩, ⟨3, 3, .w1c⟩, ⟨2, 2, .w1c⟩, ⟨1, 1, .ro⟩]⟩

/-- `MIRE.FROZEN_AT`. -/
def mireFrozenAt : RegDef :=
  ⟨"MIRE.FROZEN_AT", 0x2010028, 0x1, 1, 0x1, 1, 64, .chip, .f0, fun _ _ => 0,
    [⟨33, 0, .ro⟩]⟩

/-- `MIRE.DIRs`. -/
def mireDir : RegDef :=
  ⟨"MIRE.DIRs", 0x2010100, 0x8, 64, 0x1, 1, 64, .chip, .f0, fun _ _ => 0,
    [⟨63, 63, .ro⟩, ⟨62, 62, .ro⟩, ⟨33, 0, .ro⟩]⟩

/-- `MIRE.KEEPt.BASE`. -/
def mireKeepBase : RegDef :=
  ⟨"MIRE.KEEPt.BASE", 0x2010400, 0x20, 4, 0x1, 1, 64, .chip, .ten, fun _ _ => 0,
    [⟨47, 12, .rw⟩]⟩

/-- `MIRE.KEEPt.CFG`. -/
def mireKeepCfg : RegDef :=
  ⟨"MIRE.KEEPt.CFG", 0x2010408, 0x20, 4, 0x1, 1, 64, .chip, .ten, fun _ _ => 0,
    [⟨47, 32, .rw⟩, ⟨24, 16, .rw⟩, ⟨11, 0, .rw⟩]⟩

/-- `GATE.MEMBERS`. -/
def gateMembers : RegDef :=
  ⟨"GATE.MEMBERS", 0x2020000, 0x1, 1, 0x1, 1, 64, .chip, .f0, fun _ _ => 0,
    [⟨47, 0, .rw⟩]⟩

/-- `GATE.ISSUER`. -/
def gateIssuer : RegDef :=
  ⟨"GATE.ISSUER", 0x2020008, 0x1, 1, 0x1, 1, 32, .chip, .f0, fun _ _ => 0,
    [⟨31, 31, .rw⟩, ⟨9, 8, .rw⟩, ⟨3, 0, .rw⟩]⟩

/-- `GATE.PENDx`. -/
def gatePend : RegDef :=
  ⟨"GATE.PENDx", 0x2020010, 0x8, 2, 0x1, 1, 64, .chip, .f0, fun _ _ => 0,
    [⟨47, 0, .ro⟩]⟩

/-- `GATE.STATUS`. -/
def gateStatus : RegDef :=
  ⟨"GATE.STATUS", 0x2020020, 0x1, 1, 0x1, 1, 32, .chip, .f0, fun _ _ => 0,
    [⟨0, 0, .w1c⟩]⟩

/-- `EGR.CFG`. -/
def egrCfg : RegDef :=
  ⟨"EGR.CFG", 0x3000000, 0x1, 1, 0x1, 1, 32, .chip, .f0, fun _ _ => 0x3e82400,
    [⟨31, 16, .rw⟩, ⟨13, 0, .rw⟩]⟩

/-- `EGR.DATALEN`. -/
def egrDatalen : RegDef :=
  ⟨"EGR.DATALEN", 0x3000004, 0x1, 1, 0x1, 1, 32, .chip, .f0, fun _ _ => 0x2000,
    [⟨13, 0, .rw⟩]⟩

/-- `EGR.STATUS`. -/
def egrStatus : RegDef :=
  ⟨"EGR.STATUS", 0x3000008, 0x1, 1, 0x1, 1, 32, .chip, .f0, fun _ _ => 0,
    [⟨1, 1, .w1c⟩, ⟨0, 0, .w1c⟩]⟩

/-- `EGR.FAULT`. -/
def egrFault : RegDef :=
  ⟨"EGR.FAULT", 0x300000c, 0x1, 1, 0x1, 1, 32, .chip, .f0, fun _ _ => 0,
    [⟨31, 31, .w1c⟩, ⟨26, 24, .ro⟩, ⟨17, 0, .ro⟩]⟩

/-- `EGR.SEALFAULT`. -/
def egrSealfault : RegDef :=
  ⟨"EGR.SEALFAULT", 0x3000010, 0x1, 1, 0x1, 1, 32, .chip, .f0, fun _ _ => 0,
    [⟨31, 31, .w1c⟩, ⟨25, 24, .ro⟩, ⟨17, 0, .ro⟩]⟩

/-- `EGR.CNT_FAULT, CNT_SEAL, CNT_DISABLED`. -/
def egrCnt : RegDef :=
  ⟨"EGR.CNT_FAULT, CNT_SEAL, CNT_DISABLED", 0x3000014, 0x4, 3, 0x1, 1, 32, .chip, .f0, fun _ _ => 0,
    [⟨31, 0, .ro⟩]⟩

/-- `EGRp.CTRL`. -/
def egrpCtrl : RegDef :=
  ⟨"EGRp.CTRL", 0x3001000, 0x1000, 2, 0x1, 1, 32, .chip, .f0, fun _ _ => 0x3db,
    [⟨31, 31, .rw⟩, ⟨9, 0, .rw⟩]⟩

/-- `EGRp.STAT`. -/
def egrpStat : RegDef :=
  ⟨"EGRp.STAT", 0x3001004, 0x1000, 2, 0x1, 1, 32, .chip, .f0, fun _ _ => 0,
    [⟨11, 11, .ro⟩, ⟨10, 10, .ro⟩, ⟨9, 9, .ro⟩, ⟨8, 8, .ro⟩, ⟨1, 0, .ro⟩]⟩

/-- `EGRp.STATUS`. -/
def egrpStatus : RegDef :=
  ⟨"EGRp.STATUS", 0x3001008, 0x1000, 2, 0x1, 1, 32, .chip, .f0, fun _ _ => 0,
    [⟨4, 4, .w1c⟩, ⟨3, 3, .w1c⟩, ⟨2, 2, .w1c⟩, ⟨1, 1, .w1c⟩, ⟨0, 0, .w1c⟩]⟩

/-- `EGRp.MAC`. -/
def egrpMac : RegDef :=
  ⟨"EGRp.MAC", 0x3001010, 0x1000, 2, 0x1, 1, 64, .chip, .f0, fun _ _ => 0,
    [⟨47, 0, .rw⟩]⟩

/-- `EGRp.CNT_*`. -/
def egrpCnt : RegDef :=
  ⟨"EGRp.CNT_*", 0x3001020, 0x1000, 2, 0x4, 6, 32, .chip, .f0, fun _ _ => 0,
    [⟨31, 0, .ro⟩]⟩

/-- `EGRp.TSQ_HI`. -/
def egrpTsqHi : RegDef :=
  ⟨"EGRp.TSQ_HI", 0x3001040, 0x1000, 2, 0x1, 1, 64, .chip, .f0, fun _ _ => 0,
    [⟨63, 63, .ro⟩, ⟨47, 32, .ro⟩, ⟨17, 0, .ro⟩]⟩

/-- `EGRp.TSQ_TOD`. -/
def egrpTsqTod : RegDef :=
  ⟨"EGRp.TSQ_TOD", 0x3001048, 0x1000, 2, 0x1, 1, 64, .chip, .f0, fun _ _ => 0,
    [⟨63, 0, .ro⟩]⟩

/-- `EGRp.TSQ_CNT`. -/
def egrpTsqCnt : RegDef :=
  ⟨"EGRp.TSQ_CNT", 0x3001050, 0x1000, 2, 0x1, 1, 32, .chip, .f0, fun _ _ => 0,
    [⟨6, 0, .ro⟩]⟩

/-- `EGRp.TSQ_LOST`. -/
def egrpTsqLost : RegDef :=
  ⟨"EGRp.TSQ_LOST", 0x3001054, 0x1000, 2, 0x1, 1, 32, .chip, .f0, fun _ _ => 0,
    [⟨31, 0, .ro⟩]⟩

/-- `EGRp.TSQ_WM`. -/
def egrpTsqWm : RegDef :=
  ⟨"EGRp.TSQ_WM", 0x3001058, 0x1000, 2, 0x1, 1, 32, .chip, .f0, fun _ _ => 0,
    [⟨6, 0, .rw⟩]⟩

/-- `EGRp.TSQ_PEAK`. -/
def egrpTsqPeak : RegDef :=
  ⟨"EGRp.TSQ_PEAK", 0x300105c, 0x1000, 2, 0x1, 1, 32, .chip, .f0, fun _ _ => 0,
    [⟨6, 0, .ro⟩]⟩

/-- `EGRp.PTPRX_STAT`. -/
def egrpPtprxStat : RegDef :=
  ⟨"EGRp.PTPRX_STAT", 0x3001060, 0x1000, 2, 0x1, 1, 32, .chip, .f0, fun _ _ => 0,
    [⟨22, 16, .ro⟩, ⟨5, 0, .ro⟩]⟩

/-- `EGRp.PTPRX_CMD`. -/
def egrpPtprxCmd : RegDef :=
  ⟨"EGRp.PTPRX_CMD", 0x3001064, 0x1000, 2, 0x1, 1, 32, .chip, .f0, fun _ _ => 0,
    [⟨1, 1, .wo⟩, ⟨0, 0, .wo⟩]⟩

/-- `NOTEt.NEXT`. -/
def noteNext : RegDef :=
  ⟨"NOTEt.NEXT", 0x3008000, 0x40, 4, 0x1, 1, 32, .chip, .own, fun _ _ => 0,
    [⟨31, 31, .ro⟩, ⟨30, 30, .ro⟩, ⟨29, 28, .ro⟩, ⟨27, 24, .ro⟩, ⟨23, 16, .ro⟩]⟩

/-- `NOTEt.WORD`. -/
def noteWord : RegDef :=
  ⟨"NOTEt.WORD", 0x3008004, 0x40, 4, 0x1, 1, 32, .chip, .own, fun _ _ => 0,
    [⟨31, 0, .ro⟩]⟩

/-- `NOTEt.CMD`. -/
def noteCmd : RegDef :=
  ⟨"NOTEt.CMD", 0x3008008, 0x40, 4, 0x1, 1, 32, .chip, .own, fun _ _ => 0,
    [⟨1, 1, .wo⟩, ⟨0, 0, .wo⟩]⟩

/-- `NOTEt.COUNT`. -/
def noteCount : RegDef :=
  ⟨"NOTEt.COUNT", 0x300800c, 0x40, 4, 0x1, 1, 32, .chip, .own, fun _ _ => 0,
    [⟨26, 16, .ro⟩, ⟨11, 0, .ro⟩]⟩

/-- `NOTEt.STATUS`. -/
def noteStatus : RegDef :=
  ⟨"NOTEt.STATUS", 0x3008010, 0x40, 4, 0x1, 1, 32, .chip, .own, fun _ _ => 0,
    [⟨2, 2, .w1c⟩, ⟨1, 1, .w1c⟩, ⟨0, 0, .w1c⟩]⟩

/-- `NOTEt.LOST`. -/
def noteLost : RegDef :=
  ⟨"NOTEt.LOST", 0x3008014, 0x40, 4, 0x1, 1, 32, .chip, .own, fun _ _ => 0,
    [⟨31, 0, .ro⟩]⟩

/-- `NOTEt.WM`. -/
def noteWm : RegDef :=
  ⟨"NOTEt.WM", 0x3008018, 0x40, 4, 0x1, 1, 32, .chip, .own, fun _ _ => 0,
    [⟨11, 0, .rw⟩]⟩

/-- `NOTEt.PEAK`. -/
def notePeak : RegDef :=
  ⟨"NOTEt.PEAK", 0x300801c, 0x40, 4, 0x1, 1, 32, .chip, .own, fun _ _ => 0,
    [⟨11, 0, .ro⟩]⟩

/-- `FAB.STATUS`. -/
def fabStatus : RegDef :=
  ⟨"FAB.STATUS", 0x4000000, 0x1, 1, 0x1, 1, 32, .chip, .f0, fun _ _ => 0,
    [⟨3, 3, .w1c⟩, ⟨2, 2, .w1c⟩, ⟨1, 1, .w1c⟩, ⟨0, 0, .w1c⟩]⟩

/-- `FAB.ERRADDR`. -/
def fabErraddr : RegDef :=
  ⟨"FAB.ERRADDR", 0x4000008, 0x1, 1, 0x1, 1, 64, .chip, .f0, fun _ _ => 0,
    [⟨47, 0, .ro⟩]⟩

/-- `FAB.ERRSRC`. -/
def fabErrsrc : RegDef :=
  ⟨"FAB.ERRSRC", 0x4000010, 0x1, 1, 0x1, 1, 32, .chip, .f0, fun _ _ => 0,
    [⟨31, 31, .w1c⟩, ⟨16, 10, .ro⟩, ⟨9, 0, .ro⟩]⟩

/-- `FAB.STARVE`. -/
def fabStarve : RegDef :=
  ⟨"FAB.STARVE", 0x4000018, 0x1, 1, 0x1, 1, 32, .chip, .f0, fun _ _ => 0xa0,
    [⟨15, 0, .rw⟩]⟩

/-- `FAB.HOSTQOS`. -/
def fabHostqos : RegDef :=
  ⟨"FAB.HOSTQOS", 0x400001c, 0x1, 1, 0x1, 1, 32, .chip, .f0, fun _ _ => 3,
    [⟨3, 0, .rw⟩]⟩

/-- `FAB.PARKt`. -/
def fabPark : RegDef :=
  ⟨"FAB.PARKt", 0x4000100, 0x4, 108, 0x1, 1, 32, .chip, .f0, fun _ _ => 0,
    [⟨6, 0, .rw⟩]⟩

/-- `INT.CHIPERR`. -/
def intChiperr : RegDef :=
  ⟨"INT.CHIPERR", 0x4100000, 0x1, 1, 0x1, 1, 32, .chip, .f0, fun _ _ => 0,
    [⟨10, 10, .w1c⟩, ⟨9, 9, .w1c⟩, ⟨8, 8, .w1c⟩, ⟨7, 7, .w1c⟩, ⟨6, 6, .w1c⟩, ⟨5, 5, .w1c⟩, ⟨4, 4, .w1c⟩, ⟨3, 3, .w1c⟩, ⟨2, 2, .w1c⟩, ⟨1, 1, .w1c⟩, ⟨0, 0, .w1c⟩]⟩

/-- `INT.LOGl.STAT`. -/
def intLogStat : RegDef :=
  ⟨"INT.LOGl.STAT", 0x4100010, 0x8, 4, 0x1, 1, 32, .por, .f0, fun _ _ => 0,
    [⟨31, 16, .ro⟩, ⟨8, 0, .ro⟩]⟩

/-- `INT.LOGl.CMD`. -/
def intLogCmd : RegDef :=
  ⟨"INT.LOGl.CMD", 0x4100014, 0x8, 4, 0x1, 1, 32, .por, .f0, fun _ _ => 0,
    [⟨0, 0, .wo⟩]⟩

/-- `INT.FIRSTl`. -/
def intFirst : RegDef :=
  ⟨"INT.FIRSTl", 0x4100040, 0x8, 4, 0x1, 1, 64, .por, .f0, fun _ _ => 0,
    [⟨63, 63, .w1c⟩, ⟨55, 48, .ro⟩, ⟨47, 0, .ro⟩]⟩

/-- `INT.CECNTl`. -/
def intCecnt : RegDef :=
  ⟨"INT.CECNTl", 0x4100060, 0x4, 4, 0x1, 1, 32, .por, .f0, fun _ _ => 0,
    [⟨31, 0, .ro⟩]⟩

/-- `TWINn`. -/
def twin : RegDef :=
  ⟨"TWINn", 0x4100080, 0x4, 8, 0x1, 1, 32, .chip, .f0, fun _ _ => 0,
    [⟨31, 31, .ro⟩, ⟨30, 30, .wo⟩, ⟨27, 24, .ro⟩, ⟨23, 8, .ro⟩, ⟨3, 0, .ro⟩]⟩

/-- `SCRUBu.CTRL`. -/
def scrubCtrl : RegDef :=
  ⟨"SCRUBu.CTRL", 0x4101000, 0x20, 238, 0x1, 1, 32, .chip, .f0, fun _ _ => 0x80000258,
    [⟨31, 31, .rw⟩, ⟨15, 0, .rw⟩]⟩

/-- `SCRUBu.LAST, MIN, MAX`. -/
def scrubLap : RegDef :=
  ⟨"SCRUBu.LAST, MIN, MAX", 0x4101004, 0x20, 238, 0x4, 3, 32, .chip, .f0, fun _ j => if j = 1 then 0xFFFFFFFF else 0,
    [⟨31, 0, .ro⟩]⟩

/-- `SRETu.CMD`. -/
def sretCmd : RegDef :=
  ⟨"SRETu.CMD", 0x4101010, 0x20, 238, 0x1, 1, 32, .chip, .f0, fun _ _ => 0,
    [⟨31, 31, .wo⟩, ⟨8, 0, .wo⟩]⟩

/-- `SRETu.STAT`. -/
def sretStat : RegDef :=
  ⟨"SRETu.STAT", 0x4101014, 0x20, 238, 0x1, 1, 32, .chip, .f0, fun _ _ => 0,
    [⟨31, 31, .ro⟩, ⟨30, 29, .ro⟩, ⟨8, 0, .ro⟩]⟩

/-- `SRETu.USED`. -/
def sretUsed : RegDef :=
  ⟨"SRETu.USED", 0x4101018, 0x20, 238, 0x1, 1, 32, .chip, .f0, fun _ _ => 0,
    [⟨0, 0, .ro⟩]⟩

/-- `SEAL.KEYDATAw`. -/
def sealKeydata : RegDef :=
  ⟨"SEAL.KEYDATAw", 0x4103000, 0x4, 8, 0x1, 1, 32, .chip, .any, fun _ _ => 0,
    [⟨31, 0, .wo⟩]⟩

/-- `SEAL.KEYCMD`. -/
def sealKeycmd : RegDef :=
  ⟨"SEAL.KEYCMD", 0x4103020, 0x1, 1, 0x1, 1, 32, .chip, .any, fun _ _ => 0,
    [⟨31, 31, .wo⟩, ⟨30, 30, .wo⟩, ⟨24, 24, .wo⟩, ⟨17, 16, .wo⟩, ⟨5, 0, .wo⟩]⟩

/-- `SEAL.SLOTs`. -/
def sealSlot : RegDef :=
  ⟨"SEAL.SLOTs", 0x4103100, 0x4, 64, 0x1, 1, 32, .chip, .any, fun _ _ => 0,
    [⟨31, 31, .ro⟩, ⟨30, 30, .ro⟩, ⟨17, 16, .ro⟩, ⟨15, 0, .ro⟩]⟩

/-- `MCp.STAT`. -/
def mcStat : RegDef :=
  ⟨"MCp.STAT", 0x5000000, 0x1000, 128, 0x1, 1, 32, .chip, .f0, fun _ _ => 0,
    [⟨2, 0, .ro⟩]⟩

/-- `MCp.OCC`. -/
def mcOcc : RegDef :=
  ⟨"MCp.OCC", 0x5000004, 0x1000, 128, 0x1, 1, 32, .chip, .f0, fun _ _ => 0,
    [⟨23, 16, .ro⟩, ⟨7, 0, .ro⟩]⟩

/-- `MCp.REF`. -/
def mcRef : RegDef :=
  ⟨"MCp.REF", 0x5000008, 0x1000, 128, 0x1, 1, 32, .chip, .f0, fun _ _ => 0,
    [⟨31, 16, .ro⟩, ⟨4, 0, .ro⟩]⟩

/-- `MCp.SRCNT`. -/
def mcSrcnt : RegDef :=
  ⟨"MCp.SRCNT", 0x500000c, 0x1000, 128, 0x1, 1, 32, .chip, .f0, fun _ _ => 0,
    [⟨31, 16, .ro⟩, ⟨15, 0, .ro⟩]⟩

/-- `MCp.RETCMD`. -/
def mcRetcmd : RegDef :=
  ⟨"MCp.RETCMD", 0x5000010, 0x1000, 128, 0x1, 1, 32, .chip, .f0, fun _ _ => 0,
    [⟨31, 31, .wo⟩, ⟨30, 30, .wo⟩, ⟨19, 0, .wo⟩]⟩

/-- `MCp.RETSTAT`. -/
def mcRetstat : RegDef :=
  ⟨"MCp.RETSTAT", 0x5000014, 0x1000, 128, 0x1, 1, 32, .chip, .f0, fun _ _ => 0,
    [⟨31, 31, .ro⟩, ⟨30, 29, .ro⟩, ⟨6, 0, .ro⟩]⟩

/-- `MCp.RETe`. -/
def mcRet : RegDef :=
  ⟨"MCp.RETe", 0x5000100, 0x1000, 128, 0x4, 64, 32, .chip, .f0, fun _ _ => 0,
    [⟨31, 31, .ro⟩, ⟨20, 20, .ro⟩, ⟨19, 0, .ro⟩]⟩

/-- `MEM.SCHED`. -/
def memSched : RegDef :=
  ⟨"MEM.SCHED", 0x5080000, 0x1, 1, 0x1, 1, 32, .chip, .f0, fun _ _ => 0x14,
    [⟨7, 0, .rw⟩]⟩

/-- `MEM.CMD`. -/
def memCmd : RegDef :=
  ⟨"MEM.CMD", 0x5080004, 0x1, 1, 0x1, 1, 32, .chip, .f0, fun _ _ => 0,
    [⟨2, 2, .wo⟩, ⟨1, 1, .wo⟩, ⟨0, 0, .wo⟩]⟩

/-- `MEM.STAT`. -/
def memStat : RegDef :=
  ⟨"MEM.STAT", 0x5080008, 0x1, 1, 0x1, 1, 32, .chip, .f0, fun _ _ => 0,
    [⟨3, 0, .ro⟩]⟩

/-- `MEM.TEMPh`. -/
def memTemp : RegDef :=
  ⟨"MEM.TEMPh", 0x5080010, 0x4, 4, 0x1, 1, 32, .chip, .f0, fun _ _ => 0,
    [⟨23, 16, .ro⟩, ⟨7, 0, .ro⟩]⟩

/-- `MEMTR.SEL`. -/
def memtrSel : RegDef :=
  ⟨"MEMTR.SEL", 0x5090000, 0x1, 1, 0x1, 1, 32, .chip, .f0, fun _ _ => 0,
    [⟨6, 0, .rw⟩]⟩

/-- `MEMTR.CMD`. -/
def memtrCmd : RegDef :=
  ⟨"MEMTR.CMD", 0x5090004, 0x1, 1, 0x1, 1, 32, .chip, .f0, fun _ _ => 0,
    [⟨8, 8, .wo⟩, ⟨2, 0, .wo⟩]⟩

/-- `MEMTR.PAT`. -/
def memtrPat : RegDef :=
  ⟨"MEMTR.PAT", 0x5090008, 0x1, 1, 0x1, 1, 32, .chip, .f0, fun _ _ => 0x10000,
    [⟨31, 16, .rw⟩, ⟨1, 0, .rw⟩]⟩

/-- `MEMTR.STAT`. -/
def memtrStat : RegDef :=
  ⟨"MEMTR.STAT", 0x509000c, 0x1, 1, 0x1, 1, 32, .chip, .f0, fun _ _ => 0,
    [⟨1, 1, .w1c⟩, ⟨0, 0, .ro⟩]⟩

/-- `MEMTR.CMP`. -/
def memtrCmp : RegDef :=
  ⟨"MEMTR.CMP", 0x5090010, 0x1, 1, 0x1, 1, 64, .chip, .f0, fun _ _ => 0,
    [⟨35, 0, .ro⟩]⟩

/-- `MEMTR.WINRk, WINWk`. -/
def memtrWin : RegDef :=
  ⟨"MEMTR.WINRk, WINWk", 0x5090100, 0x100, 2, 0x4, 36, 32, .chip, .f0, fun _ _ => 0x40,
    [⟨31, 31, .ro⟩, ⟨22, 16, .ro⟩, ⟨14, 8, .ro⟩, ⟨6, 0, .rw⟩]⟩

/-- `BEAMβ.CFG`. -/
def beamCfg : RegDef :=
  ⟨"BEAMβ.CFG", 0x6000000, 0x10, 256, 0x1, 1, 32, .chip, .beam, fun _ _ => 0,
    [⟨31, 30, .rw⟩, ⟨29, 29, .rw⟩, ⟨28, 28, .rw⟩, ⟨27, 27, .rw⟩, ⟨26, 26, .rw⟩, ⟨25, 24, .rw⟩, ⟨23, 23, .rw⟩, ⟨22, 18, .rw⟩, ⟨17, 14, .rw⟩, ⟨13, 11, .rw⟩, ⟨9, 4, .rw⟩]⟩

/-- `BEAMβ.OUT`. -/
def beamOut : RegDef :=
  ⟨"BEAMβ.OUT", 0x6000004, 0x10, 256, 0x1, 1, 32, .chip, .beam, fun _ _ => 0,
    [⟨22, 18, .rw⟩, ⟨17, 0, .rw⟩]⟩

/-- `BEAMβ.CLAMP`. -/
def beamClamp : RegDef :=
  ⟨"BEAMβ.CLAMP", 0x6000008, 0x10, 256, 0x1, 1, 32, .chip, .f0, fun _ _ => 0,
    [⟨31, 0, .ro⟩]⟩

/-- `BEAM.CMD`. -/
def beamCmd : RegDef :=
  ⟨"BEAM.CMD", 0x6001000, 0x1, 1, 0x1, 1, 32, .chip, .f0, fun _ _ => 0,
    [⟨0, 0, .wo⟩]⟩

/-- `WATCHt.CFG`. -/
def watchCfg : RegDef :=
  ⟨"WATCHt.CFG", 0x6002000, 0x20, 4, 0x1, 1, 32, .chip, .ten, fun _ _ => 0xcb000,
    [⟨31, 24, .rw⟩, ⟨19, 18, .rw⟩, ⟨15, 12, .rw⟩, ⟨0, 0, .rw⟩]⟩

/-- `WATCHt.ALERTS`. -/
def watchAlerts : RegDef :=
  ⟨"WATCHt.ALERTS", 0x6002004, 0x20, 4, 0x1, 1, 32, .chip, .f0, fun _ _ => 0,
    [⟨31, 0, .ro⟩]⟩

/-- `WATCHt.LAST`. -/
def watchLast : RegDef :=
  ⟨"WATCHt.LAST", 0x6002008, 0x20, 4, 0x1, 1, 64, .chip, .f0, fun _ _ => 0,
    [⟨63, 58, .ro⟩, ⟨33, 0, .ro⟩]⟩

/-- `RGNn.SLACK_MIN`. -/
def rgnSlackMin : RegDef :=
  ⟨"RGNn.SLACK_MIN", 0x10000000, 0x1000000, 4, 0x1, 1, 32, .region, .f0, fun _ _ => 0xffffffff,
    [⟨31, 0, .ro⟩]⟩

/-- `RGNn.SLACK_WARN`. -/
def rgnSlackWarn : RegDef :=
  ⟨"RGNn.SLACK_WARN", 0x10000004, 0x1000000, 4, 0x1, 1, 32, .region, .f0, fun _ _ => 0x40000,
    [⟨31, 0, .rw⟩]⟩

/-- `RGNn.OVERRUN`. -/
def rgnOverrun : RegDef :=
  ⟨"RGNn.OVERRUN", 0x10000008, 0x1000000, 4, 0x1, 1, 32, .region, .f0, fun _ _ => 0,
    [⟨31, 16, .ro⟩, ⟨11, 0, .w1c⟩]⟩

/-- `RGNn.ERRSTAT`. -/
def rgnErrstat : RegDef :=
  ⟨"RGNn.ERRSTAT", 0x10000010, 0x1000000, 4, 0x1, 1, 32, .region, .f0, fun _ _ => 0,
    [⟨7, 7, .w1c⟩, ⟨6, 6, .w1c⟩, ⟨5, 5, .w1c⟩, ⟨4, 4, .w1c⟩, ⟨3, 3, .w1c⟩, ⟨2, 2, .w1c⟩, ⟨1, 1, .w1c⟩, ⟨0, 0, .w1c⟩]⟩

/-- `RGNn.BLKRET`. -/
def rgnBlkret : RegDef :=
  ⟨"RGNn.BLKRET", 0x10000014, 0x1000000, 4, 0x1, 1, 32, .por, .f0, fun _ _ => 0,
    [⟨11, 0, .rw⟩]⟩

/-- `RGNn.NS`. -/
def rgnNs : RegDef :=
  ⟨"RGNn.NS", 0x10000040, 0x1000000, 4, 0x1, 1, 64, .region, .f0, fun _ _ => 0,
    [⟨63, 16, .ro⟩, ⟨15, 0, .ro⟩]⟩

/-- `RGNn.NS_INC`. -/
def rgnNsInc : RegDef :=
  ⟨"RGNn.NS_INC", 0x10000048, 0x1000000, 4, 0x1, 1, 32, .region, .f0, fun _ _ => 0x1999a,
    [⟨23, 0, .rw⟩]⟩

/-- `RGNn.NS_ERR`. -/
def rgnNsErr : RegDef :=
  ⟨"RGNn.NS_ERR", 0x1000004c, 0x1000000, 4, 0x1, 1, 32, .region, .f0, fun _ _ => 0,
    [⟨31, 0, .ro⟩]⟩

/-- `RGNn.BLKSLACKb`. -/
def rgnBlkslack : RegDef :=
  ⟨"RGNn.BLKSLACKb", 0x10000100, 0x1000000, 4, 0x4, 12, 32, .region, .f0, fun _ _ => 0,
    [⟨31, 0, .ro⟩]⟩

/-- `RGNn.BLKb.RETIRE`. -/
def blkRetire : RegDef :=
  ⟨"RGNn.BLKb.RETIRE", 0x10010000, 0x1000000, 4, 0x100, 12, 32, .por, .f0, fun _ _ => 0,
    [⟨31, 0, .rw⟩]⟩

/-- `RGNn.BLKb.FUSED`. -/
def blkFused : RegDef :=
  ⟨"RGNn.BLKb.FUSED", 0x10010004, 0x1000000, 4, 0x100, 12, 32, .por, .f0, fun i j => (Config.fusedCells (12 * i + j)).toNat,
    [⟨31, 0, .ro⟩]⟩

/-- `RGNn.BLKb.SPARE`. -/
def blkSpare : RegDef :=
  ⟨"RGNn.BLKb.SPARE", 0x10010008, 0x1000000, 4, 0x100, 12, 32, .region, .f0, fun _ _ => 0,
    [⟨31, 0, .ro⟩]⟩

/-- `RGNn.BLKb.CELLFAULT`. -/
def blkCellfault : RegDef :=
  ⟨"RGNn.BLKb.CELLFAULT", 0x1001000c, 0x1000000, 4, 0x100, 12, 32, .region, .f0, fun _ _ => 0,
    [⟨31, 0, .w1c⟩]⟩

/-- `RGNn.BLKb.CELLSAT`. -/
def blkCellsat : RegDef :=
  ⟨"RGNn.BLKb.CELLSAT", 0x10010010, 0x1000000, 4, 0x100, 12, 32, .region, .f0, fun _ _ => 0,
    [⟨31, 0, .w1c⟩]⟩

/-- `RGNn.BLKb.REDO`. -/
def blkRedo : RegDef :=
  ⟨"RGNn.BLKb.REDO", 0x10010014, 0x1000000, 4, 0x100, 12, 32, .region, .f0, fun _ _ => 0,
    [⟨31, 16, .ro⟩, ⟨15, 0, .ro⟩]⟩

/-- `RGNn.BLKb.REDO_BUDGET`. -/
def blkRedoBudget : RegDef :=
  ⟨"RGNn.BLKb.REDO_BUDGET", 0x10010018, 0x1000000, 4, 0x100, 12, 32, .region, .f0, fun _ _ => 0,
    [⟨31, 0, .po⟩]⟩

/-- `RGNn.BLKb.BEAM`. -/
def blkBeam : RegDef :=
  ⟨"RGNn.BLKb.BEAM", 0x10010020, 0x1000000, 4, 0x100, 12, 32, .region, .f0, fun _ _ => 0,
    [⟨31, 31, .rw⟩, ⟨27, 24, .rw⟩, ⟨23, 21, .rw⟩, ⟨20, 18, .rw⟩, ⟨15, 8, .rw⟩, ⟨7, 0, .rw⟩]⟩

/-- `RGNn.BLKb.VSAT`. -/
def blkVsat : RegDef :=
  ⟨"RGNn.BLKb.VSAT", 0x10010024, 0x1000000, 4, 0x100, 12, 32, .region, .blk, fun _ _ => 0,
    [⟨31, 0, .w1c⟩]⟩

/-- `RGNn.BLKb.X2BASE`. -/
def blkX2base : RegDef :=
  ⟨"RGNn.BLKb.X2BASE", 0x10010028, 0x1000000, 4, 0x100, 12, 32, .region, .blk, fun _ _ => 0x1c0,
    [⟨8, 0, .po⟩]⟩

/-- `RGNn.BLKb.PROG`. -/
def blkProg : RegDef :=
  ⟨"RGNn.BLKb.PROG", 0x10010030, 0x1000000, 4, 0x100, 12, 32, .region, .blk, fun _ _ => 0,
    [⟨28, 28, .rw⟩, ⟨27, 16, .rw⟩, ⟨11, 0, .rw⟩]⟩

/-- `RGNn.BLKb.SEQCMD`. -/
def blkSeqcmd : RegDef :=
  ⟨"RGNn.BLKb.SEQCMD", 0x10010034, 0x1000000, 4, 0x100, 12, 32, .region, .blk, fun _ _ => 0,
    [⟨1, 1, .wo⟩, ⟨0, 0, .wo⟩]⟩

/-- `RGNn.BLKb.SEQSTAT`. -/
def blkSeqstat : RegDef :=
  ⟨"RGNn.BLKb.SEQSTAT", 0x10010038, 0x1000000, 4, 0x100, 12, 32, .region, .blk, fun _ _ => 0,
    [⟨26, 24, .ro⟩, ⟨14, 12, .ro⟩, ⟨11, 0, .ro⟩]⟩

/-- `RGNn.BLKb.EXC`. -/
def blkExc : RegDef :=
  ⟨"RGNn.BLKb.EXC", 0x1001003c, 0x1000000, 4, 0x100, 12, 32, .region, .blk, fun _ _ => 0,
    [⟨31, 24, .ro⟩, ⟨23, 22, .ro⟩, ⟨11, 0, .ro⟩]⟩

/-- `RGNn.BLKb.BUFREL`. -/
def blkBufrel : RegDef :=
  ⟨"RGNn.BLKb.BUFREL", 0x10010040, 0x1000000, 4, 0x100, 12, 32, .region, .f0, fun _ _ => 0,
    [⟨3, 3, .wo⟩, ⟨2, 2, .wo⟩, ⟨1, 1, .wo⟩, ⟨0, 0, .wo⟩]⟩

/-! ### Every register, in pieces -/

/-- Registers of the maps, part 0. -/
def allRegs0 : List RegDef :=
  [chipId, chipOpt, chipSerial, tenReserve, tenFlows, tenDram,
   tenState, tenBlocks, tenRec, tenCmd, tenStat, cndProg,
   cndMem, cndCtrl, cndStat, cndExc, cndSlack, cndWbuf,
   hostPage, hostApbase, hostAttr, hostLink, clkSrc, clkMonstat,
   clkStatus, clkCmd, clkGate, clkGatestat, clkGated, tbCfg,
   tbState, tbStatus, tbQual, tbPair, tbLock, tbPstep,
   tbPstepRem, tbFreq, tbHold, tbFreeOfs]

/-- Registers of the maps, part 1. -/
def allRegs1 : List RegDef :=
  [tbRefCfg, tbRefDelay, tbRefStat, tbRefFofs, tbRefPofs, ptpsCfg,
   ptpsT2, ptpsOfs, ptpsState, ptpsFilt, ptpsFofs, tickCtrl,
   tickEpoch, tickFrame, tickFtTod, tickSkew, tickStatus, tickCommit,
   tickCommitSt, todSec, todNs, todSetsec, rvLease, rvStatus,
   rvCmd, pwrState, pwrCmd, pwrWake, rstCause, rstCmd,
   thermCfg, thermStatus, thermMax, thermTemp, peatKey, peatLen,
   peatCmd, peatStat, peatUse, peatData]

/-- Registers of the maps, part 2. -/
def allRegs2 : List RegDef :=
  [calFactory, calUser, calEff, calMembase, evtStat, evtEn,
   evtRaise, evtPins, evtCnd, evtReject, evtCfg, msixEntry,
   pciMsix, ingCtrl, ingPstate, ingCmd, ingStatus, ingLanestat,
   ingLed, ingLaneEq, ingLaneDly, ingCnt, ingLast, ingPartner,
   ingPrbs, ingPrbsErr, feCtrl, feSpike, feCmd, feStatusN,
   feCnt, feCfg, feDfe, feFlaglim, feStatus, feDlyC0,
   feDlyF0, feDlyC0Live, feDlyF0Live, mvRingBase]

/-- Registers of the maps, part 3. -/
def allRegs3 : List RegDef :=
  [mvRingCfg, mvHead, mvTail, mvStatus, mvWm, mvPeak,
   mireBase, mireWork, mireCfg, mireCmd, mireMark, mireStatus,
   mireFrozenAt, mireDir, mireKeepBase, mireKeepCfg, gateMembers, gateIssuer,
   gatePend, gateStatus, egrCfg, egrDatalen, egrStatus, egrFault,
   egrSealfault, egrCnt, egrpCtrl, egrpStat, egrpStatus, egrpMac,
   egrpCnt, egrpTsqHi, egrpTsqTod, egrpTsqCnt, egrpTsqLost, egrpTsqWm,
   egrpTsqPeak, egrpPtprxStat, egrpPtprxCmd, noteNext]

/-- Registers of the maps, part 4. -/
def allRegs4 : List RegDef :=
  [noteWord, noteCmd, noteCount, noteStatus, noteLost, noteWm,
   notePeak, fabStatus, fabErraddr, fabErrsrc, fabStarve, fabHostqos,
   fabPark, intChiperr, intLogStat, intLogCmd, intFirst, intCecnt,
   twin, scrubCtrl, scrubLap, sretCmd, sretStat, sretUsed,
   sealKeydata, sealKeycmd, sealSlot, mcStat, mcOcc, mcRef,
   mcSrcnt, mcRetcmd, mcRetstat, mcRet, memSched, memCmd,
   memStat, memTemp, memtrSel, memtrCmd]

/-- Registers of the maps, part 5. -/
def allRegs5 : List RegDef :=
  [memtrPat, memtrStat, memtrCmp, memtrWin, beamCfg, beamOut,
   beamClamp, beamCmd, watchCfg, watchAlerts, watchLast, rgnSlackMin,
   rgnSlackWarn, rgnOverrun, rgnErrstat, rgnBlkret, rgnNs, rgnNsInc,
   rgnNsErr, rgnBlkslack, blkRetire, blkFused, blkSpare, blkCellfault,
   blkCellsat, blkRedo, blkRedoBudget, blkBeam, blkVsat, blkX2base,
   blkProg, blkSeqcmd, blkSeqstat, blkExc, blkBufrel]

/-- Every register of the maps. -/
def allRegs : List RegDef :=
  allRegs0 ++ allRegs1 ++ allRegs2 ++ allRegs3 ++ allRegs4 ++ allRegs5

/-! ### Their fields, by name -/

def chipIdPart : RField := ⟨chipId, 31, 16⟩
def chipIdStep : RField := ⟨chipId, 15, 8⟩
def chipOptSeal : RField := ⟨chipOpt, 0, 0⟩
def chipSerialSerial : RField := ⟨chipSerial, 63, 0⟩
def tenReserveWatch : RField := ⟨tenReserve, 31, 26⟩
def tenReserveEgr : RField := ⟨tenReserve, 25, 15⟩
def tenReserveDram : RField := ⟨tenReserve, 7, 0⟩
def tenFlowsCount : RField := ⟨tenFlows, 28, 16⟩
def tenFlowsBase : RField := ⟨tenFlows, 11, 0⟩
def tenDramSize : RField := ⟨tenDram, 23, 16⟩
def tenDramBase : RField := ⟨tenDram, 7, 0⟩
def tenStateAssigned : RField := ⟨tenState, 0, 0⟩
def tenBlocksMask : RField := ⟨tenBlocks, 47, 0⟩
def tenRecWord : RField := ⟨tenRec, 31, 0⟩
def tenCmdT : RField := ⟨tenCmd, 1, 0⟩
def tenStatResult : RField := ⟨tenStat, 2, 0⟩
def cndProgFramePc : RField := ⟨cndProg, 31, 16⟩
def cndProgInitPc : RField := ⟨cndProg, 15, 0⟩
def cndMemDsize : RField := ⟨cndMem, 31, 24⟩
def cndMemDbase : RField := ⟨cndMem, 23, 16⟩
def cndMemIsize : RField := ⟨cndMem, 15, 8⟩
def cndMemIbase : RField := ⟨cndMem, 7, 0⟩
def cndCtrlRestart : RField := ⟨cndCtrl, 2, 2⟩
def cndCtrlStop : RField := ⟨cndCtrl, 1, 1⟩
def cndCtrlStart : RField := ⟨cndCtrl, 0, 0⟩
def cndStatState : RField := ⟨cndStat, 18, 16⟩
def cndStatPc : RField := ⟨cndStat, 15, 0⟩
def cndExcCause : RField := ⟨cndExc, 31, 24⟩
def cndExcPc : RField := ⟨cndExc, 15, 0⟩
def cndSlackLast : RField := ⟨cndSlack, 31, 0⟩
def cndWbufOcc : RField := ⟨cndWbuf, 4, 0⟩
def hostPagePage : RField := ⟨hostPage, 7, 0⟩
def hostApbaseBase : RField := ⟨hostApbase, 47, 30⟩
def hostAttrNsData : RField := ⟨hostAttr, 0, 0⟩
def hostLinkUp : RField := ⟨hostLink, 8, 8⟩
def hostLinkWidth : RField := ⟨hostLink, 7, 4⟩
def hostLinkSpeed : RField := ⟨hostLink, 3, 0⟩
def clkSrcMem : RField := ⟨clkSrc, 7, 4⟩
def clkSrcDom : RField := ⟨clkSrc, 3, 0⟩
def clkMonstatFail : RField := ⟨clkMonstat, 11, 0⟩
def clkStatusGateForced : RField := ⟨clkStatus, 10, 10⟩
def clkStatusGateRefused : RField := ⟨clkStatus, 9, 9⟩
def clkStatusClkswForced : RField := ⟨clkStatus, 8, 8⟩
def clkStatusPciepllFail : RField := ⟨clkStatus, 7, 7⟩
def clkStatusMempllFail : RField := ⟨clkStatus, 6, 6⟩
def clkStatusEgrpllFail : RField := ⟨clkStatus, 5, 5⟩
def clkStatusSioFail : RField := ⟨clkStatus, 4, 4⟩
def clkStatusFioFail : RField := ⟨clkStatus, 3, 3⟩
def clkStatusRootFail : RField := ⟨clkStatus, 2, 2⟩
def clkStatusXtal2Fail : RField := ⟨clkStatus, 1, 1⟩
def clkStatusXtal1Fail : RField := ⟨clkStatus, 0, 0⟩
def clkCmdRestore : RField := ⟨clkCmd, 0, 0⟩
def clkGateOp : RField := ⟨clkGate, 31, 30⟩
def clkGateUnit : RField := ⟨clkGate, 5, 0⟩
def clkGatestatBusy : RField := ⟨clkGatestat, 31, 31⟩
def clkGatestatResult : RField := ⟨clkGatestat, 30, 28⟩
def clkGatestatEnded : RField := ⟨clkGatestat, 27, 16⟩
def clkGatestatUnit : RField := ⟨clkGatestat, 5, 0⟩
def clkGatedMask : RField := ⟨clkGated, 61, 0⟩
def tbCfgBw : RField := ⟨tbCfg, 22, 20⟩
def tbCfgMan : RField := ⟨tbCfg, 17, 16⟩
def tbCfgWtr : RField := ⟨tbCfg, 15, 4⟩
def tbCfgRevert : RField := ⟨tbCfg, 0, 0⟩
def tbStateWtrLeft : RField := ⟨tbState, 31, 16⟩
def tbStateWtrRef : RField := ⟨tbState, 11, 10⟩
def tbStateWtr : RField := ⟨tbState, 9, 9⟩
def tbStateSwitching : RField := ⟨tbState, 8, 8⟩
def tbStateCur : RField := ⟨tbState, 5, 4⟩
def tbStateHoldValid : RField := ⟨tbState, 3, 3⟩
def tbStateState : RField := ⟨tbState, 2, 0⟩
def tbStatusPtpsMeas : RField := ⟨tbStatus, 7, 7⟩
def tbStatusPtpsState : RField := ⟨tbStatus, 6, 6⟩
def tbStatusSwAbandon : RField := ⟨tbStatus, 5, 5⟩
def tbStatusPstepDone : RField := ⟨tbStatus, 4, 4⟩
def tbStatusQualChg : RField := ⟨tbStatus, 3, 3⟩
def tbStatusDisagree : RField := ⟨tbStatus, 2, 2⟩
def tbStatusSwitch : RField := ⟨tbStatus, 1, 1⟩
def tbStatusStateChg : RField := ⟨tbStatus, 0, 0⟩
def tbQualReject : RField := ⟨tbQual, 31, 16⟩
def tbQualAccept : RField := ⟨tbQual, 15, 0⟩
def tbPairQtime : RField := ⟨tbPair, 23, 16⟩
def tbPairPair : RField := ⟨tbPair, 15, 0⟩
def tbLockHoldmax : RField := ⟨tbLock, 31, 16⟩
def tbLockLimit : RField := ⟨tbLock, 15, 0⟩
def tbPstepStep : RField := ⟨tbPstep, 31, 0⟩
def tbPstepRemRem : RField := ⟨tbPstepRem, 31, 0⟩
def tbFreqValue : RField := ⟨tbFreq, 31, 0⟩
def tbHoldValue : RField := ⟨tbHold, 31, 0⟩
def tbFreeOfsValue : RField := ⟨tbFreeOfs, 31, 0⟩
def tbRefCfgRank : RField := ⟨tbRefCfg, 3, 0⟩
def tbRefDelayPs : RField := ⟨tbRefDelay, 31, 0⟩
def tbRefStatCause : RField := ⟨tbRefStat, 6, 4⟩
def tbRefStatActPps : RField := ⟨tbRefStat, 3, 3⟩
def tbRefStatAct10m : RField := ⟨tbRefStat, 2, 2⟩
def tbRefStatQstate : RField := ⟨tbRefStat, 1, 0⟩
def tbRefFofsValue : RField := ⟨tbRefFofs, 31, 0⟩
def tbRefPofsPs : RField := ⟨tbRefPofs, 31, 0⟩
def ptpsCfgEn : RField := ⟨ptpsCfg, 31, 31⟩
def ptpsCfgBw : RField := ⟨ptpsCfg, 18, 16⟩
def ptpsCfgMeasTo : RField := ⟨ptpsCfg, 15, 8⟩
def ptpsCfgLimit : RField := ⟨ptpsCfg, 7, 0⟩
def ptpsT2Stamp : RField := ⟨ptpsT2, 63, 0⟩
def ptpsOfsOfs : RField := ⟨ptpsOfs, 63, 0⟩
def ptpsStateState : RField := ⟨ptpsState, 2, 0⟩
def ptpsFiltOfs : RField := ⟨ptpsFilt, 63, 0⟩
def ptpsFofsValue : RField := ⟨ptpsFofs, 31, 0⟩
def tickCtrlCoastEn : RField := ⟨tickCtrl, 8, 8⟩
def tickCtrlLSel : RField := ⟨tickCtrl, 5, 4⟩
def tickCtrlEpochAuto : RField := ⟨tickCtrl, 1, 1⟩
def tickCtrlRun : RField := ⟨tickCtrl, 0, 0⟩
def tickEpochEpoch : RField := ⟨tickEpoch, 47, 0⟩
def tickFrameFrame : RField := ⟨tickFrame, 33, 0⟩
def tickFtTodSec : RField := ⟨tickFtTod, 63, 30⟩
def tickFtTodNs : RField := ⟨tickFtTod, 29, 0⟩
def tickSkewLast : RField := ⟨tickSkew, 15, 8⟩
def tickSkewMax : RField := ⟨tickSkew, 7, 0⟩
def tickStatusFmt : RField := ⟨tickStatus, 4, 4⟩
def tickStatusCoasting : RField := ⟨tickStatus, 3, 3⟩
def tickStatusSkewForced : RField := ⟨tickStatus, 2, 2⟩
def tickStatusWatchLate : RField := ⟨tickStatus, 1, 1⟩
def tickStatusSealed : RField := ⟨tickStatus, 0, 0⟩
def tickCommitWt : RField := ⟨tickCommit, 3, 3⟩
def tickCommitBw : RField := ⟨tickCommit, 2, 2⟩
def tickCommitDly : RField := ⟨tickCommit, 1, 1⟩
def tickCommitEq : RField := ⟨tickCommit, 0, 0⟩
def tickCommitStWt : RField := ⟨tickCommitSt, 7, 6⟩
def tickCommitStBw : RField := ⟨tickCommitSt, 5, 4⟩
def tickCommitStDly : RField := ⟨tickCommitSt, 3, 2⟩
def tickCommitStEq : RField := ⟨tickCommitSt, 1, 0⟩
def todSecSec : RField := ⟨todSec, 47, 0⟩
def todNsNs : RField := ⟨todNs, 29, 0⟩
def todSetsecGo : RField := ⟨todSetsec, 63, 63⟩
def todSetsecSec : RField := ⟨todSetsec, 47, 0⟩
def rvLeaseTakeovers : RField := ⟨rvLease, 31, 16⟩
def rvLeaseStbyOkB : RField := ⟨rvLease, 15, 15⟩
def rvLeaseStbyOkA : RField := ⟨rvLease, 14, 14⟩
def rvLeaseStateB : RField := ⟨rvLease, 13, 11⟩
def rvLeaseStateA : RField := ⟨rvLease, 10, 8⟩
def rvLeaseFeedB : RField := ⟨rvLease, 7, 7⟩
def rvLeaseFeedA : RField := ⟨rvLease, 6, 6⟩
def rvLeaseHolder : RField := ⟨rvLease, 1, 0⟩
def rvStatusSioLease : RField := ⟨rvStatus, 15, 15⟩
def rvStatusCalClamp : RField := ⟨rvStatus, 14, 14⟩
def rvStatusCalReject : RField := ⟨rvStatus, 13, 13⟩
def rvStatusPeatFault : RField := ⟨rvStatus, 12, 12⟩
def rvStatusPeatCompact : RField := ⟨rvStatus, 11, 11⟩
def rvStatusNorail : RField := ⟨rvStatus, 10, 10⟩
def rvStatusPmbusFault : RField := ⟨rvStatus, 9, 9⟩
def rvStatusRailFault : RField := ⟨rvStatus, 8, 8⟩
def rvStatusSaveFail : RField := ⟨rvStatus, 7, 7⟩
def rvStatusResyncFail : RField := ⟨rvStatus, 6, 6⟩
def rvStatusFeedBBack : RField := ⟨rvStatus, 5, 5⟩
def rvStatusFeedABack : RField := ⟨rvStatus, 4, 4⟩
def rvStatusFeedBLost : RField := ⟨rvStatus, 3, 3⟩
def rvStatusFeedALost : RField := ⟨rvStatus, 2, 2⟩
def rvStatusLeaseExpired : RField := ⟨rvStatus, 1, 1⟩
def rvStatusLeaseMoved : RField := ⟨rvStatus, 0, 0⟩
def rvCmdHandover : RField := ⟨rvCmd, 0, 0⟩
def pwrStateFaultRail : RField := ⟨pwrState, 10, 8⟩
def pwrStateState : RField := ⟨pwrState, 2, 0⟩
def pwrCmdOp : RField := ⟨pwrCmd, 1, 0⟩
def pwrWakeSeconds : RField := ⟨pwrWake, 31, 0⟩
def rstCauseWake : RField := ⟨rstCause, 6, 6⟩
def rstCauseDormant : RField := ⟨rstCause, 5, 5⟩
def rstCauseTherm : RField := ⟨rstCause, 4, 4⟩
def rstCauseCmd : RField := ⟨rstCause, 3, 3⟩
def rstCausePerst : RField := ⟨rstCause, 2, 2⟩
def rstCausePin : RField := ⟨rstCause, 1, 1⟩
def rstCausePor : RField := ⟨rstCause, 0, 0⟩
def rstCmdOp : RField := ⟨rstCmd, 31, 30⟩
def rstCmdCtx : RField := ⟨rstCmd, 27, 24⟩
def rstCmdBlocks : RField := ⟨rstCmd, 23, 12⟩
def rstCmdRegion : RField := ⟨rstCmd, 9, 8⟩
def thermCfgShutEn : RField := ⟨thermCfg, 24, 24⟩
def thermCfgShut : RField := ⟨thermCfg, 23, 16⟩
def thermCfgHot : RField := ⟨thermCfg, 15, 8⟩
def thermCfgWarn : RField := ⟨thermCfg, 7, 0⟩
def thermStatusSensorFail : RField := ⟨thermStatus, 4, 4⟩
def thermStatusTrip : RField := ⟨thermStatus, 3, 3⟩
def thermStatusShut : RField := ⟨thermStatus, 2, 2⟩
def thermStatusHot : RField := ⟨thermStatus, 1, 1⟩
def thermStatusWarn : RField := ⟨thermStatus, 0, 0⟩
def thermMaxTemp : RField := ⟨thermMax, 15, 0⟩
def thermTempTemp : RField := ⟨thermTemp, 15, 0⟩
def peatKeyValue : RField := ⟨peatKey, 31, 0⟩
def peatLenValue : RField := ⟨peatLen, 31, 0⟩
def peatCmdOp : RField := ⟨peatCmd, 2, 0⟩
def peatStatBusy : RField := ⟨peatStat, 31, 31⟩
def peatStatResult : RField := ⟨peatStat, 2, 0⟩
def peatUseBytes : RField := ⟨peatUse, 31, 0⟩
def peatDataValue : RField := ⟨peatData, 31, 0⟩
def calFactoryValue : RField := ⟨calFactory, 15, 0⟩
def calUserKind : RField := ⟨calUser, 31, 30⟩
def calUserValue : RField := ⟨calUser, 15, 0⟩
def calEffValue : RField := ⟨calEff, 15, 0⟩
def calMembaseValue : RField := ⟨calMembase, 31, 0⟩
def evtStatStatus : RField := ⟨evtStat, 31, 0⟩
def evtEnEn : RField := ⟨evtEn, 31, 0⟩
def evtRaiseSource : RField := ⟨evtRaise, 8, 0⟩
def evtPinsNmi : RField := ⟨evtPins, 1, 1⟩
def evtPinsIrq : RField := ⟨evtPins, 0, 0⟩
def evtCndValid : RField := ⟨evtCnd, 31, 31⟩
def evtCndSource : RField := ⟨evtCnd, 8, 0⟩
def evtRejectValid : RField := ⟨evtReject, 63, 63⟩
def evtRejectPath : RField := ⟨evtReject, 62, 61⟩
def evtRejectAddr : RField := ⟨evtReject, 47, 0⟩
def evtCfgClass : RField := ⟨evtCfg, 31, 30⟩
def evtCfgTarget : RField := ⟨evtCfg, 29, 28⟩
def evtCfgFn : RField := ⟨evtCfg, 25, 24⟩
def evtCfgOwn : RField := ⟨evtCfg, 17, 16⟩
def evtCfgVec : RField := ⟨evtCfg, 8, 0⟩
def msixEntryValue : RField := ⟨msixEntry, 31, 0⟩
def pciMsixEnable : RField := ⟨pciMsix, 31, 31⟩
def pciMsixMask : RField := ⟨pciMsix, 30, 30⟩
def ingCtrlLbLane : RField := ⟨ingCtrl, 18, 16⟩
def ingCtrlPortid : RField := ⟨ingCtrl, 14, 12⟩
def ingCtrlPortidAny : RField := ⟨ingCtrl, 11, 11⟩
def ingCtrlFmt : RField := ⟨ingCtrl, 9, 8⟩
def ingCtrlLoop : RField := ⟨ingCtrl, 7, 6⟩
def ingCtrlTest : RField := ⟨ingCtrl, 5, 5⟩
def ingCtrlAdaptFreeze : RField := ⟨ingCtrl, 4, 4⟩
def ingCtrlMarkerless : RField := ⟨ingCtrl, 3, 3⟩
def ingCtrlLedOvr : RField := ⟨ingCtrl, 2, 2⟩
def ingCtrlBtnEn : RField := ⟨ingCtrl, 1, 1⟩
def ingCtrlEnable : RField := ⟨ingCtrl, 0, 0⟩
def ingPstateFramed : RField := ⟨ingPstate, 11, 11⟩
def ingPstatePrsnt : RField := ⟨ingPstate, 10, 10⟩
def ingPstateDrainPend : RField := ⟨ingPstate, 9, 9⟩
def ingPstateFault : RField := ⟨ingPstate, 8, 8⟩
def ingPstateState : RField := ⟨ingPstate, 2, 0⟩
def ingCmdSlipLane : RField := ⟨ingCmd, 11, 9⟩
def ingCmdSlip : RField := ⟨ingCmd, 8, 8⟩
def ingCmdClrcnt : RField := ⟨ingCmd, 2, 2⟩
def ingCmdRejoin : RField := ⟨ingCmd, 1, 1⟩
def ingCmdDrain : RField := ⟨ingCmd, 0, 0⟩
def ingStatusFwdclk : RField := ⟨ingStatus, 7, 7⟩
def ingStatusButton : RField := ⟨ingStatus, 6, 6⟩
def ingStatusTrainFail : RField := ⟨ingStatus, 5, 5⟩
def ingStatusMissing : RField := ⟨ingStatus, 4, 4⟩
def ingStatusHdrErr : RField := ⟨ingStatus, 3, 3⟩
def ingStatusCrcErr : RField := ⟨ingStatus, 2, 2⟩
def ingStatusSurprise : RField := ⟨ingStatus, 1, 1⟩
def ingStatusStateChg : RField := ⟨ingStatus, 0, 0⟩
def ingLanestatAmlock : RField := ⟨ingLanestat, 23, 16⟩
def ingLanestatBlocklock : RField := ⟨ingLanestat, 15, 8⟩
def ingLanestatSigdet : RField := ⟨ingLanestat, 7, 0⟩
def ingLedValue : RField := ⟨ingLed, 1, 0⟩
def ingLaneEqCtle : RField := ⟨ingLaneEq, 35, 32⟩
def ingLaneEqTap1 : RField := ⟨ingLaneEq, 31, 24⟩
def ingLaneEqTap2 : RField := ⟨ingLaneEq, 23, 18⟩
def ingLaneEqTap3 : RField := ⟨ingLaneEq, 17, 12⟩
def ingLaneEqTap4 : RField := ⟨ingLaneEq, 11, 6⟩
def ingLaneEqTap5 : RField := ⟨ingLaneEq, 5, 0⟩
def ingLaneDlyLogical : RField := ⟨ingLaneDly, 26, 24⟩
def ingLaneDlyPhase : RField := ⟨ingLaneDly, 22, 16⟩
def ingLaneDlyDly : RField := ⟨ingLaneDly, 7, 0⟩
def ingCntCount : RField := ⟨ingCnt, 31, 0⟩
def ingLastSeq : RField := ⟨ingLast, 63, 48⟩
def ingLastCounter : RField := ⟨ingLast, 47, 0⟩
def ingPartnerId : RField := ⟨ingPartner, 31, 0⟩
def ingPrbsChk : RField := ⟨ingPrbs, 15, 8⟩
def ingPrbsGen : RField := ⟨ingPrbs, 7, 0⟩
def ingPrbsErrLock : RField := ⟨ingPrbsErr, 31, 31⟩
def ingPrbsErrErrors : RField := ⟨ingPrbsErr, 30, 0⟩
def feCtrlDcN : RField := ⟨feCtrl, 20, 16⟩
def feCtrlDcFreeze : RField := ⟨feCtrl, 9, 9⟩
def feCtrlDcBypass : RField := ⟨feCtrl, 8, 8⟩
def feSpikeFloor : RField := ⟨feSpike, 28, 16⟩
def feSpikeK : RField := ⟨feSpike, 5, 0⟩
def feCmdClrcnt : RField := ⟨feCmd, 1, 1⟩
def feCmdDcClr : RField := ⟨feCmd, 0, 0⟩
def feStatusNHoldOvf : RField := ⟨feStatusN, 1, 1⟩
def feStatusNPfbSat : RField := ⟨feStatusN, 0, 0⟩
def feCntCount : RField := ⟨feCnt, 31, 0⟩
def feCfgFftShift : RField := ⟨feCfg, 23, 16⟩
def feCfgN512 : RField := ⟨feCfg, 15, 15⟩
def feCfgCoefSrc : RField := ⟨feCfg, 14, 14⟩
def feCfgWin : RField := ⟨feCfg, 11, 10⟩
def feCfgTaps : RField := ⟨feCfg, 8, 8⟩
def feCfgPSel : RField := ⟨feCfg, 2, 0⟩
def feDfeSamples : RField := ⟨feDfe, 11, 0⟩
def feFlaglimLimit : RField := ⟨feFlaglim, 11, 0⟩
def feStatusInitDone : RField := ⟨feStatus, 0, 0⟩
def feDlyC0Value : RField := ⟨feDlyC0, 47, 0⟩
def feDlyF0Top : RField := ⟨feDlyF0, 63, 63⟩
def feDlyF0Value : RField := ⟨feDlyF0, 47, 0⟩
def feDlyC0LiveValue : RField := ⟨feDlyC0Live, 47, 0⟩
def feDlyF0LiveTop : RField := ⟨feDlyF0Live, 63, 63⟩
def feDlyF0LiveValue : RField := ⟨feDlyF0Live, 47, 0⟩
def mvRingBaseBase : RField := ⟨mvRingBase, 47, 6⟩
def mvRingCfgEnable : RField := ⟨mvRingCfg, 31, 31⟩
def mvRingCfgTen : RField := ⟨mvRingCfg, 17, 16⟩
def mvRingCfgNote : RField := ⟨mvRingCfg, 8, 8⟩
def mvRingCfgSize : RField := ⟨mvRingCfg, 4, 0⟩
def mvHeadValue : RField := ⟨mvHead, 15, 0⟩
def mvTailValue : RField := ⟨mvTail, 15, 0⟩
def mvStatusWm : RField := ⟨mvStatus, 3, 3⟩
def mvStatusNotown : RField := ⟨mvStatus, 2, 2⟩
def mvStatusFault : RField := ⟨mvStatus, 1, 1⟩
def mvStatusBusy : RField := ⟨mvStatus, 0, 0⟩
def mvWmValue : RField := ⟨mvWm, 15, 0⟩
def mvPeakValue : RField := ⟨mvPeak, 15, 0⟩
def mireBaseValue : RField := ⟨mireBase, 47, 12⟩
def mireWorkEn : RField := ⟨mireWork, 63, 63⟩
def mireWorkValue : RField := ⟨mireWork, 47, 12⟩
def mireCfgSigEn : RField := ⟨mireCfg, 24, 24⟩
def mireCfgSig : RField := ⟨mireCfg, 23, 18⟩
def mireCfgFoo : RField := ⟨mireCfg, 16, 16⟩
def mireCfgAllow : RField := ⟨mireCfg, 11, 8⟩
def mireCfgSlots : RField := ⟨mireCfg, 6, 0⟩
def mireCmdThaw : RField := ⟨mireCmd, 1, 1⟩
def mireCmdFreeze : RField := ⟨mireCmd, 0, 0⟩
def mireMarkArmed : RField := ⟨mireMark, 63, 63⟩
def mireMarkFrame : RField := ⟨mireMark, 33, 0⟩
def mireStatusDenied : RField := ⟨mireStatus, 6, 6⟩
def mireStatusPend : RField := ⟨mireStatus, 5, 4⟩
def mireStatusStarve : RField := ⟨mireStatus, 3, 3⟩
def mireStatusMarkLost : RField := ⟨mireStatus, 2, 2⟩
def mireStatusFrozen : RField := ⟨mireStatus, 1, 1⟩
def mireFrozenAtFrame : RField := ⟨mireFrozenAt, 33, 0⟩
def mireDirValid : RField := ⟨mireDir, 63, 63⟩
def mireDirLive : RField := ⟨mireDir, 62, 62⟩
def mireDirFrame : RField := ⟨mireDir, 33, 0⟩
def mireKeepBaseValue : RField := ⟨mireKeepBase, 47, 12⟩
def mireKeepCfgSlots : RField := ⟨mireKeepCfg, 47, 32⟩
def mireKeepCfgCount : RField := ⟨mireKeepCfg, 24, 16⟩
def mireKeepCfgFirst : RField := ⟨mireKeepCfg, 11, 0⟩
def gateMembersMask : RField := ⟨gateMembers, 47, 0⟩
def gateIssuerEn : RField := ⟨gateIssuer, 31, 31⟩
def gateIssuerRegion : RField := ⟨gateIssuer, 9, 8⟩
def gateIssuerBlock : RField := ⟨gateIssuer, 3, 0⟩
def gatePendMask : RField := ⟨gatePend, 47, 0⟩
def gateStatusEarly : RField := ⟨gateStatus, 0, 0⟩
def egrCfgLatetol : RField := ⟨egrCfg, 31, 16⟩
def egrCfgMaxframe : RField := ⟨egrCfg, 13, 0⟩
def egrDatalenBytes : RField := ⟨egrDatalen, 13, 0⟩
def egrStatusSealFault : RField := ⟨egrStatus, 1, 1⟩
def egrStatusFlowFault : RField := ⟨egrStatus, 0, 0⟩
def egrFaultValid : RField := ⟨egrFault, 31, 31⟩
def egrFaultCode : RField := ⟨egrFault, 26, 24⟩
def egrFaultFlow : RField := ⟨egrFault, 17, 0⟩
def egrSealfaultValid : RField := ⟨egrSealfault, 31, 31⟩
def egrSealfaultCause : RField := ⟨egrSealfault, 25, 24⟩
def egrSealfaultFlow : RField := ⟨egrSealfault, 17, 0⟩
def egrCntCount : RField := ⟨egrCnt, 31, 0⟩
def egrpCtrlEnable : RField := ⟨egrpCtrl, 31, 31⟩
def egrpCtrlCap : RField := ⟨egrpCtrl, 9, 0⟩
def egrpStatAligned : RField := ⟨egrpStat, 11, 11⟩
def egrpStatFecLock : RField := ⟨egrpStat, 10, 10⟩
def egrpStatLf : RField := ⟨egrpStat, 9, 9⟩
def egrpStatRf : RField := ⟨egrpStat, 8, 8⟩
def egrpStatState : RField := ⟨egrpStat, 1, 0⟩
def egrpStatusLate : RField := ⟨egrpStatus, 4, 4⟩
def egrpStatusPtpRx : RField := ⟨egrpStatus, 3, 3⟩
def egrpStatusTsqWm : RField := ⟨egrpStatus, 2, 2⟩
def egrpStatusTsqLost : RField := ⟨egrpStatus, 1, 1⟩
def egrpStatusLink : RField := ⟨egrpStatus, 0, 0⟩
def egrpMacAddr : RField := ⟨egrpMac, 47, 0⟩
def egrpCntCount : RField := ⟨egrpCnt, 31, 0⟩
def egrpTsqHiValid : RField := ⟨egrpTsqHi, 63, 63⟩
def egrpTsqHiId : RField := ⟨egrpTsqHi, 47, 32⟩
def egrpTsqHiFlow : RField := ⟨egrpTsqHi, 17, 0⟩
def egrpTsqTodStamp : RField := ⟨egrpTsqTod, 63, 0⟩
def egrpTsqCntCount : RField := ⟨egrpTsqCnt, 6, 0⟩
def egrpTsqLostCount : RField := ⟨egrpTsqLost, 31, 0⟩
def egrpTsqWmValue : RField := ⟨egrpTsqWm, 6, 0⟩
def egrpTsqPeakValue : RField := ⟨egrpTsqPeak, 6, 0⟩
def egrpPtprxStatCount : RField := ⟨egrpPtprxStat, 22, 16⟩
def egrpPtprxStatHead : RField := ⟨egrpPtprxStat, 5, 0⟩
def egrpPtprxCmdClr : RField := ⟨egrpPtprxCmd, 1, 1⟩
def egrpPtprxCmdPop : RField := ⟨egrpPtprxCmd, 0, 0⟩
def noteNextValid : RField := ⟨noteNext, 31, 31⟩
def noteNextOpen : RField := ⟨noteNext, 30, 30⟩
def noteNextPri : RField := ⟨noteNext, 29, 28⟩
def noteNextLenm1 : RField := ⟨noteNext, 27, 24⟩
def noteNextType : RField := ⟨noteNext, 23, 16⟩
def noteWordData : RField := ⟨noteWord, 31, 0⟩
def noteCmdClr : RField := ⟨noteCmd, 1, 1⟩
def noteCmdDrop : RField := ⟨noteCmd, 0, 0⟩
def noteCountNotes : RField := ⟨noteCount, 26, 16⟩
def noteCountWords : RField := ⟨noteCount, 11, 0⟩
def noteStatusWm : RField := ⟨noteStatus, 2, 2⟩
def noteStatusLost : RField := ⟨noteStatus, 1, 1⟩
def noteStatusPresent : RField := ⟨noteStatus, 0, 0⟩
def noteLostCount : RField := ⟨noteLost, 31, 0⟩
def noteWmValue : RField := ⟨noteWm, 11, 0⟩
def notePeakValue : RField := ⟨notePeak, 11, 0⟩
def fabStatusStarve : RField := ⟨fabStatus, 3, 3⟩
def fabStatusHoldfull : RField := ⟨fabStatus, 2, 2⟩
def fabStatusForbid : RField := ⟨fabStatus, 1, 1⟩
def fabStatusDecerr : RField := ⟨fabStatus, 0, 0⟩
def fabErraddrAddr : RField := ⟨fabErraddr, 47, 0⟩
def fabErrsrcValid : RField := ⟨fabErrsrc, 31, 31⟩
def fabErrsrcInit : RField := ⟨fabErrsrc, 16, 10⟩
def fabErrsrcId : RField := ⟨fabErrsrc, 9, 0⟩
def fabStarveLimit : RField := ⟨fabStarve, 15, 0⟩
def fabHostqosQos : RField := ⟨fabHostqos, 3, 0⟩
def fabParkInit : RField := ⟨fabPark, 6, 0⟩
def intChiperrLogFull : RField := ⟨intChiperr, 10, 10⟩
def intChiperrLogNew : RField := ⟨intChiperr, 9, 9⟩
def intChiperrScrubSlow : RField := ⟨intChiperr, 8, 8⟩
def intChiperrEgrWithheld : RField := ⟨intChiperr, 7, 7⟩
def intChiperrTwinHard : RField := ⟨intChiperr, 6, 6⟩
def intChiperrTwin : RField := ⟨intChiperr, 5, 5⟩
def intChiperrUnwritten : RField := ⟨intChiperr, 4, 4⟩
def intChiperrSramUe : RField := ⟨intChiperr, 3, 3⟩
def intChiperrSramCe : RField := ⟨intChiperr, 2, 2⟩
def intChiperrDramUe : RField := ⟨intChiperr, 1, 1⟩
def intChiperrDramCe : RField := ⟨intChiperr, 0, 0⟩
def intLogStatOvf : RField := ⟨intLogStat, 31, 16⟩
def intLogStatCount : RField := ⟨intLogStat, 8, 0⟩
def intLogCmdClr : RField := ⟨intLogCmd, 0, 0⟩
def intFirstValid : RField := ⟨intFirst, 63, 63⟩
def intFirstKind : RField := ⟨intFirst, 55, 48⟩
def intFirstLoc : RField := ⟨intFirst, 47, 0⟩
def intCecntCount : RField := ⟨intCecnt, 31, 0⟩
def twinHard : RField := ⟨twin, 31, 31⟩
def twinRearm : RField := ⟨twin, 30, 30⟩
def twinHardLane : RField := ⟨twin, 27, 24⟩
def twinMismatch : RField := ⟨twin, 23, 8⟩
def twinLane : RField := ⟨twin, 3, 0⟩
def scrubCtrlEn : RField := ⟨scrubCtrl, 31, 31⟩
def scrubCtrlLimit : RField := ⟨scrubCtrl, 15, 0⟩
def scrubLapMs : RField := ⟨scrubLap, 31, 0⟩
def sretCmdGo : RField := ⟨sretCmd, 31, 31⟩
def sretCmdBank : RField := ⟨sretCmd, 8, 0⟩
def sretStatBusy : RField := ⟨sretStat, 31, 31⟩
def sretStatResult : RField := ⟨sretStat, 30, 29⟩
def sretStatBank : RField := ⟨sretStat, 8, 0⟩
def sretUsedUsed : RField := ⟨sretUsed, 0, 0⟩
def sealKeydataKey : RField := ⟨sealKeydata, 31, 0⟩
def sealKeycmdGo : RField := ⟨sealKeycmd, 31, 31⟩
def sealKeycmdErase : RField := ⟨sealKeycmd, 30, 30⟩
def sealKeycmdLen : RField := ⟨sealKeycmd, 24, 24⟩
def sealKeycmdTen : RField := ⟨sealKeycmd, 17, 16⟩
def sealKeycmdSlot : RField := ⟨sealKeycmd, 5, 0⟩
def sealSlotValid : RField := ⟨sealSlot, 31, 31⟩
def sealSlotLen : RField := ⟨sealSlot, 30, 30⟩
def sealSlotTen : RField := ⟨sealSlot, 17, 16⟩
def sealSlotLoads : RField := ⟨sealSlot, 15, 0⟩
def mcStatState : RField := ⟨mcStat, 2, 0⟩
def mcOccPeak : RField := ⟨mcOcc, 23, 16⟩
def mcOccCount : RField := ⟨mcOcc, 7, 0⟩
def mcRefForced : RField := ⟨mcRef, 31, 16⟩
def mcRefOwed : RField := ⟨mcRef, 4, 0⟩
def mcSrcntAborted : RField := ⟨mcSrcnt, 31, 16⟩
def mcSrcntEntries : RField := ⟨mcSrcnt, 15, 0⟩
def mcRetcmdGo : RField := ⟨mcRetcmd, 31, 31⟩
def mcRetcmdNocopy : RField := ⟨mcRetcmd, 30, 30⟩
def mcRetcmdG : RField := ⟨mcRetcmd, 19, 0⟩
def mcRetstatBusy : RField := ⟨mcRetstat, 31, 31⟩
def mcRetstatResult : RField := ⟨mcRetstat, 30, 29⟩
def mcRetstatCount : RField := ⟨mcRetstat, 6, 0⟩
def mcRetValid : RField := ⟨mcRet, 31, 31⟩
def mcRetSpare : RField := ⟨mcRet, 20, 20⟩
def mcRetG : RField := ⟨mcRet, 19, 0⟩
def memSchedAgecap : RField := ⟨memSched, 7, 0⟩
def memCmdTowerInit : RField := ⟨memCmd, 2, 2⟩
def memCmdExit : RField := ⟨memCmd, 1, 1⟩
def memCmdEnter : RField := ⟨memCmd, 0, 0⟩
def memStatPll : RField := ⟨memStat, 3, 0⟩
def memTempTrained : RField := ⟨memTemp, 23, 16⟩
def memTempNow : RField := ⟨memTemp, 7, 0⟩
def memtrSelPc : RField := ⟨memtrSel, 6, 0⟩
def memtrCmdLive : RField := ⟨memtrCmd, 8, 8⟩
def memtrCmdOp : RField := ⟨memtrCmd, 2, 0⟩
def memtrPatSeed : RField := ⟨memtrPat, 31, 16⟩
def memtrPatKind : RField := ⟨memtrPat, 1, 0⟩
def memtrStatFail : RField := ⟨memtrStat, 1, 1⟩
def memtrStatBusy : RField := ⟨memtrStat, 0, 0⟩
def memtrCmpLanes : RField := ⟨memtrCmp, 35, 0⟩
def memtrWinValid : RField := ⟨memtrWin, 31, 31⟩
def memtrWinLeft : RField := ⟨memtrWin, 22, 16⟩
def memtrWinRight : RField := ⟨memtrWin, 14, 8⟩
def memtrWinDly : RField := ⟨memtrWin, 6, 0⟩
def beamCfgTen : RField := ⟨beamCfg, 31, 30⟩
def beamCfgVolt : RField := ⟨beamCfg, 29, 29⟩
def beamCfgPower : RField := ⟨beamCfg, 28, 28⟩
def beamCfgWatch : RField := ⟨beamCfg, 27, 27⟩
def beamCfgFrz : RField := ⟨beamCfg, 26, 26⟩
def beamCfgPair : RField := ⟨beamCfg, 25, 24⟩
def beamCfgVfmt : RField := ⟨beamCfg, 23, 23⟩
def beamCfgVshift : RField := ⟨beamCfg, 22, 18⟩
def beamCfgNlog2 : RField := ⟨beamCfg, 17, 14⟩
def beamCfgCavg : RField := ⟨beamCfg, 13, 11⟩
def beamCfgWslot : RField := ⟨beamCfg, 9, 4⟩
def beamOutPshift : RField := ⟨beamOut, 22, 18⟩
def beamOutFlow : RField := ⟨beamOut, 17, 0⟩
def beamClampCount : RField := ⟨beamClamp, 31, 0⟩
def beamCmdClrcnt : RField := ⟨beamCmd, 0, 0⟩
def watchCfgHoldoff : RField := ⟨watchCfg, 31, 24⟩
def watchCfgPri : RField := ⟨watchCfg, 19, 18⟩
def watchCfgNclog2 : RField := ⟨watchCfg, 15, 12⟩
def watchCfgAlertEn : RField := ⟨watchCfg, 0, 0⟩
def watchAlertsCount : RField := ⟨watchAlerts, 31, 0⟩
def watchLastWslot : RField := ⟨watchLast, 63, 58⟩
def watchLastFrame : RField := ⟨watchLast, 33, 0⟩
def rgnSlackMinValue : RField := ⟨rgnSlackMin, 31, 0⟩
def rgnSlackWarnValue : RField := ⟨rgnSlackWarn, 31, 0⟩
def rgnOverrunCount : RField := ⟨rgnOverrun, 31, 16⟩
def rgnOverrunBlocks : RField := ⟨rgnOverrun, 11, 0⟩
def rgnErrstatUnwritten : RField := ⟨rgnErrstat, 7, 7⟩
def rgnErrstatPoolRes : RField := ⟨rgnErrstat, 6, 6⟩
def rgnErrstatParity : RField := ⟨rgnErrstat, 5, 5⟩
def rgnErrstatImem : RField := ⟨rgnErrstat, 4, 4⟩
def rgnErrstatBlkUe : RField := ⟨rgnErrstat, 3, 3⟩
def rgnErrstatBlkCe : RField := ⟨rgnErrstat, 2, 2⟩
def rgnErrstatPoolUe : RField := ⟨rgnErrstat, 1, 1⟩
def rgnErrstatPoolCe : RField := ⟨rgnErrstat, 0, 0⟩
def rgnBlkretMask : RField := ⟨rgnBlkret, 11, 0⟩
def rgnNsNs : RField := ⟨rgnNs, 63, 16⟩
def rgnNsFrac : RField := ⟨rgnNs, 15, 0⟩
def rgnNsIncInc : RField := ⟨rgnNsInc, 23, 0⟩
def rgnNsErrErr : RField := ⟨rgnNsErr, 31, 0⟩
def rgnBlkslackLast : RField := ⟨rgnBlkslack, 31, 0⟩
def blkRetireMask : RField := ⟨blkRetire, 31, 0⟩
def blkFusedMask : RField := ⟨blkFused, 31, 0⟩
def blkSpareMask : RField := ⟨blkSpare, 31, 0⟩
def blkCellfaultCells : RField := ⟨blkCellfault, 31, 0⟩
def blkCellsatCells : RField := ⟨blkCellsat, 31, 0⟩
def blkRedoFailed : RField := ⟨blkRedo, 31, 16⟩
def blkRedoDone : RField := ⟨blkRedo, 15, 0⟩
def blkRedoBudgetCycles : RField := ⟨blkRedoBudget, 31, 0⟩
def blkBeamEn : RField := ⟨blkBeam, 31, 31⟩
def blkBeamWdlog2 : RField := ⟨blkBeam, 27, 24⟩
def blkBeamG0 : RField := ⟨blkBeam, 23, 21⟩
def blkBeamNgm1 : RField := ⟨blkBeam, 20, 18⟩
def blkBeamNbm1 : RField := ⟨blkBeam, 15, 8⟩
def blkBeamB0 : RField := ⟨blkBeam, 7, 0⟩
def blkVsatCount : RField := ⟨blkVsat, 31, 0⟩
def blkX2baseBase : RField := ⟨blkX2base, 8, 0⟩
def blkProgRestart : RField := ⟨blkProg, 28, 28⟩
def blkProgFramePc : RField := ⟨blkProg, 27, 16⟩
def blkProgInitPc : RField := ⟨blkProg, 11, 0⟩
def blkSeqcmdStop : RField := ⟨blkSeqcmd, 1, 1⟩
def blkSeqcmdStart : RField := ⟨blkSeqcmd, 0, 0⟩
def blkSeqstatState : RField := ⟨blkSeqstat, 26, 24⟩
def blkSeqstatLoops : RField := ⟨blkSeqstat, 14, 12⟩
def blkSeqstatPc : RField := ⟨blkSeqstat, 11, 0⟩
def blkExcCause : RField := ⟨blkExc, 31, 24⟩
def blkExcSlot : RField := ⟨blkExc, 23, 22⟩
def blkExcPc : RField := ⟨blkExc, 11, 0⟩
def blkBufrelFill1 : RField := ⟨blkBufrel, 3, 3⟩
def blkBufrelFill0 : RField := ⟨blkBufrel, 2, 2⟩
def blkBufrelRel1 : RField := ⟨blkBufrel, 1, 1⟩
def blkBufrelRel0 : RField := ⟨blkBufrel, 0, 0⟩

end Sys2Proof.Machine
end

