-- ==== Sys2Proof/Machine/State.lean ====
section
/-! DEFINITION. The state of the N2048 as plain data: the register file (every register of the maps, by window
offset), the memories, and what each unit holds besides its registers; the reasons a step stops; the state after
reset. -/

namespace Sys2Proof.Machine

/-- Why a run stops. No rule of the spec stops the block: kept for the interface. -/
inductive Fault where
  /-- Raised by no command of this model; safe. -/
  | stopped
  deriving DecidableEq, Repr

/-- Why a command has no meaning. -/
inductive Refusal where
  /-- Raised by the dispatch for a command that has no meaning yet; safe. -/
  | notModelled (mnemonic : String)
  deriving DecidableEq, Repr

/-! ## Memories -/

/-- How the check bits of a stored 8-byte word read (R257, R258). -/
inductive Mark where
  /-- No error. -/
  | clean
  /-- A correctable error. -/
  | correctable
  /-- The POISON mark. -/
  | poison
  /-- The UNWRITTEN mark. -/
  | unwritten
  /-- Any other uncorrectable syndrome. -/
  | uncorrectable
  deriving DecidableEq, Repr

/-- A shadowed table (R33, R37): chip-wide, or of one tenancy. -/
inductive Table where
  | eq | dly | bw (t : Nat) | wt (t : Nat)
  deriving DecidableEq, Repr

/-- A write to a shadow view held by back-pressure (R35, R98, R159), with which of its bytes carry POISON (R110). -/
structure HeldWrite where
  who   : Who
  addr  : Nat
  data  : List Byte
  bad   : List Bool := []
  deriving DecidableEq, Repr

/-! ## Ingest and front end -/

/-- A coarse sample on its way through a chain: 12-bit parts with 3 fractional bits, its flag, whether R63 made it
a lost one (R77, R80), and whether a state word that failed its check entered it (R265). -/
structure FeSample where
  re      : Int
  im      : Int
  flagged : Bool
  lost    : Bool
  bad     : Bool := false
  deriving DecidableEq, Repr

/-- The state of one input's chain in one coarse channel (R80, R82, R84): the DC estimates, the samples that the
spike filter still needs, and the filtered samples, newest first. -/
structure Chain where
  mRe : Int := 0
  mIm : Int := 0
  ys  : List FeSample := []
  zs  : List FeSample := []
  deriving DecidableEq, Repr

/-- One of the 64 streams of a port (R62): the expected COUNTER, the COUNTER of the next sample to enter its chains,
that of the next sample to leave the spike filter, and whether the partner has sent it since ALIGN was entered (R21). -/
structure Stream where
  expected : Option Nat := none
  next     : Option Nat := none
  zNext    : Nat := 0
  since    : Bool := false
  deriving DecidableEq, Repr

/-- A PRBS31 checker (R71): the last 31 bits of its lane, newest in bit 0, how many bits it has taken, at most 31, and
how many error-free bits in a row, at most 64. -/
structure Checker where
  last : BitVec 31 := 0
  seen : Nat := 0
  run  : Nat := 0
  deriving DecidableEq, Repr

/-- What a port holds besides its registers: SEQ of the last packet whose header passed check 2 (R62); how many packets
in a row passed framing, header and CRC (R54); training failures in a row (R65); the latest frame whose boundary
arrived, with the one before it, newest first, and their core cycles (R21); the latest COUNTER at which a sample of the port did not come or came flagged; the
frames whose boundaries wait to be judged (R24), their arrivals, and whether each frame was clean; whether a clean one has
passed; whether
the receivers are on; the lateness of each lane (R53); the frames whose samples are in the data flow, from and up to (R65
to R67); the last 58 line bits before the descrambler, the earliest in bit 0 (R47); and the lanes' PRBS31 generators and
checkers (R71). -/
structure Port where
  lastSeq  : Option Nat := none
  okRun    : Nat := 0
  fails    : Nat := 0
  bounds   : List (Nat × Nat) := []
  dirty    : Option Nat := none
  judge    : List (Nat × Nat × Bool) := []
  good     : Bool := false
  rxOn     : Bool := false
  lates    : Sparse Nat := []
  useFrom  : Option Nat := none
  useTo    : Option Nat := none
  line     : BitVec 58 := 0
  gens     : Sparse (BitVec 31) := []
  checks   : Sparse Checker := []
  deriving DecidableEq, Repr

/-- A fine sample held before the equaliser (R90): the inputs of a group, in every fine channel of a coarse channel,
and the words in which the twin will differ. -/
structure Fine where
  g       : Nat
  j       : Nat
  frame   : Nat
  t       : Nat
  cols    : List (Bool × List (Int × Int))
  differs : List (Nat × Nat)
  deriving DecidableEq, Repr

/-- An element of the front-end stream (R112): one fine time and chip fine channel, the inputs of one group. -/
structure Element where
  port  : Nat
  g     : Nat
  frame : Nat
  t     : Nat
  c     : Nat
  bytes : List Byte
  deriving DecidableEq, Repr

/-- The twin of an ingest engine (R263, R264): whether a mismatch was seen in this dwell, and among the samples of the
next dwell that leave before the FT; whether the dwell repeats one that mismatched, and whether the twin's output stands
in for a lane's. -/
structure Twin where
  bad      : Bool := false
  early    : Bool := false
  repeated : Bool := false
  subst    : Bool := false
  deriving DecidableEq, Repr

/-! ## Move engines -/

/-- Where a descriptor came from (R101, R210): a ring entry, or MV.DESC of a block with its barrier and event line. -/
inductive DescSource where
  | ring
  | block (blk : Nat) (addr : Nat) (bar : Nat) (line : Option Nat)
  deriving DecidableEq, Repr

/-- A descriptor taken by an engine and not yet completed: its source, address and 64 bytes; the tenancy it acts for;
the frame number when it was fetched (R105); its completion code once settled; for a stream, the frame and position of
its first element and the elements passed (R112); the bytes written, whether a bad source word was seen, and the
corrected errors; whether the host link was lost under it (R354); when it was fetched; and, once the slot of a replay has
stopped holding its frame, each element as it read then, with its corrected errors (R122). -/
structure Job where
  src    : DescSource
  addr   : Nat
  desc   : List Byte
  ten    : Nat
  frame  : Nat
  code   : Option Nat
  stream : Bool
  sframe : Option Nat
  first  : Nat
  taken  : Nat
  bytes  : Nat
  bad    : Bool
  ce     : Nat
  cut    : Bool := false
  since  : Nat := 0
  kept   : Option (List (List (Byte × Bool) × Nat)) := none
  deriving DecidableEq, Repr

/-- A move engine: descriptors received and not yet taken, descriptors in progress (both oldest first), the next ring
entry to take, and whether it has stopped at an entry with OWN = 0 (R101). -/
structure Engine where
  waiting : List DescSource := []
  jobs    : List Job := []
  fetched : Nat := 0
  stopped : Bool := false
  deriving DecidableEq, Repr

/-! ## Sequencers and cells -/

/-- The sequencer states of R185, in the order of their codes. -/
inductive SeqState where
  | off | init | wait | run | ended | halted | fault
  deriving DecidableEq, Repr

/-- An active hardware loop (R188). -/
structure Loop where
  first : Nat
  last  : Nat
  left  : Nat
  deriving DecidableEq, Repr

/-- A vector register: its 32 lanes and its exponent E (R172). -/
structure VReg where
  lanes : List Word := List.replicate 32 0
  e     : Nat := 0
  deriving DecidableEq, Repr

/-- An MV.LD or MV.ST under way (R193, R209): its barrier, the cycle in which its data are in place, and for a store its
address and the bytes it replaced. -/
structure PortMove where
  bar  : Nat
  due  : Nat
  addr : Nat := 0
  old  : List Byte := []
  deriving DecidableEq, Repr

/-- A SYS.COMMIT on its way to the tick unit (R208): the context, its bits, and the cycle of its acceptance. -/
structure SysCommit where
  ctx  : Nat
  bits : Nat
  due  : Nat
  deriving DecidableEq, Repr

/-- A Skaiq sequencer (R180, R181, R185 to R195): a block's, or a conductor context. `masks` holds the mask registers
as written, `seen` as the next bundle's C slot sees them (R193). `target` is a taken branch waiting for its delay
bundle, and `delay` tells that the next bundle is a delay bundle. `moves` holds the barriers
of the descriptors under way, `ports` the MV.LDs and MV.STs, and `starts` counts the CX.STARTs issued (R231). `ending` is a FRAME.END that has issued; `stopping` a STOP that waits for the FT; `dying` a PROGRAM reset under way;
`faultRun` a fault that arose in RUN, and `faultNew` one no FT has followed; `first` that the frame's first bundle is
still to issue (R186). -/
structure Seq where
  st       : SeqState := .off
  pc       : Nat := 0
  s        : Sparse Word := []
  p        : BitVec 8 := 1
  v        : Sparse VReg := []
  masks    : Sparse Word := []
  seen     : Sparse Word := []
  loops    : List Loop := []
  target   : Option Nat := none
  delay    : Bool := false
  slack    : Nat := 0
  evt      : Word := 0
  endCycle : Option Nat := none
  stalled  : Bool := false
  ending   : Bool := false
  stopping : Bool := false
  dying    : Bool := false
  faultRun : Bool := false
  faultNew : Bool := false
  moves    : List Nat := []
  ports    : List PortMove := []
  starts   : Nat := 0
  first    : Bool := false
  deriving DecidableEq, Repr

/-- The modes of a cell (R126). -/
inductive CellMode where
  | x | x2 | b
  deriving DecidableEq, Repr

/-- A register set of a cell (R127, R148): accumulators by 2(16u+v)+part, valid-pair counters, residues, saturation
bits, sticky word, mode, samples since preload (and their number modulo 256, by which X2 spills), tag and the frame R391 gives
it. -/
structure CellSet where
  acc     : Sparse Int := []
  cnt     : Sparse Nat := []
  res     : Sparse Nat := []
  sat     : Sparse Bool := []
  sticky  : BitVec 16 := 0
  mode    : CellMode := .x
  samples : Nat := 0
  phase   : BitVec 8 := 0
  tag     : Word := 0
  frame   : Option Nat := none
  deriving DecidableEq, Repr

/-- A store record as the sequencer read it (R219). -/
structure Record where
  vBase   : Nat
  vsh     : Nat
  shape   : Nat
  qlog2   : Nat
  kM1     : Nat
  fmt     : Nat
  cBase   : Nat
  nInt    : Nat
  fBase   : Nat
  merge   : Nat
  norm    : Nat
  rowrec  : Nat
  flows   : List (Option Nat)
  deriving DecidableEq, Repr

/-- Where a preload comes from (R133). -/
inductive PreSource where
  | zero | run | abs
  deriving DecidableEq, Repr

/-- An operation in a cell's queue (R191, R218), with what its instruction read at issue. -/
inductive CellOp where
  | start (exchange : Bool) (mode : CellMode) (buf : Nat) (q cOut n t0 serial : Nat)
  | beam (chan nch ch0 b0 n t0 : Nat)
  | preload (src : PreSource) (rank q cOut : Nat) (record : Option Record)
  | dump (close : Bool) (rank q cOut : Nat) (record : Record)
  | save (active : Bool) (addr : Nat)
  | restore (addr : Nat)
  | clear (active : Bool)
  | spill (phys : Bool)
  deriving DecidableEq, Repr

/-- A run in the MAC array (R220): its operation, the cycle it started, and the samples it has already added. -/
structure Run where
  op    : CellOp
  since : Nat
  done  : Nat
  deriving DecidableEq, Repr

/-- A cell: its two physical register sets, which is active, its operation queue and its run; the operation that
filled the standby set, kept for a redo (R143). -/
structure Cell where
  set0   : CellSet := {}
  set1   : CellSet := {}
  active : Bool := false
  queue  : List CellOp := []
  run    : Option Run := none
  fill0  : Option CellOp := none
  fill1  : Option CellOp := none
  ran0   : List CellOp := []
  ran1   : List CellOp := []
  deriving DecidableEq, Repr

/-- A withheld dump and the spare that re-runs it (R143): the cell and its physical set, the dump, the preload and the
runs to repeat, and the set as it was. -/
structure Redo where
  blk   : Nat
  cell  : Nat
  phys  : Bool
  spare : Option Nat
  dump  : CellOp
  fill  : Option CellOp
  runs  : List CellOp
  orig  : CellSet
  deriving DecidableEq, Repr

/-- The parts a split reduction has gathered in one merge slot (R146). -/
structure Merge where
  addr  : Nat
  parts : Nat
  set   : CellSet
  deriving DecidableEq, Repr

/-- A release a member has written and that has not taken effect (R231). -/
structure Release where
  blk    : Nat
  x      : Nat
  serial : Nat
  deriving DecidableEq, Repr

/-- The normalisation packet of an output channel under way (R150): the DIAG sub-tiles closed since the last one, by
row band of 16 inputs, the flags of their closes and the latest of their frames. -/
structure Norm where
  ten   : Nat
  cOut  : Nat
  done  : Nat
  flags : Nat
  frame : Nat
  deriving DecidableEq, Repr

/-- A sub-tile that has closed and waits for the rest of the packets it belongs to (R149, R151); `sent` lists those that have
left: 0 visibilities, 1 counts, 2 row records. -/
structure Close where
  region : Nat
  ten    : Nat
  q      : Nat
  cOut   : Nat
  record : Record
  flags  : Nat
  frame  : Nat
  values : List (Nat × Int × Int × Nat)
  sent   : List Nat := []
  deriving DecidableEq, Repr

/-! ## Beams -/

/-- The sums of one beam, fine channel and fine time of the frame in hand (R153): the exact parts, whether a valid
sample with a non-zero weight contributed (R160), how many chunks of inputs have been added, whether a bad weight
entered (R265), and the parts' companions modulo 15 (R261). -/
structure BeamSum where
  re    : Int := 0
  im    : Int := 0
  any   : Bool := false
  parts : Nat := 0
  spoiled : Bool := false
  resRe : Nat := 0
  resIm : Nat := 0
  deriving DecidableEq, Repr

/-- A power period of a beam in one region (R163): the frame and fine sample it began at, the four sums and the
count of each output channel, the sums' companions modulo 15 (R261), the output channels into which a sum that failed its
check went, and whether a change of configuration or an overrun cut it short. -/
structure Period where
  frame   : Nat := 0
  start   : Nat := 0
  sums    : Sparse (Int × Int × Int × Int × Nat) := []
  res     : Sparse (Nat × Nat × Nat × Nat) := []
  failed  : List Nat := []
  cutShort : Bool := false
  deriving DecidableEq, Repr

/-! ## Egress -/

/-- The regional results that a watch packet is formed from (R262): slot, alert byte, first channel and number of channels of
the packet, each channel's spectrum value with whether it exceeded, none where incomplete, and the channels whose results
would read back poisoned. -/
structure Regional where
  slot  : Nat
  alert : Nat
  c0    : Nat
  nw    : Nat
  chans : List (Option (Nat × Bool))
  bad   : List Nat := []
  deriving DecidableEq, Repr

/-- A product waiting for staging (R282, R284, R286); `crcBad` that a word of it in the staging is bad; a watch product with
the results that its engine keeps. -/
structure Product where
  ten     : Nat
  type    : Nat
  flow    : Nat
  region  : Nat := 0
  flags   : Nat := 0
  frame   : Nat := 0
  chan0   : Nat := 0
  nchan   : Nat := 0
  block   : Nat := 0
  payload : List Byte
  crcBad  : Bool := false
  kept    : Option Regional := none
  deriving DecidableEq, Repr

/-- A packet in a port's Sluice (R283, R290, R292): its product, the context and the template it was staged under, its SEQ,
its staging order, its launch time, and its PCRC. -/
structure Queued where
  prod   : Product
  ctx    : List Byte
  tmpl   : List Byte
  seq    : Nat
  order  : Nat
  launch : Option Nat
  pcrc   : Word
  qos    : Nat
  deriving DecidableEq, Repr

/-- A frame on the wire: the port and its bytes, from the destination MAC address through the FCS. -/
structure TxFrame where
  port  : Nat
  start : Nat
  bytes : List Byte
  deriving DecidableEq, Repr

/-- An entry of a transmit timestamp queue (R296). -/
structure Stamp where
  stamp : BitVec 64
  flow  : Nat
  id    : Nat
  deriving DecidableEq, Repr

/-- A note (R300, R302). -/
structure Note where
  pri   : Nat
  type  : Nat
  words : List Word
  deriving DecidableEq, Repr

/-- A note queue: its notes, oldest first, and the open note with the words already read. -/
structure NoteQueue where
  notes  : List Note := []
  opened : Option (Note × Nat) := none
  deriving DecidableEq, Repr

/-- An egress port besides its registers (R290 to R297): queued packets, the bucket in 1/1,024 byte, whether the MAC
is sending, transmit stamps, the receive ring, and whether it sends remote fault (R276). -/
structure EgrPort where
  queue  : List Queued := []
  bucket : Int := 18915328
  since  : Nat := 0
  busy   : Bool := false
  stamps : List Stamp := []
  rx     : List (List Byte) := []
  rxHead : Nat := 0
  rfSent : Bool := false
  deriving DecidableEq, Repr

/-! ## Fabric and memory controllers -/

/-- A fabric request (R235) as it waits or is served: `since` its acceptance at the initiator port, `came` at the controller;
`port` the port at which it waits, a target port or one of a region switch; `no` its number in the order of acceptance at a
port; `terr` that it met an UNTRAINED pseudo-channel (R252). -/
structure Req where
  init   : Nat
  id     : Nat
  qos    : Nat
  ten    : Nat
  addr   : Nat
  target : Nat
  acc    : Access
  since  : Nat
  left   : Nat
  promoted : Bool := false
  port   : Nat := 0
  no     : Nat := 0
  came   : Nat := 0
  terr   : Bool := false
  deriving DecidableEq, Repr

/-- The statuses of a response (R235), and Unsupported Request for a BAR2 read (R356). -/
inductive RespStatus where
  | ok | poison | terr | decerr | unsupported
  deriving DecidableEq, Repr

/-- A response (R235), or what a register or BAR2 read returned. -/
structure Resp where
  init   : Nat
  id     : Nat
  status : RespStatus
  data   : List Byte
  deriving DecidableEq, Repr

/-- A memory controller besides its registers (R250 to R256): its queue, the requests it holds, open rows by bank, the
next bank due for refresh, whether its round is forced, whether self-refresh entry has been issued, the granule under
retirement. -/
structure Ctl where
  queue  : List Req := []
  held   : List Req := []
  rows   : Sparse Nat := []
  refBank : Nat := 0
  forced  : Bool := false
  entry   : Bool := false
  copy   : Option (Nat × Nat × Bool) := none
  deriving DecidableEq, Repr

/-! ## Integrity -/

/-- A log entry (R271). -/
structure LogEntry where
  loc   : Nat
  kind  : Nat
  syn   : Nat
  count : Nat
  scrub : Bool
  frame : Nat
  first : BitVec 64
  last  : BitVec 64
  deriving DecidableEq, Repr

/-- A scrub unit besides its registers (R269): the next word, when the lap began, whether it was found slow. -/
structure Scrub where
  word  : Nat := 0
  since : Nat := 0
  slow  : Bool := false
  copy  : Option Nat := none
  deriving DecidableEq, Repr

/-! ## Timebase -/

/-- A reference besides its registers (R305, R306, R311, R313): clean gates in a row, agreeing gates in a row while
held by CAUSE 3, the partner it disagreed with, and the core cycle of its latest boundary. -/
structure Ref where
  gates   : Nat := 0
  agree   : Nat := 0
  partner : Option Nat := none
  bound   : Nat := 0
  deriving DecidableEq, Repr

/-- The timebase and servo besides their registers (R298, R304, R311 to R318): TOD seconds, and nanoseconds in units of
10^-15 ns; the seconds to load at the next carry; the phase step still to apply, in 10^-24 s; boundaries in and out of
limit in a row; the held POFS; the target of a running switch with the POFS it will hold, and the MAN choice waiting
behind it; whether the next boundary steps TOD; whether the loop bandwidth is 10 Hz; pairs found disagreeing; the
servo's measurements in and out of limit in a row, its latest T2, and whether its bandwidth is 10 Hz. -/
structure Timebase where
  sec      : Nat := 0
  acc      : Nat := 0
  load     : Option Nat := none
  step     : Int := 0
  inRun    : Nat := 0
  outRun   : Nat := 0
  held     : Int := 0
  target   : Option (Nat × Int) := none
  manWait  : Option Nat := none
  stepNext : Bool := false
  wide     : Bool := false
  pairs    : List (Nat × Nat) := []
  sIn      : Nat := 0
  sOut     : Nat := 0
  sLast    : Option Nat := none
  sWide    : Bool := false
  deriving DecidableEq, Repr

/-! ## Reeves, power and the Peat store -/

/-- A record of the journal (R338): `value` is none for a DELETE. -/
structure PeatRec where
  key   : Nat
  seq   : Nat
  value : Option (List Byte)
  deriving DecidableEq, Repr

/-- One half of the store (R338): the GEN of a valid COMMIT, and the journal, oldest first. -/
structure PeatHalf where
  gen     : Option Nat := none
  journal : List PeatRec := []
  deriving DecidableEq, Repr

/-- The saved-state record (R330): target power state, thermal limits, wake timer and rail settings. -/
structure Saved where
  power : Nat
  therm : Nat
  wake  : Nat
  rails : List (Option (List Byte))
  deriving DecidableEq, Repr

/-- The Peat store besides its registers: the halves, which is active, the command waiting, a torn tail (R339), the
highest SEQ written, what the latest record of key 0x0000_0001 says, and the bytes of `PEAT.DATA` written since power-on
(the others are undefined: free values by `draw`). -/
structure Peat where
  half0  : PeatHalf := {}
  half1  : PeatHalf := {}
  active : Bool := false
  cmd    : Option Nat := none
  torn   : Bool := false
  seq    : Nat := 0
  saved  : Option Saved := none
  data   : Sparse (Option Byte) := []
  draw   : Nat := 0
  deriving DecidableEq, Repr

/-- The reeves, arbiter and power system besides their registers: the reeve released for a takeover (R329); the holder
has stopped renewing (R332); the lease term is counted on FIO (R328); the mailbox copy (R330); the rail map in use
(R334); whether a CHIP reset is asserted and which pins hold it (R346); whether its release must restore RWS fields
(R348); the POR sequence is under way; THERM_TRIP_N is low (R337); a wake or a power command waits for a holder (R333);
and the root PLL's first lock is still to come (R320); VAON_IO is within its band (R375); the rails that are enabled, and
every switching of a rail the holder has sent over PMBus, oldest first: the rail, and whether on (R334). -/
structure Power where
  released : Option Reeve := none
  handing  : Bool := false
  fioTerm  : Bool := false
  mailbox  : Option Saved := none
  rails    : List (Option (List Byte)) := []
  inReset  : Bool := false
  pinLow   : Bool := false
  perstLow : Bool := false
  restore  : Bool := false
  porSeq   : Bool := false
  tripped  : Bool := false
  woken    : Bool := false
  cmd      : Option Nat := none
  rootWait : Bool := true
  vaonIo   : Bool := true
  railsOn  : BitVec 7 := 127
  switched : List (Fin 7 × Bool) := []
  deriving DecidableEq, Repr

/-! ## JTAG -/

/-- The states of the JTAG controller (R382; the sixteen of IEEE 1149.1). -/
inductive TapState where
  | testLogicReset | runTestIdle
  | selectDr | captureDr | shiftDr | exit1Dr | pauseDr | exit2Dr | updateDr
  | selectIr | captureIr | shiftIr | exit1Ir | pauseIr | exit2Ir | updateIr
  deriving DecidableEq, Repr

/-- The JTAG instructions (R382). -/
inductive TapInstr where
  | bypass | samplePreload | extest | clamp | highz | extestPulse | extestTrain
  deriving DecidableEq, Repr

/-- The JTAG port (R382): its controller's state, and the instruction in force. -/
structure Jtag where
  tap   : TapState := .testLogicReset
  instr : TapInstr := .bypass
  deriving DecidableEq, Repr

/-- The ring's choice for the next frame (R114, R118, R119). -/
inductive SlotChoice where
  | undecided | ring (s : Nat) | frozen
  deriving DecidableEq, Repr

/-- The frame ring besides its registers: the last ring slot written; the choice for the next frame; whether the
pending request came after the seal point (R117); the frames the working slots hold; each keep ring's frozen flag, its
pending request (`true` a thaw; and whether it came after the seal point), and the frames its slots hold, by
65,536 t + slot (R121). -/
structure Mire where
  lastSlot   : Option Nat := none
  choice     : SlotChoice := .undecided
  late       : Bool := false
  work       : Sparse (Option Nat) := []
  keepFrozen : BitVec 4 := 0
  keepPend   : Sparse (Option (Bool × Bool)) := []
  keepDir    : Sparse (Option Nat) := []
  deriving DecidableEq, Repr

/-- The tick unit besides its registers (R21, R26, R33 to R35): whether an FT has been raised since RUN was set, the
boundary that places the first FT and its arrival, the cycle of the latest FT, the time the timebase has counted since
that FT in 10^-24 s (R23), the swaps pending at the next FT and at
the one after, the tables whose bank 1 is live, the blocks whose weight bank 1 is live, and the writes held. -/
structure Tick where
  seen     : Bool := false
  first    : Option (Nat × Nat) := none
  ftCycle  : Nat := 0
  passed   : Nat := 0
  swapNext : List Table := []
  swapThen : List Table := []
  live     : List Table := []
  liveBw   : BitVec 48 := 0
  held     : List HeldWrite := []
  deriving DecidableEq, Repr

/-- One entry of the conductor write buffer (R198): the 32-byte unit, the bytes stored, and whose stores they are. -/
structure WEntry where
  unit  : Nat
  bytes : Sparse (Option Byte)
  ctxs  : List Nat
  deriving DecidableEq, Repr

/-- The state of the N2048. -/
structure State where
  /-- Registers that differ from their reset value, by window offset. -/
  regs : Sparse Nat := []
  /-- Memory bytes by internal address (R389). -/
  mem : List Host.Cell := []
  /-- Check-bit state of words by address / 8; an unlisted word reads UNWRITTEN (R267), or clean where the weights
  have been filled (R159). -/
  marks : Sparse (Option Mark) := []
  /-- Lines and granules whose written bit is set (R267). -/
  lines : List Nat := []
  /-- Gain bank entries (R98), by bank, engine, input, channel. -/
  gain : Sparse Nat := []
  /-- Entries of the gain and polynomial banks rewritten with UNWRITTEN (R265). -/
  badGain : List Nat := []
  /-- Delay polynomial words (R98), by bank, engine, input, coefficient. -/
  poly : Sparse Nat := []
  /-- Delay reference counter and sky frequency of the two banks (R92). -/
  c0 : Sparse Nat := []
  f0 : Sparse Nat := []
  /-- User coefficients (R88), by engine and entry. -/
  coef : Sparse Nat := []
  /-- Watch thresholds (R171), by bank, region, tenancy, entry. -/
  thr : Sparse Nat := []
  /-- Regions whose weights are filled (R159). -/
  weighted : BitVec 4 := 0
  /-- The fill of the weights after a CHIP reset is still to end (R159). -/
  filling : Bool := true
  /-- Core cycles since the CHIP reset's release. -/
  cycle : Nat := 0
  /-- Regions whose time counter waits for the time of day (R299). -/
  nsHold : BitVec 4 := 0
  tick : Tick := {}
  ports : Sparse Port := []
  streams : Sparse Stream := []
  chains : Sparse Chain := []
  /-- Fine samples held before the equaliser, by port (R90, R91). -/
  hold : Sparse (List Fine) := []
  /-- Ports whose hold of the coming frame has been released (R90). -/
  released : BitVec 8 := 0
  /-- Front-end controls of each port (R81), newest first: CTRL, SPIKE, and the COUNTER of the first coarse sample they
  act on, none for every sample. -/
  feActive : Sparse (List (Nat × Nat × Option Nat)) := []
  /-- DC_CLR waiting for the next coarse sample (R81). -/
  dcClear : BitVec 8 := 0
  /-- Counters SPIKE, FLAGIN, REQSAT by 3(256n+i)+x, what the samples past the next snapshot add to them, and their
  snapshot (R96). -/
  counts : Sparse Nat := []
  countsNext : Sparse Nat := []
  snapshot : Sparse Nat := []
  /-- LINKLOSS vectors by frame (R391). -/
  linkloss : Sparse Nat := []
  /-- The frame and next fine time of each stream's filter bank (R84). -/
  formed : Sparse (Nat × Nat) := []
  /-- Fine samples in the beam staging (R154). -/
  staging : List Element := []
  twins : Sparse Twin := []
  engines : Sparse Engine := []
  mire : Mire := {}
  /-- The latest frame whose elements have begun to leave each front end (R112). -/
  begun : Sparse (Option Nat) := []
  /-- Frame tags of the channel buffers, by 2n+x (R391). -/
  bufTags : Sparse (Option Nat) := []
  seqs : Sparse Seq := []
  cells : Sparse (Option Cell) := []
  /-- Draws of the latest losses of the cell register sets, by region (R351); 0 after reset. -/
  cellLost : Sparse Nat := []
  /-- Operand bytes that fail their parity at the next fine sample of a cell's run (R260, R265): the cell and the position, 0 to
  15 rows, 16 to 31 columns. -/
  parity : List (Nat × Nat) := []
  /-- RETIRE masks in effect, by block (R144). -/
  retired : Sparse Word := []
  /-- The spare, plus 1, that stands in for a retired cell (R144). -/
  stand : Sparse Nat := []
  redos : List Redo := []
  merges : List Merge := []
  releases : List Release := []
  closes : List Close := []
  /-- Normalisation packets under way (R150). -/
  norms : List Norm := []
  /-- Flag entries whose latest preload restarted them (R266). -/
  restarts : List Nat := []
  /-- Minimum slacks of the last 256 frames, newest first, by region (R29); none where no block reported. -/
  slacks : Sparse (List (Option Nat)) := []
  wbuf : List WEntry := []
  commits : List SysCommit := []
  /-- Beam sums of the frame in hand (R153). -/
  beams : Sparse BeamSum := []
  periods : Sparse Period := []
  /-- Beam configurations in effect: CFG and OUT, by 2β and 2β+1 (R166). -/
  beamActive : Sparse (Option Nat) := []
  /-- Frame of the latest alert of each beam (R170). -/
  alerts : Sparse (Option Nat) := []
  /-- Voltage packets of the frame in hand that have been staged, and whether its watch results are released (R169). -/
  emitted : List Nat := []
  watchDone : Bool := false
  prods : List Product := []
  egress : Sparse EgrPort := []
  /-- Staged bytes of flow contexts (R281), each with whether it carries POISON. -/
  flowStage : Sparse (List (Option (Byte × Bool))) := []
  /-- MAC start of each flow's latest packet, in ns (R292). -/
  flowStart : Sparse (Option Nat) := []
  /-- Products staged so far. -/
  stagedNo : Nat := 0
  sent : List TxFrame := []
  notes : Sparse NoteQueue := []
  /-- Pending MSI-X (function, source), and messages sent (function, vector) (R364). -/
  msiPend : List (Nat × Nat) := []
  msiSent : List (Nat × Nat) := []
  /-- Requests queued at each port that grants, target ports and those of the region switches (R243). -/
  targets : Sparse (List Req) := []
  holdback : Sparse (List Req) := []
  inFlight : List Req := []
  responses : List Resp := []
  /-- Requests to host memory are answered with TERR: the link was lost under the job being completed (R354). -/
  hostCut : Bool := false
  /-- Requests accepted at ports so far. -/
  reqNo : Nat := 0
  /-- The peripheral behind the bridge leaves the next transaction unanswered (R234). -/
  silent : Bool := false
  /-- Host reads that wait behind posted writes (R242): function, address, bytes. -/
  hostReads : List (Nat × Nat × Nat) := []
  ctls : Sparse Ctl := []
  /-- Training delays in force by 72pc+36·dir+k (R253). -/
  delays : Sparse Nat := []
  /-- The training operation under way (R253). -/
  training : Option Nat := none
  /-- Towers whose temperature comparison acts (R254). -/
  trainArmed : BitVec 4 := 0
  /-- Tenancies throttled in this frame (R44), and use of each in it. -/
  throttled : List Nat := []
  used : Sparse Nat := []
  logs : Sparse (Option LogEntry) := []
  ceRecent : Sparse (List Nat) := []
  scrubs : Sparse Scrub := []
  /-- Corrected words waiting to be written back (R259). -/
  corrections : List Nat := []
  /-- Keys by slot (R275), and the staged key words. -/
  keys : Sparse (Option (BitVec 256)) := []
  keyStage : Sparse Word := []
  /-- Unit whose clock gate is pending (R324). -/
  gating : Option Nat := none
  tb : Timebase := {}
  refs : Sparse Ref := []
  peat : Peat := {}
  power : Power := {}
  jtag : Jtag := {}
  /-- Functions in D3hot (R353). -/
  d3hot : BitVec 4 := 0
  /-- What the latest register or BAR2 read returned. -/
  reply : Option Resp := none
  /-- The model's own counter of free values taken. -/
  fresh : Nat := 0
  /-- Commands waiting, first in, first out. -/
  pending : List Instr := []
  deriving DecidableEq, Repr

/-- The machine right after reset: every register at its reset value, every memory without contents, nothing in
flight. -/
def State.reset : State := {}

end Sys2Proof.Machine
end

