-- ==== Sys2Proof/Machine/Ops.lean ====
section
/-! DEFINITION. The plain operations every meaning is written with: sparse stores in canonical form, bytes and words,
registers and their fields, and the time of day. -/

namespace Sys2Proof

/-! ## Sparse stores: keys strictly rising, no entry equal to the default -/

/-- The value at key `k`, or the default `d`. -/
def Sparse.at {α : Type} (l : Sparse α) (k : Nat) (d : α) : α :=
  match l with
  | [] => d
  | (k', v) :: r => if k' = k then v else Sparse.at r k d

/-- `l` with `v` at key `k`; writing the default removes the entry. -/
def Sparse.put {α : Type} [DecidableEq α] (l : Sparse α) (k : Nat) (v d : α) : Sparse α :=
  match l with
  | [] => if v = d then [] else [(k, v)]
  | (k', v') :: r =>
    if k' < k then (k', v') :: Sparse.put r k v d
    else if k' = k then (if v = d then r else (k, v) :: r)
    else if v = d then (k', v') :: r else (k, v) :: (k', v') :: r

/-- `l` without the entries whose key satisfies `p`. -/
def Sparse.drop {α : Type} (l : Sparse α) (p : Nat → Bool) : Sparse α :=
  List.filter (fun e => !p e.1) l

/-- The canonical form: keys strictly rising, no entry equal to `d`. -/
def Sparse.wf {α : Type} [DecidableEq α] (l : Sparse α) (d : α) : Bool :=
  match l with
  | [] => true
  | (k, v) :: r => decide (v ≠ d) && (match r with | [] => true | (k', _) :: _ => decide (k < k')) && Sparse.wf r d

/-! ## Bits, bytes and words -/

/-- Bits `hi` to `lo` of a number. -/
def bits (v hi lo : Nat) : Nat := v / 2 ^ lo % 2 ^ (hi + 1 - lo)

/-- Bit `i` of a number. -/
def bit (v i : Nat) : Bool := v / 2 ^ i % 2 = 1

/-- `v` with bits `hi` to `lo` replaced by `x`. -/
def setBits (v hi lo x : Nat) : Nat :=
  v - bits v hi lo * 2 ^ lo + x % 2 ^ (hi + 1 - lo) * 2 ^ lo

/-- 1 for true. -/
def b2n (b : Bool) : Nat := if b then 1 else 0

/-- A number of `w` bits read as two's complement. -/
def sext (w v : Nat) : Int := if 2 * (v % 2 ^ w) < 2 ^ w then (v % 2 ^ w : Nat) else (v % 2 ^ w : Nat) - (2 ^ w : Nat)

/-- The low `w` bits of an integer. -/
def toBits (w : Nat) (x : Int) : Nat := (x % (2 ^ w : Nat)).toNat

/-- An integer held within `lo` and `hi`. -/
def clampInt (lo hi x : Int) : Int := if x < lo then lo else if hi < x then hi else x

/-- The little-endian value of some bytes (R6). -/
def leVal (l : List Byte) : Nat :=
  match l with
  | [] => 0
  | b :: r => b.toNat + 256 * leVal r

/-- The big-endian value of some bytes (R6). -/
def beVal (l : List Byte) : Nat := leVal l.reverse

/-- `n` little-endian bytes of a value. -/
def leBytes (n v : Nat) : List Byte :=
  match n with
  | 0 => []
  | n + 1 => BitVec.ofNat 8 v :: leBytes n (v / 256)

/-- `n` big-endian bytes of a value. -/
def beBytes (n v : Nat) : List Byte := (leBytes n v).reverse

/-- `n` bytes of a list from byte `a` on. -/
def slice {α : Type} (l : List α) (a n : Nat) : List α := (l.drop a).take n

/-- Element `i` of a list, or the default. -/
def nth {α : Type} (l : List α) (i : Nat) (d : α) : α := (l.drop i).headD d

/-- `l` with element `i` replaced. -/
def setNth {α : Type} (l : List α) (i : Nat) (v : α) : List α :=
  match l, i with
  | [], _ => []
  | _ :: r, 0 => v :: r
  | x :: r, i + 1 => x :: setNth r i v

/-- The powers of two up to `n` halvings of `v`: log2 rounded down. -/
def log2 (v : Nat) : Nat := Nat.log2 v

/-- `n` bits into a reflected CRC with polynomial `poly`. -/
def crcBits (poly n c : Nat) : Nat :=
  match n with
  | 0 => c
  | n + 1 => crcBits poly n (if c % 2 = 1 then c / 2 ^^^ poly else c / 2)

/-- A running reflected CRC of some bytes, without its final XOR. -/
def crcFold (poly : Nat) (l : List Byte) (c : Nat) : Nat :=
  match l with
  | [] => c
  | b :: r => crcFold poly r (crcBits poly 8 (c ^^^ b.toNat))

/-- CRC-32C (R60): polynomial 0x1EDC_6F41 reflected, initial value and final XOR 0xFFFF_FFFF. -/
def crc32c (l : List Byte) : Nat := crcFold 0x82F63B78 l 0xFFFFFFFF ^^^ 0xFFFFFFFF

/-- The Ethernet FCS (R276; log entry 121): polynomial 0x04C1_1DB7 reflected, initial value and final XOR 0xFFFF_FFFF. -/
def ethernetFcs (l : List Byte) : Nat := crcFold 0xEDB88320 l 0xFFFFFFFF ^^^ 0xFFFFFFFF

namespace Machine

/-! ## Registers -/

/-- The key of register `r` at indices `i`, `j`. -/
def RegDef.key (r : RegDef) (i j : Nat) : Nat := r.base + r.stride1 * i + r.stride2 * j

/-- What register `r` holds. -/
def State.reg (s : State) (r : RegDef) (i j : Nat) : Nat := s.regs.at (r.key i j) (r.reset i j)

/-- `s` with `v` in register `r`. -/
def State.setReg (s : State) (r : RegDef) (i j v : Nat) : State :=
  { s with regs := s.regs.put (r.key i j) (v % 2 ^ r.width) (r.reset i j) }

/-- What a field holds. -/
def State.get (s : State) (f : RField) (i : Nat := 0) (j : Nat := 0) : Nat := bits (s.reg f.reg i j) f.hi f.lo

/-- A one-bit field as a Bool. -/
def State.on (s : State) (f : RField) (i : Nat := 0) (j : Nat := 0) : Bool := s.get f i j = 1

/-- `s` with `v` in a field. -/
def State.set (s : State) (f : RField) (v : Nat) (i : Nat := 0) (j : Nat := 0) : State :=
  s.setReg f.reg i j (setBits (s.reg f.reg i j) f.hi f.lo v)

/-- A counter field goes up by `n` and holds at its largest value. -/
def State.count (s : State) (f : RField) (n : Nat) (i : Nat := 0) (j : Nat := 0) : State :=
  s.set f (min (s.get f i j + n) (2 ^ (f.hi + 1 - f.lo) - 1)) i j

/-- The field as a two's complement number. -/
def State.getInt (s : State) (f : RField) (i : Nat := 0) (j : Nat := 0) : Int :=
  sext (f.hi + 1 - f.lo) (s.get f i j)

/-- `s` with a two's complement number in a field. -/
def State.setInt (s : State) (f : RField) (v : Int) (i : Nat := 0) (j : Nat := 0) : State :=
  s.set f (toBits (f.hi + 1 - f.lo) v) i j

/-- The indices under which a register answers at offset `off`, and whether `off` names its upper 32 bits. -/
def RegDef.find (r : RegDef) (off : Nat) : Option (Nat × Nat × Bool) :=
  if off < r.base then none
  else
    let d := off - r.base
    let i := if r.count1 = 1 then 0 else d / r.stride1
    let d1 := if r.count1 = 1 then d else d % r.stride1
    let j := if r.count2 = 1 then 0 else d1 / r.stride2
    let d2 := if r.count2 = 1 then d1 else d1 % r.stride2
    if i < r.count1 ∧ j < r.count2 ∧ (d2 = 0 ∨ (d2 = 4 ∧ r.width = 64)) then some (i, j, d2 = 4) else none

/-- A register of the maps, found by its offset. -/
structure RegHit where
  reg  : RegDef
  i    : Nat
  j    : Nat
  high : Bool

/-- The register of `l` at offset `off`. -/
def findRegIn (l : List RegDef) (off : Nat) : Option RegHit :=
  match l with
  | [] => none
  | r :: t =>
    match r.find off with
    | some (i, j, h) => some ⟨r, i, j, h⟩
    | none => findRegIn t off

/-- The register at offset `off` (R10: no other offset holds one). -/
def findReg (off : Nat) : Option RegHit := findRegIn allRegs off

/-- The value a write leaves in a register under the access codes of its fields (R7). The queue's order is the order in
time, and a write that clears a W1C bit stands before what sets the bit in the same cycle, so the set wins (R8). -/
def writeFields (fs : List Fld) (old v : Nat) : Nat :=
  match fs with
  | [] => old
  | f :: r =>
    let o := bits old f.hi f.lo
    let x := bits v f.hi f.lo
    let n := match f.acc with
      | .rw | .po => x
      | .ro | .wo => o
      | .w1c => o &&& (2 ^ (f.hi + 1 - f.lo) - 1 - x)
    writeFields r (setBits old f.hi f.lo n) v

/-- A write takes a register field by field (R7). -/
def State.writeFieldsOf (s : State) (r : RegDef) (i j v : Nat) : State :=
  s.setReg r i j (writeFields r.fields (s.reg r i j) v)

/-- Bits of a status register are set. -/
def State.setStatus (s : State) (r : RegDef) (i j mask : Nat) : State := s.setReg r i j (s.reg r i j ||| mask)

/-- A one-bit W1C field is set. -/
def State.setW1c (s : State) (f : RField) (i : Nat := 0) (j : Nat := 0) : State := s.setStatus f.reg i j (2 ^ f.lo)

/-! ## Time -/

/-- One second in the units of `Timebase.acc`: 10^9 ns of 10^15. -/
def secondUnits : Nat := 10 ^ 24

/-- The nanoseconds of the time of day. -/
def State.todNs (s : State) : Nat := s.tb.acc / 10 ^ 15

/-- The time of day in the layout of `TICK.FT_TOD`: seconds at [63:30], nanoseconds at [29:0]. -/
def State.todStamp (s : State) : Nat := s.tb.sec % 2 ^ 34 * 2 ^ 30 + s.todNs

/-- The frame number of the frame in progress. -/
def State.frame (s : State) : Nat := s.get tickFrameFrame

/-- What a command answers. -/
abbrev Result := Host.Outcome State Fault Refusal

/-- A free value is taken: the counter goes up. -/
def State.drawn (s : State) : State := { s with fresh := s.fresh + 1 }

end Machine
end Sys2Proof
end

