-- ==== Sys2Proof/Machine/Coef.lean ====
section
/-! DEFINITION. Exact arithmetic the signal path shares: convergent rounding and saturation (R78), and the constants
the filter bank and the phase engine round from cosines (R84, R87, R88, R93), computed to 2^-100 or better before
their one rounding. -/

namespace Sys2Proof.Machine

/-- n / d for a positive d, to the nearest integer, ties to even. -/
def roundDiv (n : Int) (d : Nat) : Int :=
  let q := n / (d : Int)
  let r := n % (d : Int)
  if 2 * r < d then q else if (d : Int) < 2 * r then q + 1 else if q % 2 = 0 then q else q + 1

/-- round_c (R78): v / 2^s to the nearest integer, ties to even. -/
def roundC (v : Int) (s : Nat) : Int := roundDiv v (2 ^ s)

/-- sat_w (R78): v held within a w-bit two's complement range. -/
def satW (w : Nat) (v : Int) : Int := clampInt (-(2 ^ (w - 1) : Nat)) ((2 ^ (w - 1) : Nat) - 1) v

/-- The scale of the computed sines and cosines. -/
def trigOne : Int := 2 ^ 128

/-- π at that scale. -/
def trigPi : Int := 1069028584064966747859680373161870783300

/-- The alternating power series of cosine (from `t` = 1, `k` = 0) or sine (from `t` = x, `k` = 1). -/
def trigSeries (x2 : Int) (t : Int) (k n : Nat) (acc : Int) : Int :=
  match n with
  | 0 => acc
  | n + 1 => trigSeries x2 (-(t * x2 / trigOne) / ((k + 1) * (k + 2) : Nat)) (k + 2) n (acc + t)

/-- cos(πr / 2n). -/
def cosQuarter (r n : Nat) : Int :=
  if r = 0 then trigOne
  else let x := trigPi * r / (2 * n : Nat); trigSeries (x * x / trigOne) trigOne 0 24 0

/-- sin(πr / 2n). -/
def sinQuarter (r n : Nat) : Int :=
  if r = 0 then 0
  else let x := trigPi * r / (2 * n : Nat); trigSeries (x * x / trigOne) x 1 24 0

/-- cos(2πk / n). -/
def cosTurn (k : Int) (n : Nat) : Int :=
  let k4 := 4 * (k % (n : Int)).toNat
  match k4 / n with
  | 0 => cosQuarter (k4 % n) n
  | 1 => -sinQuarter (k4 % n) n
  | 2 => -cosQuarter (k4 % n) n
  | _ => sinQuarter (k4 % n) n

/-- sin(2πk / n). -/
def sinTurn (k : Int) (n : Nat) : Int :=
  let k4 := 4 * (k % (n : Int)).toNat
  match k4 / n with
  | 0 => sinQuarter (k4 % n) n
  | 1 => cosQuarter (k4 % n) n
  | 2 => -sinQuarter (k4 % n) n
  | _ => -cosQuarter (k4 % n) n

/-- m · cos(2πk/n), rounded once. -/
def cosScaled (m : Int) (k : Int) (n : Nat) : Int := roundC (m * cosTurn k n) 128

/-- m · sin(2πk/n), rounded once. -/
def sinScaled (m : Int) (k : Int) (n : Nat) : Int := roundC (m * sinTurn k n) 128

/-- g[n] of R88: the Hann window over PT points times the sinc of P. -/
def protoG (P T n : Nat) : Int :=
  let pt := P * T
  let hann := (trigOne - cosTurn (2 * n + 1 : Nat) (2 * pt)) / 2
  let m : Int := 2 * (n : Int) - (pt : Int) + 1
  let sinc := if m = 0 then trigOne else sinTurn m (4 * P) * (2 * P : Nat) * trigOne / (trigPi * m)
  hann * sinc / trigOne

/-- The sum of g over all PT entries. -/
def protoSum (P T n : Nat) : Int :=
  match n with
  | 0 => 0
  | n + 1 => protoSum P T n + protoG P T n

/-- Entry n of the factory table for P and T (R88), given the sum of g. -/
def factoryEntry (P T : Nat) (sum : Int) (n : Nat) : Int :=
  min 131071 (roundDiv (2 ^ 17 * protoG P T n * P) sum.toNat)

/-- The factory table for P and T (R88). -/
def factoryTable (P T : Nat) : List Int :=
  let sum := protoSum P T (P * T)
  (List.range (P * T)).map (factoryEntry P T sum)

/-- The bits of `b` below 2^n in reverse order. -/
def bitrev (n b : Nat) : Nat :=
  match n with
  | 0 => 0
  | n + 1 => b % 2 * 2 ^ n + bitrev n (b / 2)

end Sys2Proof.Machine
end

