-- ==== Sys2Proof/Machine/Flags.lean ====
section
/-! DEFINITION. Status bits and events: raising a source and its delivery (R363, R364), the note queues a delivery
posts to (R300), watermarks and peaks (R123, R124), and rejected writes (R366). -/

namespace Sys2Proof.Machine

/-! ## Sources -/

/-- Status of source `src` (R363). -/
def State.evtOn (s : State) (src : Nat) : Bool := bit (s.get evtStatStatus (src / 32)) (src % 32)

/-- Enable of source `src`; those of sources 0 to 7 read 1 (R364). -/
def State.evtEnabled (s : State) (src : Nat) : Bool := src ≤ 7 || bit (s.get evtEnEn (src / 32)) (src % 32)

/-- CLASS of source `src`, fixed at 0 for sources 0 to 7. -/
def State.evtClass (s : State) (src : Nat) : Nat := if src ≤ 7 then 0 else s.get evtCfgClass src

/-- TARGET of source `src`; 3 acts as 0. -/
def State.evtTarget (s : State) (src : Nat) : Nat := s.get evtCfgTarget src % 3

/-- Owner of source `src`: the owner column, or OWN for sources 448 to 511. -/
def State.evtOwn (s : State) (src : Nat) : Nat := if 448 ≤ src then s.get evtCfgOwn src else evtOwner src

/-- The sources whose status and enable are both 1, lowest first. -/
def State.evtLive (s : State) : List Nat := (List.range 512).filter fun i => s.evtOn i && s.evtEnabled i

/-- NMI_N is driven low (R364), unless a CHIP reset releases it. -/
def State.nmi (s : State) : Bool := !s.power.inReset && s.evtLive.any fun i => s.evtClass i = 0

/-- IRQ_N is driven low (R364), unless a CHIP reset releases it. -/
def State.irq (s : State) : Bool :=
  !s.power.inReset && s.evtLive.any fun i => s.evtClass i = 1 && s.evtTarget i = 0

/-- `EVT.CNDt` (R364): the lowest delivered source routed to context `t`. -/
def State.evtCnd (s : State) (t : Nat) : Option Nat :=
  (s.evtLive.filter fun i => s.evtClass i = 1 && s.evtTarget i = 2 && s.get evtCfgFn i = t).head?

/-! ## MSI-X (R364) -/

/-- The Mask bit of vector `v` of function `f`. -/
def State.msixMasked (s : State) (f v : Nat) : Bool := bit (s.get msixEntryValue f (4 * v + 3)) 0

/-- Function `f` can be sent messages at all: MSI-X Enable is set and the function is in D0. -/
def State.msixOn (s : State) (f : Nat) : Bool := s.on pciMsixEnable f && !bit s.d3hot.toNat f

/-- A message for source `src`: sent, held in the pending bit, or neither (R364). -/
def State.msixPost (s : State) (src : Nat) : State :=
  let f := s.get evtCfgFn src
  let v := s.get evtCfgVec src
  if !s.msixOn f then s
  else if s.on pciMsixMask f || s.msixMasked f v then
    if s.msiPend.contains (f, src) then s else { s with msiPend := s.msiPend ++ [(f, src)] }
  else { s with msiSent := s.msiSent ++ [(f, v)] }

/-! ## Occupancies (R123, R124) -/

/-- An occupancy crosses the level `wm` upward. -/
def crosses (wm before after : Nat) : Bool := wm ≠ 0 && before < wm && wm ≤ after

/-- A peak register follows an occupancy. -/
def State.peak (s : State) (f : RField) (occ : Nat) (i : Nat := 0) : State :=
  if s.get f i < occ then s.set f occ i else s

/-! ## Note queues (R300 to R302) -/

/-- A note queue. -/
def State.noteQ (s : State) (t : Nat) : NoteQueue := s.notes.at t {}

/-- `s` with another note queue `t`. -/
def State.setNoteQ (s : State) (t : Nat) (q : NoteQueue) : State := { s with notes := s.notes.put t q {} }

/-- The words of one note: its header and its words. -/
def Note.size (n : Note) : Nat := n.words.length + 1

/-- The words a queue holds, the open note included. -/
def NoteQueue.used (q : NoteQueue) : Nat :=
  (q.notes.map Note.size).sum + (match q.opened with | none => 0 | some (n, _) => n.size)

/-- The notes a queue holds, the open note included. -/
def NoteQueue.held (q : NoteQueue) : Nat := q.notes.length + (match q.opened with | none => 0 | some _ => 1)

/-- The note itself goes into its queue when it fits; which status bits (PRESENT 0, LOST 1, WM 2) that sets. -/
def State.noteStore (s : State) (t : Nat) (n : Note) : State × List Nat :=
  let q := s.noteQ t
  if q.used + n.size ≤ 2048 then
    let u := q.used + n.size
    let s1 := (s.setNoteQ t { q with notes := q.notes ++ [n] }).peak notePeakValue u t
    (s1, (if q.held = 0 then [0] else []) ++ (if crosses (s.get noteWmValue t) q.used u then [2] else []))
  else (s.count noteLostCount 1 t, [1])

/-- The event source of bit `b` of `NOTEt.STATUS`. -/
def noteSource (t b : Nat) : Nat := (if b = 0 then 154 else if b = 1 then 158 else 164) + t

/-! ## Raising (R363) -/

/-- A source is raised: its status bit is set, and a rising edge of status and enable delivers it. A note it posts may
raise the queue's own sources in turn; a source whose status is 1 delivers nothing, so 16 levels are enough. -/
def State.raiseFuel (s : State) (src fuel : Nat) : State :=
  match fuel with
  | 0 => s
  | fuel + 1 =>
    if !evtListed src then s
    else
      let on := s.evtOn src
      let s1 := s.setStatus evtStat (src / 32) 0 (2 ^ (src % 32))
      if on || !s.evtEnabled src then s1
      else if s1.evtClass src = 1 && s1.evtTarget src = 1 then s1.msixPost src
      else if s1.evtClass src = 2 then
        let t := s1.get evtCfgFn src
        let (s2, bs) := s1.noteStore t ⟨2, 3, [BitVec.ofNat 32 src]⟩
        bs.foldl (fun a b => (a.setStatus noteStatus t 0 (2 ^ b)).raiseFuel (noteSource t b) fuel) s2
      else s1

/-- A source is raised (R363); while a CHIP reset is asserted the event unit is held at its reset values. -/
def State.raise (s : State) (src : Nat) : State := if s.power.inReset then s else s.raiseFuel src 16

/-- A status bit is set and its source raised. -/
def State.flag (s : State) (f : RField) (src : Nat) (i : Nat := 0) (j : Nat := 0) : State :=
  (s.setW1c f i j).raise src

/-- A note is posted to queue `t` (R300). -/
def State.postNote (s : State) (t : Nat) (n : Note) : State :=
  let (s1, bs) := s.noteStore t n
  bs.foldl (fun a b => (a.setStatus noteStatus t 0 (2 ^ b)).raise (noteSource t b)) s1

/-! ## Unit status registers -/

/-- Bit `b` of a status register is set and source `src` raised. -/
def State.flagBit (s : State) (r : RegDef) (b src : Nat) (i : Nat := 0) : State :=
  (s.setStatus r i 0 (2 ^ b)).raise src

/-- Bit `b` of `INGn.STATUS`, source 64 + 8n + b (R75). -/
def State.ingFlag (s : State) (n b : Nat) : State := s.flagBit ingStatus b (64 + 8 * n + b) n

/-- Bit `b` of `RV.STATUS`, source 16 + b. -/
def State.rvFlag (s : State) (b : Nat) : State := s.flagBit rvStatus b (16 + b)

/-- Bit `b` of `THERM.STATUS`, source 32 + b. -/
def State.thermFlag (s : State) (b : Nat) : State := s.flagBit thermStatus b (32 + b)

/-- Bit `b` of `CLK.STATUS`, source b. -/
def State.clkFlag (s : State) (b : Nat) : State := s.flagBit clkStatus b b

/-- Bit `b` of `TB.STATUS`, source 168 + b. -/
def State.tbFlag (s : State) (b : Nat) : State := s.flagBit tbStatus b (168 + b)

/-- Bit `b` of `EGRp.STATUS`, source 142 + 5p + b. -/
def State.egrpFlag (s : State) (p b : Nat) : State := s.flagBit egrpStatus b (142 + 5 * p + b) p

/-- Bit `b` of `EGR.STATUS`, source 152 + b. -/
def State.egrFlag (s : State) (b : Nat) : State := s.flagBit egrStatus b (152 + b)

/-- Bit `b` of `FAB.STATUS`, source 384 + b. -/
def State.fabFlag (s : State) (b : Nat) : State := s.flagBit fabStatus b (384 + b)

/-- Bit `b` of `INT.CHIPERR`, source 424 + b. -/
def State.chipErr (s : State) (b : Nat) : State := s.flagBit intChiperr b (424 + b)

/-- Bit `b` of `RGNn.ERRSTAT`, source 192 + 48n + 8 + b. -/
def State.rgnErr (s : State) (n b : Nat) : State := s.flagBit rgnErrstat b (200 + 48 * n + b) n

/-- Region source x (R366). -/
def State.rgnRaise (s : State) (n x : Nat) : State := s.raise (192 + 48 * n + x)

/-! ## Rejected writes (R366) -/

/-- The PATH code of a requester: 0 BAR0, 1 BAR2, 2 conductor, 3 a descriptor or a block sequencer. -/
def pathCode (p : Path) : Nat :=
  match p with
  | .bar0 => 0
  | .bar2 => 1
  | .conductor => 2
  | .engine => 3
  | .config => 0

/-- A write that the manual refuses: source 48 + f, and the first is captured in `EVT.REJECTf`. -/
def State.reject (s : State) (w : Who) (addr : Nat) : State :=
  let s1 := s.raise (48 + w.fn.val)
  if s1.on evtRejectValid w.fn then s1
  else ((s1.setW1c evtRejectValid w.fn).set evtRejectPath (pathCode w.path) w.fn).set evtRejectAddr addr w.fn

end Sys2Proof.Machine
end

