-- ==== Sys2Proof/Machine/Memory.lean ====
section
/-! DEFINITION. The internal address space (R389): which memory an address names, the bytes and check bits of every
memory (R257 to R259, R267), the tables that are banked (R99, R156, R158, R171), and the logs a read may fill (R270
to R272). -/

namespace Sys2Proof.Machine

/-! ## The address map (R389) -/

/-- What an internal address reaches. The words of the ingest engine state (R99) and of the watch thresholds (R171), which
are seen through banked views, stand above the internal addresses, at `stateBase` and `limitBase`. -/
inductive MemKind where
  | dram (pc : Nat)
  | pool (r : Nat)
  | block (r b : Nat)
  | context (r b c : Nat)
  | imem (r b : Nat)
  | weights (live : Bool) (r b off : Nat)
  | thresholds (live : Bool) (r t off : Nat)
  | table (n off : Nat)
  | stream (n : Nat)
  | flows
  | templates
  | send (f : Nat)
  | cndInstr
  | cndData
  | host
  | state (n : Nat)
  | limits
  | none
  deriving DecidableEq, Repr

/-- The window of region `r`. -/
def regionBase (r : Nat) : Nat := 0x010000000000 + r * 0x1000000000

/-- The window of block `b` of region `r`. -/
def blockBase (r b : Nat) : Nat := regionBase r + 0x10000000 + b * 0x1000000

/-- Where the words of ingest engine `n`'s state stand. -/
def stateBase (n : Nat) : Nat := 2 ^ 52 + n * 0x100000000

/-- Where the word of chain `k` (its port, input and coarse channel) stands: a chain counts as one word (log entry 124). -/
def chainPlace (k : Nat) : Nat := stateBase (k / 4096) + 0x40000000 + 8 * (k % 4096)

/-- The end of the stacked DRAM: 144 GiB. -/
def dramEnd : Nat := 0x2400000000

/-- The pseudo-channel of a DRAM address (R249). -/
def dramPc (a : Nat) : Nat :=
  let g := a / 2048
  (g % 128) ^^^ (g / 128 % 128) ^^^ (g / 16384 % 128)

/-- The local granule of a DRAM address (R249). -/
def dramGranule (a : Nat) : Nat := a / 2048 / 128

/-- What lies at offset `o` of block `b`'s window. -/
def blockKind (r b o : Nat) : MemKind :=
  if o < 0x200000 then .block r b
  else if 0x800000 ≤ o ∧ o < 0x900000 then .context r b ((o - 0x800000) / 0x8000)
  else if 0xC00000 ≤ o ∧ o < 0xD00000 then .weights false r b (o - 0xC00000)
  else if 0xD00000 ≤ o ∧ o < 0xE00000 then .weights true r b (o - 0xD00000)
  else if 0xE00000 ≤ o ∧ o < 0xE10000 then .imem r b
  else .none

/-- What lies at offset `o` of region `r`'s window. -/
def regionKind (r o : Nat) : MemKind :=
  if o < 0x2000000 then .pool r
  else if 0x8000000 ≤ o ∧ o < 0x8100000 then .thresholds false r ((o - 0x8000000) / 0x40000) (o % 0x40000)
  else if 0x9000000 ≤ o ∧ o < 0x9100000 then .thresholds true r ((o - 0x9000000) / 0x40000) (o % 0x40000)
  else if 0x10000000 ≤ o ∧ o < 0x1C000000 then blockKind r ((o - 0x10000000) / 0x1000000) (o % 0x1000000)
  else .none

/-- Where the words of the watch thresholds stand. -/
def limitBase : Nat := 2 ^ 52 + 2 ^ 36

/-- What an internal address reaches. -/
def memKind (a : Nat) : MemKind :=
  if a < dramEnd then .dram (dramPc a)
  else if 0x010000000000 ≤ a ∧ a < 0x014000000000 then
    regionKind ((a - 0x010000000000) / 0x1000000000) (a % 0x1000000000)
  else if 0x018000000000 ≤ a ∧ a < 0x018800000000 then
    let o := a % 0x100000000
    let n := (a - 0x018000000000) / 0x100000000
    if o < 0x4000000 then .table n o else if o < 0x8000000 then .stream n else .none
  else if 0x019000000000 ≤ a ∧ a < 0x019000400000 then .flows
  else if 0x019000400000 ≤ a ∧ a < 0x019000480000 then .templates
  else if 0x019100000000 ≤ a ∧ a < 0x019500000000 then .send ((a - 0x019100000000) / 0x10000)
  else if 0x01A000000000 ≤ a ∧ a < 0x01A000040000 then .cndInstr
  else if 0x01A000100000 ≤ a ∧ a < 0x01A000180000 then .cndData
  else if 0x800000000000 ≤ a ∧ a < 0x1000000000000 then .host
  else if stateBase 0 ≤ a ∧ a < stateBase 8 then .state ((a - stateBase 0) / 0x100000000)
  else if limitBase ≤ a ∧ a < limitBase + 0x800000 then .limits
  else .none

/-! ## Plain bytes and marks -/

/-- The byte at an internal address; a byte nothing has written reads 0. -/
def State.byte (s : State) (a : Nat) : Byte := Sparse.at s.mem a 0

/-- `n` bytes from an internal address on. -/
def State.bytes (s : State) (a n : Nat) : List Byte :=
  match n with
  | 0 => []
  | n + 1 => s.byte a :: s.bytes (a + 1) n

/-- The address lies in what the weight banks occupy (R156): the upper 1 MiB of a block SRAM, or a context memory. -/
def inBanks (a : Nat) : Option Nat :=
  match memKind a with
  | .block r _ => if 0x100000 ≤ a % 0x1000000 then some r else none
  | .context r _ _ => some r
  | _ => none

/-- The check-bit state of the word that holds an address (R258, R267): the tables that the N2048 fills are clean then
(R268). -/
def State.mark (s : State) (a : Nat) : Mark :=
  match s.marks.at (a / 8) none with
  | some m => m
  | none =>
    match memKind a with
    | .host | .state _ | .limits => .clean
    | _ => match inBanks a with
      | some r => if bit s.weighted.toNat r then .clean else .unwritten
      | none => .unwritten

/-- The key of the written bit that covers an address (R267): a 2 KB granule of DRAM or a 64-byte line of an SRAM. -/
def lineKey (a : Nat) : Nat := if a < dramEnd then a / 2048 else dramEnd + a / 64

/-- A sorted list of keys with one more. -/
def insertKey (l : List Nat) (k : Nat) : List Nat :=
  match l with
  | [] => [k]
  | x :: r => if x < k then x :: insertKey r k else if x = k then x :: r else k :: x :: r

/-- The bytes alone are stored. -/
def State.putBytes (s : State) (a : Nat) (d : List Byte) : State :=
  match d with
  | [] => s
  | b :: r => State.putBytes { s with mem := Sparse.put s.mem a b 0 } (a + 1) r

/-- The state of a word after a write that covers `all` of it or part of it (R258). -/
def Mark.merge (m : Mark) (all : Bool) : Mark :=
  if all then .clean
  else match m with
    | .clean | .correctable => .clean
    | .poison => .poison
    | .unwritten => .unwritten
    | .uncorrectable => .poison

/-- The mark of one word is set, and its line counts as written; host memory holds no marks. -/
def State.setMark (s : State) (w : Nat) (m : Mark) : State :=
  if memKind (8 * w) = .host then s
  else { s with marks := s.marks.put w (some m) none, lines := insertKey s.lines (lineKey (8 * w)) }

/-- The words from address `a` on that a write of `n` bytes touches, with whether it covers each whole. -/
def touched (a n : Nat) : List (Nat × Bool) :=
  if n = 0 then []
  else (List.range ((a + n - 1) / 8 - a / 8 + 1)).map fun i =>
    let w := a / 8 + i
    (w, decide (a ≤ 8 * w ∧ 8 * w + 8 ≤ a + n))

/-- Bytes are written to a memory, words keeping or losing their marks as R258 lays down. -/
def State.store (s : State) (a : Nat) (d : List Byte) : State :=
  (touched a d.length).foldl (fun t w => t.setMark w.1 ((s.mark (8 * w.1)).merge w.2)) (s.putBytes a d)

/-- The words of `n` bytes from `a` on are made to carry POISON. -/
def State.poison (s : State) (a n : Nat) : State :=
  (touched a n).foldl (fun t w => t.setMark w.1 .poison) s

/-- The contents of the memories whose addresses satisfy `p` are lost, their written bits cleared (R267, R351). -/
def State.lose (s : State) (p : Nat → Bool) : State :=
  { s with
    mem := Sparse.drop s.mem p
    marks := Sparse.drop s.marks fun w => p (8 * w)
    lines := s.lines.filter fun k => !p (if k < dramEnd then 2048 * k else 64 * (k - dramEnd)) }

/-! ## Banked tables -/

/-- P of the active channelisation (R79). -/
def State.chanP (s : State) : Nat := 16 * 2 ^ min (s.get feCfgPSel) 4

/-- The chip runs at 8+8 bits: the format all ports share (R59). -/
def State.wide (s : State) : Bool := s.on tickStatusFmt

/-- The tap count T (R84). -/
def State.taps (s : State) : Nat := if s.on feCfgTaps then 8 else 4

/-- The inputs of a port: 256 at 4+4 bits, 128 at 8+8 bits. -/
def State.portInputs (s : State) : Nat := if s.wide then 128 else 256

/-- L, the fine samples of a frame per channel (R20). -/
def State.lenL (s : State) : Nat := 1024 * 2 ^ s.get tickCtrlLSel

/-- Which bank of a shadowed table is live. -/
def State.liveBank (s : State) (t : Table) : Nat := b2n (s.tick.live.contains t)

/-- Which weight bank of block 12r + b is live. -/
def State.liveWeights (s : State) (blk : Nat) : Nat := b2n (bit s.tick.liveBw.toNat blk)

/-- The tenancy that owns block 12r + b: 0 unless a record gives it to another (R19). -/
def State.blockTen (s : State) (blk : Nat) : Nat :=
  if bit (s.get tenBlocksMask 1) blk then 1
  else if bit (s.get tenBlocksMask 2) blk then 2
  else if bit (s.get tenBlocksMask 3) blk then 3
  else 0

/-- The inputs a beam block handles (R157). -/
def State.beamInputs (s : State) (r b : Nat) : Nat := s.portInputs * (s.get blkBeamNgm1 r b + 1)

/-- WDIV of a beam block (R157); WDLOG2 of 9 to 15 acts as 8. -/
def State.beamWdiv (s : State) (r b : Nat) : Nat := 2 ^ min 8 (s.get blkBeamWdlog2 r b)

/-- The bytes of a block's weight view that are assigned (R157). -/
def State.weightBytes (s : State) (r b : Nat) : Nat :=
  if s.on blkBeamEn r b then
    (s.get blkBeamNbm1 r b + 1) * s.beamInputs r b * max 1 (4 * s.chanP / s.beamWdiv r b) * 2
  else 0

/-- Where byte `o` of a weight bank lies (R156). -/
def weightAddr (r b bank o : Nat) : Nat :=
  if o < 524288 then blockBase r b + 0x100000 + bank * 0x80000 + o
  else blockBase r b + 0x800000 + (o - 524288) / 16384 * 0x8000 + bank * 16384 + (o - 524288) % 16384

/-- A word of the front-end tables (R99): which store holds it, its key, and its default; none for an offset that
holds nothing. -/
inductive TableWord where
  | coef (key : Nat)
  | gain (key : Nat)
  | poly (key : Nat)
  | snap (key : Nat)
  deriving DecidableEq, Repr

/-- The table word at offset `o` of engine `n`, in the live or the inactive bank the offset names. -/
def State.tableWord (s : State) (n o : Nat) : Option TableWord :=
  if o < 0x2000 then some (.coef (2048 * n + o / 4))
  else if 0x10000 ≤ o ∧ o < 0x11000 then some (.snap (1024 * n + (o - 0x10000) / 4))
  else if 0x1000000 ≤ o ∧ o < 0x1400000 then gainKey (1 - s.liveBank .eq) ((o - 0x1000000) / 4)
  else if 0x2000000 ≤ o ∧ o < 0x2400000 then gainKey (s.liveBank .eq) ((o - 0x2000000) / 4)
  else if 0x3000000 ≤ o ∧ o < 0x3002000 then polyKey (1 - s.liveBank .dly) ((o - 0x3000000) / 4)
  else if 0x3800000 ≤ o ∧ o < 0x3802000 then polyKey (s.liveBank .dly) ((o - 0x3800000) / 4)
  else none
where
  /-- A gain entry, when the channel and the input are in use. -/
  gainKey (bank e : Nat) : Option TableWord :=
    if e % 4096 < 16 * s.chanP ∧ e / 4096 < s.portInputs then some (.gain ((bank * 8 + n) * 1048576 + e)) else none
  /-- A polynomial word, when the input is in use. -/
  polyKey (bank e : Nat) : Option TableWord :=
    if e / 8 < s.portInputs then some (.poly ((bank * 8 + n) * 2048 + e)) else none

/-- The value of a counter snapshot word: SPIKE, FLAGIN, REQSAT, 0 (R99). -/
def State.snapWord (s : State) (key : Nat) : Nat :=
  if key % 4 = 3 then 0 else s.snapshot.at (3 * (256 * (key / 1024) + key % 1024 / 4) + key % 4) 0

/-- The value of a front-end table word. -/
def State.tableVal (s : State) (w : TableWord) : Nat :=
  match w with
  | .coef k => s.coef.at k 0 % 2 ^ 18
  | .gain k => s.gain.at k 0x2000
  | .poly k => s.poly.at k 0
  | .snap k => s.snapWord k

/-- Where the word of a front-end table stands; the counter snapshot (R96) has none. -/
def TableWord.place (w : TableWord) : Option Nat :=
  match w with
  | .coef k => some (stateBase (k / 2048) + 4 * (k % 2048))
  | .gain k => some (stateBase (k / 1048576 % 8) + 0x1000000 * (1 + k / 8388608) + 4 * (k % 1048576))
  | .poly k => some (stateBase (k / 2048 % 8) + 0x3000000 + 0x800000 * (k / 16384) + 4 * (k % 2048))
  | .snap _ => none

/-- The key under which an entry of the gain and polynomial banks counts as bad (R265). -/
def TableWord.badKey (w : TableWord) : Option Nat :=
  match w with
  | .gain k => some k
  | .poly k => some (2 ^ 40 + k)
  | _ => none

/-- The key of a watch threshold (R171). -/
def thrKey (bank r t e : Nat) : Nat := ((bank * 4 + r) * 4 + t) * 65536 + e

/-- The threshold of entry `e` of tenancy `t` in region `r`. -/
def State.threshold (s : State) (bank r t e : Nat) : Nat := s.thr.at (thrKey bank r t e) 0xFFFFFFFF

/-- The byte an internal address shows, the banked views included. -/
def State.viewByte (s : State) (a : Nat) : Byte :=
  match memKind a with
  | .weights live r b o =>
    if o < s.weightBytes r b then
      let bank := s.liveWeights (12 * r + b)
      s.byte (weightAddr r b (if live then bank else 1 - bank) o)
    else 0
  | .thresholds live r t o =>
    let bank := s.liveBank (.wt t)
    BitVec.ofNat 8 (s.threshold (if live then bank else 1 - bank) r t (o / 4) / 256 ^ (o % 4))
  | .table n o =>
    match s.tableWord n o with
    | some w => BitVec.ofNat 8 (s.tableVal w / 256 ^ (o % 4))
    | none =>
      if 0x4000 ≤ o ∧ o < 0x6000 ∧ (o - 0x4000) / 4 < s.chanP * s.taps then
        BitVec.ofNat 8 (toBits 18 (nth (factoryTable s.chanP s.taps) ((o - 0x4000) / 4) 0) / 256 ^ (o % 4))
      else 0
  | _ => s.byte a

/-- Where the byte behind an internal address is stored: in the bank that a view shows, or at the address itself; none where
nothing is stored. -/
def State.behind (s : State) (a : Nat) : Option Nat :=
  match memKind a with
  | .weights live r b o =>
    let bank := s.liveWeights (12 * r + b)
    if o < s.weightBytes r b then some (weightAddr r b (if live then bank else 1 - bank) o) else none
  | .thresholds live r t o =>
    let bank := s.liveBank (.wt t)
    some (limitBase + 4 * thrKey (if live then bank else 1 - bank) r t (o / 4) + o % 4)
  | .table n o => ((s.tableWord n o).bind TableWord.place).map fun x => x + o % 4
  | .stream _ | .send _ | .none => none
  | _ => some a

/-- The words behind `n` bytes from an internal address on, each once. -/
def State.wordsBehind (s : State) (a n : Nat) : List Nat :=
  match n with
  | 0 => []
  | n + 1 => match s.behind (a + n) with
    | some x => insertKey (s.wordsBehind a n) (x / 8)
    | none => s.wordsBehind a n

/-- The internal address at which a word is seen (R271). -/
def State.locOf (s : State) (a : Nat) : Nat :=
  let view := fun (bank live shown hidden : Nat) => if bank = live then shown else hidden
  match memKind a with
  | .state n =>
    let o := a % 0x100000000
    if 0x40000000 ≤ o then (Config.stateLoc (4096 * n + (o - 0x40000000) / 8)).toNat
    else 0x018000000000 + n * 0x100000000 +
      (if o < 0x1000000 then o
       else if o < 0x3000000 then
         o % 0x1000000 + view (o / 0x1000000 - 1) (s.liveBank .eq) 0x2000000 0x1000000
       else o % 0x800000 + view ((o - 0x3000000) / 0x800000) (s.liveBank .dly) 0x3800000 0x3000000)
  | .limits =>
    let e := (a - limitBase) / 4
    regionBase (e / 262144 % 4) + view (e / 1048576) (s.liveBank (.wt (e / 65536 % 4))) 0x9000000 0x8000000
      + e / 65536 % 4 * 0x40000 + 4 * (e % 65536)
  | _ => a

/-- One byte of a 4-byte word replaced. -/
def putByte (v i : Nat) (x : Byte) : Nat := setBits v (8 * i + 7) (8 * i) x.toNat

/-- One byte written through a banked view into the bank it names; other addresses are left. -/
def State.putView (s : State) (a : Nat) (x : Byte) : State :=
  match memKind a with
  | .thresholds _ r t o =>
    let k := thrKey (1 - s.liveBank (.wt t)) r t (o / 4)
    { s with thr := s.thr.put k (putByte (s.thr.at k 0xFFFFFFFF) (o % 4) x) 0xFFFFFFFF }
  | .table n o =>
    match s.tableWord n o with
    | some (.coef k) => { s with coef := s.coef.put k (putByte (s.coef.at k 0) (o % 4) x) 0 }
    | some (.gain k) => { s with gain := s.gain.put k (putByte (s.gain.at k 0x2000) (o % 4) x) 0x2000 }
    | some (.poly k) => { s with poly := s.poly.put k (putByte (s.poly.at k 0) (o % 4) x) 0 }
    | _ => s
  | _ => s

/-- Some bytes of one 8-byte word written through a view, byte by byte. -/
def State.putViewBytes (s : State) (a : Nat) (d : List Byte) : State :=
  match d with
  | [] => s
  | x :: r => (s.putView a x).putViewBytes (a + 1) r

/-- The word behind `n` bytes at `a` takes its mark of a write that covers those bytes (R258), and a 4-byte entry written
whole is no longer bad (R265). -/
def State.touchView (s : State) (a n : Nat) : State :=
  let s1 := match s.behind a with
    | some x => s.setMark (x / 8) ((s.mark x).merge (decide (n = 8)))
    | none => s
  let keys := (List.range n).filterMap fun i =>
    match memKind (a + i) with
    | .table m o => if o % 4 = 0 ∧ i + 4 ≤ n then (s.tableWord m o).bind TableWord.badKey else none
    | _ => none
  { s1 with badGain := s1.badGain.filter fun b => !keys.contains b }

/-- Bytes written through a banked view, word by word (R158, R258). -/
def State.putViewsFuel (s : State) (a : Nat) (d : List Byte) (fuel : Nat) : State :=
  match fuel, d with
  | 0, _ => s
  | _, [] => s
  | fuel + 1, d =>
    let n := 8 - a % 8
    let l := d.take n
    let s1 := match memKind a with
      | .weights _ _ _ _ => (match s.behind a with | some x => s.store x l | none => s)
      | _ => (s.putViewBytes a l).touchView a l.length
    s1.putViewsFuel (a + n) (d.drop n) fuel

/-- Bytes written through a banked view. -/
def State.putViews (s : State) (a : Nat) (d : List Byte) : State := s.putViewsFuel a d d.length

/-- The address names a banked view or a front-end table, not a plain memory. -/
def isView (a : Nat) : Bool :=
  match memKind a with
  | .weights _ _ _ _ | .thresholds _ _ _ _ | .table _ _ => true
  | _ => false

/-- `n` bytes as an internal address shows them. -/
def State.viewBytes (s : State) (a n : Nat) : List Byte :=
  match n with
  | 0 => []
  | n + 1 => s.viewByte a :: s.viewBytes (a + 1) n

/-- Bytes written at an internal address, plain memory or view. -/
def State.write (s : State) (a : Nat) (d : List Byte) : State :=
  if isView a then s.putViews a d else s.store a d

/-! ## Logs (R270 to R272) -/

/-- The level at which a memory reports: 1 for a block's memories, 2 for a pool, 3 for every other (R270). -/
def memLevel (k : MemKind) : Nat :=
  match k with
  | .block _ _ | .context _ _ _ | .imem _ _ => 1
  | .pool _ => 2
  | _ => 3

/-- The lowest entry of log `l` that satisfies `p`, among `n` from `e` on. -/
def State.findLog (s : State) (l : Nat) (p : Option LogEntry → Bool) (e n : Nat) : Option Nat :=
  match n with
  | 0 => none
  | n + 1 => if p (s.logs.at (256 * l + e) none) then some e else s.findLog l p (e + 1) n

/-- An event makes or updates an entry of log `l` (R270). -/
def State.log (s : State) (l loc kind syn : Nat) (scrub : Bool := false) : State :=
  let now := BitVec.ofNat 64 s.todStamp
  match s.findLog l (fun o => match o with | some x => x.loc = loc && x.kind = kind | none => false) 0 256 with
  | some e =>
    let upd := (s.logs.at (256 * l + e) none).map fun x => { x with count := min (x.count + 1) 65535, last := now }
    { s with logs := s.logs.put (256 * l + e) upd none }
  | none =>
    match s.findLog l (fun o => o.isNone) 0 256 with
    | some e =>
      let ent : LogEntry := ⟨loc, kind, syn, 1, scrub, s.frame % 2 ^ 32, now, now⟩
      (({ s with logs := s.logs.put (256 * l + e) (some ent) none }).count intLogStatCount 1 l).chipErr 9
    | none => (s.count intLogStatOvf 1 l).chipErr 10

/-- `INT.FIRSTl` captures the first error of its level (R272). -/
def State.first (s : State) (l loc kind : Nat) : State :=
  if s.on intFirstValid l then s
  else ((s.setW1c intFirstValid l).set intFirstKind kind l).set intFirstLoc loc l

/-- An error of kind `kind` is captured and logged. -/
def State.error (s : State) (l loc kind syn : Nat) (scrub : Bool := false) : State :=
  (s.first l loc kind).log l loc kind syn scrub

/-- The status bit that an error of a memory sets (R274): `ce` 0 for a correctable error, 1 for an uncorrectable one,
2 for an unwritten read. -/
def State.eccFlag (s : State) (k : MemKind) (e : Nat) : State :=
  match k with
  | .block r _ | .context r _ _ => s.rgnErr r (if e = 2 then 7 else 2 + e)
  | .imem r _ => s.rgnErr r (if e = 2 then 7 else 4)
  | .pool r => s.rgnErr r (if e = 2 then 7 else e)
  | .dram _ => s.chipErr (if e = 2 then 4 else e)
  | _ => s.chipErr (if e = 2 then 4 else 2 + e)

/-- A correctable error at the word of address `a` is counted, captured, logged when the address is among the level's
32 latest, and queued for write-back (R259, R270). -/
def State.correctableAt (s : State) (a : Nat) : State :=
  let k := memKind a
  let l := memLevel k
  let w := a / 8 * 8
  let recent := s.ceRecent.at l []
  let s1 := ((s.count intCecntCount 1 l).eccFlag k 0).first l (s.locOf w) 0
  let s2 := if recent.contains w then (s1.log l (s.locOf w) 1 (Config.freeSyndrome s1.fresh).toNat).drawn else s1
  { s2 with
    ceRecent := s2.ceRecent.put l ((w :: recent.filter fun x => x ≠ w).take 32) []
    corrections := insertKey s2.corrections w }

/-- One word is read: whether it draws POISON, and what the read logs (R258, R259, R267, R270). -/
def State.readWord (s : State) (a : Nat) : State × Bool :=
  let w := a / 8 * 8
  match s.mark a with
  | .clean => (s, false)
  | .correctable => (s.correctableAt a, false)
  | .poison => (s, true)
  | .unwritten => ((s.eccFlag (memKind a) 2).error (memLevel (memKind a)) (s.locOf w) 3 0xF0, true)
  | .uncorrectable =>
    (((s.eccFlag (memKind a) 1).error (memLevel (memKind a)) (s.locOf w) 2 (Config.freeSyndrome s.fresh).toNat).drawn, true)

/-- The words from address `lo` to `hi` whose check bits are a mark or in error. -/
def State.markedIn (s : State) (lo hi : Nat) : List Nat :=
  (s.marks.filter fun e => decide (lo ≤ 8 * e.1 ∧ 8 * e.1 < hi) && e.2 != some .clean).map (·.1)

/-- Words are read: which of them drew POISON. -/
def State.readWordList (s : State) (l : List Nat) : State × List Nat :=
  l.foldl (fun (t : State × List Nat) w =>
    let (t', bad) := t.1.readWord (8 * w)
    (t', if bad then t.2 ++ [w] else t.2)) (s, [])

/-- The words of `n` bytes of a plain memory from `a` on are read: which of them drew POISON. -/
def State.readWords (s : State) (a n : Nat) : State × List Nat := s.readWordList ((touched a n).map (·.1))

/-- The bytes that an internal address shows are read, through the words behind them: each with whether its word drew
POISON (R258, R259, R267). -/
def State.readBytes (s : State) (a n : Nat) : State × List (Byte × Bool) :=
  let (t, bad) := s.readWordList (s.wordsBehind a n)
  (t, (List.range n).map fun i =>
    (s.viewByte (a + i), match s.behind (a + i) with | some x => bad.contains (x / 8) | none => false))

/-- The number of correctable words behind `n` bytes from `a` on. -/
def State.correctableIn (s : State) (a n : Nat) : Nat :=
  ((s.wordsBehind a n).filter fun w => s.mark (8 * w) = .correctable).length

/-- The words behind the bytes from `a` on that are marked true take POISON (R110); an entry of the gain and polynomial
banks in such a word is bad until it is written (R265). -/
def State.spoil (s : State) (a : Nat) (l : List Bool) : State :=
  (List.range l.length).foldl (fun t i =>
    if !nth l i false then t
    else match t.behind (a + i) with
      | none => t
      | some x =>
        let keys := (List.range 8).filterMap fun j =>
          match memKind (a + i - (a + i) % 8 + j) with
          | .table n o => (t.tableWord n o).bind TableWord.badKey
          | _ => none
        { t.setMark (x / 8) .poison with badGain := keys.foldl insertKey t.badGain }) s

/-! ## What a pseudo-channel answers (R252, R255) -/

/-- A request is served, answered with TERR, or held. -/
inductive Service where
  | served | terr | held
  deriving DecidableEq, Repr

/-- What a controller in state `st` does with a request: UNTRAINED gives TERR, TRAINING and the self-refresh states
hold it. -/
def serviceOf (st : Nat) : Service := if st = 0 then .terr else if st = 2 then .served else .held

/-- The clock-gated units (R324) an address belongs to: block 12n + b, region 48 + n, ingest engine 52 + n. -/
def gateUnits (a : Nat) : List Nat :=
  match memKind a with
  | .pool r | .thresholds _ r _ _ => [48 + r]
  | .block r b | .context r b _ | .imem r b | .weights _ r b _ => [12 * r + b, 48 + r]
  | .table n _ | .stream n | .state n => [52 + n]
  | .limits => [48 + (a - limitBase) / 1048576 % 4]
  | _ => []

/-- What the memory at an address does with a request: TERR from a gated unit (R324) and from a tower whose controllers
run on FIO (R321), and from host memory whose link was lost (R354); a granule under retirement holds its requests (R256); otherwise as its controller's state lays down. -/
def State.service (s : State) (a : Nat) : Service :=
  match memKind a with
  | .dram pc =>
    if bit (s.get clkSrcMem) (pc / 32) then .terr
    else match (s.ctls.at pc {}).copy with
      | some (g, _) => if dramGranule a = g then .held else serviceOf (s.get mcStatState pc)
      | none => serviceOf (s.get mcStatState pc)
  | .host => if s.hostCut then .terr else .served
  | _ => if (gateUnits a).any fun u => bit (s.get clkGatedMask) u then .terr else .served

/-- The granule-sized pieces of `n` bytes from `a` on. -/
def pieces (a n : Nat) : List Nat :=
  if n = 0 then [] else (List.range ((a + n - 1) / 2048 - a / 2048 + 1)).map fun i => max a ((a / 2048 + i) * 2048)

/-- Some piece of the range is held by its controller. -/
def State.rangeHeld (s : State) (a n : Nat) : Bool := (pieces a n).any fun p => s.service p = .held

/-- Some piece of the range draws TERR. -/
def State.rangeTerr (s : State) (a n : Nat) : Bool := (pieces a n).any fun p => s.service p = .terr

/-- Source 407 when a range reaches an UNTRAINED pseudo-channel (R252). -/
def State.untrained (s : State) (a n : Nat) : State :=
  if (pieces a n).any fun p => match memKind p with | .dram pc => s.get mcStatState pc = 0 | _ => false then s.raise 407
  else s

end Sys2Proof.Machine
end

