-- ==== Sys2Proof/Machine/Time.lean ====
section
/-! DEFINITION. The passing of time: the core cycle counter, the time of day (R298, R304) and the region time counters
(R299). -/

namespace Sys2Proof.Machine

/-- The increment of the accumulator per control cycle, in 10^-24 s: 3.2 ns steered by `TB.FREQ` (R304). -/
def State.todStep (s : State) : Nat := (3200000000000000 + 3200 * s.getInt tbFreqValue).toNat

/-- The seconds advance by one; a waiting SETSEC load acts instead and raises source 163 (R298). -/
def State.secondCarry (s : State) : State :=
  match s.tb.load with
  | some v => ({ s with tb := { s.tb with sec := v, load := none } }).raise 163
  | none => { s with tb := { s.tb with sec := (s.tb.sec + 1) % 2 ^ 48 } }

/-- `n` further carries, the first of which may load. -/
def State.carries (s : State) (n : Nat) : State :=
  match n with
  | 0 => s
  | 1 => s.secondCarry
  | n + 2 => let t := s.secondCarry; { t with tb := { t.tb with sec := (t.tb.sec + n + 1) % 2 ^ 48 } }

/-- A phase step in 10^-24 s as `TB.PSTEP_REM` shows it: whole picoseconds, rounded away from zero. -/
def stepPs (u : Int) : Int :=
  let m := (u.natAbs + 999999999999) / 1000000000000
  if u < 0 then -(m : Int) else m

/-- A signed 32-bit register that holds at its limits. -/
def State.setSat (s : State) (f : RField) (v : Int) (i : Nat := 0) : State :=
  s.setInt f (clampInt (-2147483648) 2147483647 v) i

/-- A phase step has been applied down to `rest` (R314): every POFS, and every held POFS, falls by what was applied;
at 0 `TB.STATUS.PSTEP_DONE` is set. -/
def State.stepped (s : State) (rest : Int) : State :=
  let d := stepPs s.tb.step - stepPs rest
  let s1 := (List.range 3).foldl (fun a x => a.setSat tbRefPofsPs (a.getInt tbRefPofsPs x - d) x) s
  let s2 := { s1 with tb := { s1.tb with step := rest, held := s1.tb.held - d
                                         target := s1.tb.target.map fun (t : Nat × Int) => (t.1, t.2 - d) } }
  let s3 := s2.setInt tbPstepRemRem (stepPs rest)
  if rest = 0 then s3.tbFlag 4 else s3

/-- The control cycles in which the timebase counts `u` units of 10^-24 s from now, rounded up: a remaining phase step is
applied at 1 ns per second meanwhile (R304, R314). Negative where they have passed. -/
def State.cyclesFor (s : State) (u : Int) : Int :=
  let up := fun (x : Int) (r : Nat) => -((-x) / (r : Int))
  let d := clampInt (-3200000) 3200000 s.tb.step
  let n := up u ((s.todStep : Int) - d).toNat
  let m := up (u + s.tb.step) s.todStep
  if 0 ≤ s.tb.step then min n m else max n m

/-- The accumulator takes `n` control cycles: a remaining phase step is applied at 1 ns per second (R314). -/
def State.runTod (s : State) (n : Nat) : State :=
  let d := clampInt (-(3200000 * n : Nat)) (3200000 * n : Nat) s.tb.step
  let a := (((s.tb.acc + n * s.todStep : Nat) : Int) - d).toNat
  let s0 := { s with tick := { s.tick with passed := s.tick.passed + (a - s.tb.acc) } }
  let s1 := if d = 0 then s0 else s0.stepped (s.tb.step - d)
  ({ s1 with tb := { s1.tb with acc := a % secondUnits } }).carries (a / secondUnits)

/-- TOD as nanoseconds modulo 2^48. -/
def State.todMod (s : State) : Nat := (s.tb.sec * 10 ^ 9 + s.todNs) % 2 ^ 48

/-- Region `r`'s counter takes `n` fabric cycles; while it waits for the TOD it adds nothing (R299). -/
def State.runRegion (s : State) (n r : Nat) : State :=
  if bit s.nsHold.toNat r then
    let ahead := (s.get rgnNsNs r + 2 ^ 48 - s.todMod) % 2 ^ 48
    if ahead = 0 ∨ 2 ^ 47 ≤ ahead then { s with nsHold := s.nsHold &&& ~~~(1#4 <<< r) } else s
  else s.setReg rgnNs r 0 ((s.reg rgnNs r 0 + n * s.get rgnNsIncInc r) % 2 ^ 64)

/-! ## Commits (R34, R208) -/

/-- The swap of a table is committed (R34): before the seal point for the next FT, merging with one already pending;
from the seal point on for the FT after, with source 130. -/
def State.commit (s : State) (t : Table) : State :=
  let add := fun (l : List Table) => if l.contains t then l else l ++ [t]
  if s.on tickStatusSealed then
    ({ s with tick := { s.tick with swapThen := add s.tick.swapThen } }).raise 130
  else { s with tick := { s.tick with swapNext := add s.tick.swapNext } }

/-- A tenancy commits the tables that the bits of `TICK.COMMIT` name, as far as it may (R37). -/
def State.commitBits (s : State) (t v : Nat) : State :=
  let s := if bit v 0 && t = 0 then s.commit .eq else s
  let s := if bit v 1 && t = 0 then s.commit .dly else s
  let s := if bit v 2 then s.commit (.bw t) else s
  if bit v 3 then s.commit (.wt t) else s

/-- The tick unit accepts the SYS.COMMITs whose time has come (R208). -/
def State.takeCommits (s : State) : State :=
  let due := fun (c : SysCommit) => decide (c.due ≤ s.cycle)
  (s.commits.filter due).foldl (fun a c => a.commitBits c.ctx c.bits) { s with commits := s.commits.filter fun c => !due c }

/-! ## The passing of core cycles -/

/-- `n` core cycles pass. While a CHIP reset is asserted, the time of day holds (R298); in STANDBY the regions stand
still (R350). -/
def State.elapse (s : State) (n : Nat) : State :=
  if s.power.inReset then s
  else
    let t := s.runTod ((s.cycle + n) / 4 - s.cycle / 4)
    let f := (s.cycle + n) / 2 - s.cycle / 2
    let t := if f = 0 || s.get pwrStateState = 2 then t else (((t.runRegion f 0).runRegion f 1).runRegion f 2).runRegion f 3
    ({ t with cycle := s.cycle + n } : State).takeCommits

/-- Time passes until core cycle `c`, if it is still to come. -/
def State.elapseTo (s : State) (c : Nat) : State := s.elapse (c - s.cycle)

/-- At an FT each region counter is set forward to the TOD, or waits for it (R299). -/
def State.resyncRegion (s : State) (r : Nat) : State :=
  let err : Int := sext 48 (s.todMod + 2 ^ 48 - s.get rgnNsNs r)
  let s1 := s.setInt rgnNsErrErr (clampInt (-2147483648) 2147483647 err) r
  if 0 < err then { s1.setReg rgnNs r 0 (s.todMod * 65536) with nsHold := s1.nsHold &&& ~~~(1#4 <<< r) }
  else if err < 0 then { s1 with nsHold := s1.nsHold ||| (1#4 <<< r) }
  else s1

/-- TOD_SECOND_CARRY (R298): time passes until the nanoseconds reach 10^9 and carry into the seconds. -/
def execTodSecondCarry (s : State) : Result :=
  .next (s.elapseTo (4 * (s.cycle / 4 + (s.cyclesFor ((secondUnits : Int) - s.tb.acc)).toNat)))

end Sys2Proof.Machine
end

