-- ==== Sys2Proof/Machine/Operands.lean ====
section
/-! DEFINITION. Who may reach what: the writer's tenancy, the rights of R359, the windows a power state leaves reachable
(R350), and the offsets behind BAR0 (R355). -/

namespace Sys2Proof.Machine

/-- The power state (R349): 0 RUN, 1 IDLE, 2 STANDBY, 3 DORMANT. -/
def State.pwr (s : State) : Nat := s.get pwrStateState

/-- The windows that stay reachable in STANDBY (R350): Chip, Timebase, Reeves and Peat, and the event unit. -/
def standbyWindow (off : Nat) : Bool :=
  off < 0x100000 || (0x200000 ≤ off && off < 0x400000) || (0x400000 ≤ off && off < 0x500000) || 2 ^ 32 ≤ off

/-- A tenancy is assigned; tenancy 0 always is (R19). -/
def State.assigned (s : State) (f : Nat) : Bool := f = 0 || s.on tenStateAssigned f

/-- Something with this number reaches the registers at all: no CHIP reset is asserted, the chip is powered, the window
answers in this power state, and a host function is in D0 (R348, R349, R350, R353). -/
def State.reachable (s : State) (w : Who) (off : Nat) : Bool :=
  !s.power.inReset && s.pwr ≠ 3 && (s.pwr ≠ 2 || standbyWindow off)
    && !(w.path = .bar0 && bit s.d3hot.toNat w.fn)

/-- A function whose tenancy is not assigned reaches only identification and its own host registers (R359). -/
def State.admitted (s : State) (w : Who) (off : Nat) : Bool :=
  w.path ≠ .bar0 || s.assigned w.fn || off < 0x10 || off / 2 ^ 32 = w.fn.val + 1

/-- The window behind the peripheral bridge (R13, R234): reeves, Peat store, PMBus, GPIO, timers and fuses. -/
def bridgeWindow (off : Nat) : Bool := 0x300000 ≤ off && off < 0x400000

/-- The peripheral at `off` leaves this transaction unanswered (R234). -/
def State.unanswered (s : State) (off : Nat) : Bool := s.silent && bridgeWindow off

/-- A write with right `ok` to the register at `off`: lost where nothing answers or the peripheral leaves it unanswered
(R234); refused with the rejected-write event for a function without a tenancy (R359); performed; or ignored where the
maps give the writer no more than reading (R7, R359). -/
def State.guarded (s : State) (w : Who) (off : Nat) (ok : Bool) (f : State → State) : State :=
  if !s.reachable w off then s
  else if s.unanswered off then { s with silent := false }
  else if !s.admitted w off then s.reject w off
  else if ok then f s else s

/-- A write only function 0 may make (R359). -/
def State.guarded0 (s : State) (w : Who) (off : Nat) (f : State → State) : State := s.guarded w off (w.fn = 0) f

/-- The window offset behind BAR0 offset `off` of a function (R355); pages above 0x13 hold nothing. -/
def State.bar0Offset (s : State) (fn off : Nat) : Nat :=
  if off < 0x3000000 then off else s.get hostPagePage fn * 0x1000000 + (off - 0x3000000)

/-- The banked registers of a function: host registers, and its MSI-X table (R355, R364). -/
def bankedOffset (fn off : Nat) : Nat :=
  if (0x3000 ≤ off ∧ off < 0x3020) ∨ (0x408000 ≤ off ∧ off < 0x40A000) then (fn + 1) * 2 ^ 32 + off else off

/-- The key under which a requester's offset is looked up: BAR0 through the page, the banks by function. -/
def State.regKey (s : State) (w : Who) (off : Nat) : Nat :=
  match w.path with
  | .bar0 => bankedOffset w.fn (s.bar0Offset w.fn off)
  | _ => bankedOffset w.fn off

end Sys2Proof.Machine
end

