-- ==== Sys2Proof/Machine/Ingest.lean ====
section
/-! DEFINITION. Ingest ports (R46 to R75): lane and port states, drains, cable and button, PRBS, the checks of an
ingest packet, and the stages that run on coarse samples: DC blocker and spike rank filter (R76 to R83). -/

namespace Sys2Proof.Machine

/-! ## Frames and counters (R20) -/

/-- Coarse samples of a frame. -/
def State.frameLen (s : State) : Nat := s.lenL * s.chanP

/-- How many frame numbers there are before they wrap. -/
def State.frameMod (s : State) : Nat := 2 ^ 48 / s.frameLen

/-- The frame of a COUNTER value. -/
def State.frameOf (s : State) (c : Nat) : Nat := (c + 2 ^ 48 - s.get tickEpochEpoch) % 2 ^ 48 / s.frameLen

/-- S_k: the COUNTER of the first sample of frame `k`. -/
def State.frameStart (s : State) (k : Nat) : Nat := (s.get tickEpochEpoch + k * s.frameLen) % 2 ^ 48

/-- The frame after `k`. -/
def State.nextFrame (s : State) (k : Nat) : Nat := (k + 1) % s.frameMod

/-- How far COUNTER `a` is ahead of `b`, as a signed 48-bit difference. -/
def ahead48 (a b : Nat) : Int := sext 48 (a + 2 ^ 48 - b)

/-- How far frame `a` is ahead of frame `b`. -/
def State.aheadFrame (s : State) (a b : Nat) : Int :=
  let m := s.frameMod
  let d := (a + m - b % m) % m
  if 2 * d < m then d else (d : Int) - m

/-! ## Ports -/

/-- A port's own state. -/
def State.port (s : State) (n : Nat) : Port := s.ports.at n {}

/-- `s` with another own state of port `n`. -/
def State.setPort (s : State) (n : Nat) (p : Port) : State := { s with ports := s.ports.put n p {} }

/-- `INGn.PSTATE.STATE`: 0 DARK, 1 DETECT, 2 TRAIN, 3 ALIGN, 4 UP, 5 DRAIN. -/
def State.pstate (s : State) (n : Nat) : Nat := s.get ingPstateState n

/-- The ports that are UP. -/
def State.upPorts (s : State) : List Nat := (List.range 8).filter fun n => s.pstate n = 4

/-- FTs are being raised: RUN is 1 and the first FT has come. -/
def State.ticking (s : State) : Bool := s.on tickCtrlRun && s.tick.seen

/-- The samples of frame `k` of port `n` are in the data flow. -/
def State.inFlow (s : State) (n k : Nat) : Bool :=
  match (s.port n).useFrom with
  | none => false
  | some a =>
    decide (0 ≤ s.aheadFrame k a) && (match (s.port n).useTo with | none => true | some b => decide (s.aheadFrame k b < 0))

/-- The key of stream (group `g`, coarse channel `j`) of port `n`. -/
def streamKey (n g j : Nat) : Nat := 64 * n + 16 * g + j

/-- A stream. -/
def State.stream (s : State) (k : Nat) : Stream := s.streams.at k {}

/-- `s` with another stream. -/
def State.setStream (s : State) (k : Nat) (x : Stream) : State := { s with streams := s.streams.put k x {} }

/-- The key of the chain of port-local input `i` in coarse channel `j`. -/
def chainKey (n i j : Nat) : Nat := (256 * n + i) * 16 + j

/-- Everything a port's front end and streams hold is set to 0 (R62, R97); the controls in effect stay so. -/
def State.clearFront (s : State) (n : Nat) : State :=
  { s with
    streams := Sparse.drop s.streams fun k => k / 64 = n
    chains := Sparse.drop s.chains fun k => k / 4096 = n
    feActive := s.feActive.put n ((s.feActive.at n []).take 1 |>.map fun x => (x.1, x.2.1, none)) [] }

/-- The side effects of entering a state (R50, R62, R65, R97). -/
def State.enterPort (s : State) (n st : Nat) : State :=
  let p := s.port n
  match st with
  | 0 => ((s.setPort n { p with fails := 0, rxOn := false }).set ingPstateFault 0 n).setReg ingLanestat n 0 0
  | 1 =>
    let s1 := (s.clearFront n).setPort n
      { p with lastSeq := none, okRun := 0, bounds := [], dirty := none, judge := [], good := false, rxOn := true }
    ((s1.set ingPstateFramed 0 n).set ingLanestatBlocklock 0 n).set ingLanestatAmlock 0 n
  | 3 => { (s.setPort n { p with bounds := [], dirty := none, judge := [], good := false }).set ingLanestatAmlock 0 n with
      streams := s.streams.map fun e => if e.1 / 64 = n then (e.1, { e.2 with since := false }) else e }
  | 4 => (s.setPort n { p with fails := 0 }).set ingPstateFault 0 n
  | _ => s

/-- A port changes state: status bit 0 (R65). -/
def State.portTo (s : State) (n st : Nat) : State :=
  if s.pstate n = st then s else ((s.set ingPstateState st n).enterPort n st).ingFlag n 0

/-- A port enters UP with the samples of frame `k` as the first in the data flow; the first port UP fixes the chip
format (R65, R66, R111). -/
def State.portUp (s : State) (n k : Nat) : State :=
  let s1 := if s.upPorts.isEmpty then s.set tickStatusFmt (b2n (s.get ingCtrlFmt n = 1)) else s
  (s1.setPort n { s1.port n with useFrom := some k, useTo := none }).portTo n 4

/-- The receivers go off (R65). -/
def State.rxOff (s : State) (n : Nat) : State :=
  (s.setPort n { s.port n with rxOn := false }).setReg ingLanestat n 0 0

/-- The causes of the state table that hold as levels: ENABLE, TEST, presence and the receivers (R65). -/
def State.settlePort (s : State) (n : Nat) : State :=
  let en := s.on ingCtrlEnable n
  let test := s.on ingCtrlTest n
  let st := s.pstate n
  if st = 0 then
    if en && !test && s.on ingPstatePrsnt n then s.portTo n 1 else s
  else if 1 ≤ st ∧ st ≤ 3 then
    if !en || test then s.portTo n 0 else s
  else if st = 5 then
    if !s.on ingPstatePrsnt n then (s.rxOff n).portTo n 0
    else if !(s.port n).rxOn && (!en || test) then s.portTo n 0 else s
  else s

/-- A port in UP takes a drain: at the next FT, or at once while no FTs are raised (R67). -/
def State.drainUp (s : State) (n : Nat) : State :=
  if s.ticking then s.set ingPstateDrainPend 1 n
  else ((s.set ingPstateDrainPend 0 n).setPort n { s.port n with useFrom := none, useTo := none }).portTo n 5

/-- LINKLOSS marks of a frame: a bit per chip input (R63). -/
def State.lossOf (s : State) (k : Nat) : Nat := s.linkloss.at k 0

/-- Inputs are marked in a frame's LINKLOSS vector. -/
def State.markLoss (s : State) (k mask : Nat) : State := { s with linkloss := s.linkloss.put k (s.lossOf k ||| mask) 0 }

/-- The vector of `n` inputs from chip input `a` on. -/
def inputMask (a n : Nat) : Nat := (2 ^ n - 1) * 2 ^ a

/-- The inputs of a group: 64 at 4+4 bits, 32 at 8+8 bits (R57). -/
def State.groupSize (s : State) (n : Nat) : Nat := if s.get ingCtrlFmt n = 1 then 32 else 64

/-- The first chip input of group `g` of port `n` (R58). -/
def State.groupInput (s : State) (n g : Nat) : Nat := 4 * s.groupSize n * n + s.groupSize n * g

/-- Surprise removal (R65): DRAIN at once, counted and flagged; the samples of the current frame that have not arrived
are lost (R63). -/
def State.surprise (s : State) (n : Nat) (clock : Bool) : State :=
  let k := s.frame
  let late := (List.range 64).filter fun x =>
    match (s.stream (64 * n + x)).next with
    | none => true
    | some c => ahead48 c (s.frameStart (s.nextFrame k)) < 0
  let s1 := if s.ticking && s.inFlow n k then
      late.foldl (fun t x => t.markLoss k (inputMask (s.groupInput n (x / 16)) (s.groupSize n))) s else s
  let s2 := (s1.setPort n { s1.port n with useTo := some (s1.nextFrame k) }).set ingPstateDrainPend 0 n
  let s3 := ((s2.count ingCntCount 1 n 4).ingFlag n 1).portTo n 5
  if clock then s3.ingFlag n 7 else s3

/-- A training failure (R65): DETECT, counted, FAULT after three in a row. -/
def State.trainFail (s : State) (n : Nat) : State :=
  let p := s.port n
  let s1 := ((s.count ingCntCount 1 n 5).ingFlag n 5).setPort n { p with fails := p.fails + 1 }
  let s2 := if 3 ≤ p.fails + 1 then s1.set ingPstateFault 1 n else s1
  s2.portTo n 1

/-- A drain request in a state other than UP (R65). -/
def State.drainOther (s : State) (n : Nat) : State :=
  let st := s.pstate n
  if 1 ≤ st ∧ st ≤ 3 then ((s.rxOff n).portTo n 5).settlePort n else s

/-- A press or REJOIN in DRAIN (R65). -/
def State.rejoin (s : State) (n : Nat) : State :=
  if s.pstate n = 5 ∧ s.on ingPstatePrsnt n ∧ s.on ingCtrlEnable n ∧ !s.on ingCtrlTest n then s.portTo n 1 else s

/-- A drain request by CMD or CTRL (R65, R67). -/
def State.drain (s : State) (n : Nat) : State := if s.pstate n = 4 then s.drainUp n else s.drainOther n

/-- Frames are counted anew after a change of E, L or P (R20): what the ports hold by frame number is dropped, and while
no FT has come, which frames are in the data flow. -/
def State.renumber (s : State) : State :=
  let go := !s.ticking
  { s with
    linkloss := []
    ports := s.ports.map fun e => (e.1, { e.2 with
      bounds := [], judge := [], good := false
      useFrom := if go then none else e.2.useFrom, useTo := if go then none else e.2.useTo }) }

/-! ## Lanes -/

/-- One bit of a field by lane. -/
def State.setLane (s : State) (f : RField) (n k : Nat) (v : Bool) : State :=
  s.set f (setBits (s.get f n) k k (b2n v)) n

/-- The lanes' lateness, by physical lane. -/
def State.late (s : State) (n k : Nat) : Nat := (s.port n).lates.at k 0

/-- With markers: every lane locked, no lane number twice, and at most 64 UI of skew (R53). -/
def State.deskewed (s : State) (n : Nat) : Bool :=
  s.on ingCtrlMarkerless n ||
    (s.get ingLanestatAmlock n = 255
      && decide ((List.range 8).map (fun k => s.get ingLaneDlyLogical n k)).Nodup
      && (List.range 8).all fun k => (List.range 8).all fun l => s.late n k ≤ s.late n l + 64)

/-- The deskew delays that remove the lanes' skew (R53). -/
def State.setDeskew (s : State) (n : Nat) : State :=
  let top := ((List.range 8).map (s.late n)).foldl max 0
  (List.range 8).foldl (fun t k => t.set ingLaneDlyDly (top - s.late n k) n k) s

/-- LANE_BLOCK_LOCK (R51, R54): in TRAIN, the eighth lock starts ALIGN. -/
def execLaneBlockLock (n : Fin 8) (k : Fin 8) (phase : BitVec 7) (s : State) : Result :=
  let st := s.pstate n
  .next <|
    if st < 2 ∨ st = 5 then s
    else
      let s1 := (s.setLane ingLanestatBlocklock n k true).set ingLaneDlyPhase (phase.toNat % 66) n k
      let s2 := if s1.on ingCtrlMarkerless n then s1.set ingLaneDlyLogical k n k else s1
      if st = 2 ∧ s2.get ingLanestatBlocklock n = 255 then s2.portTo n 3 else s2

/-- LANE_LOSS (R51, R65): back to TRAIN from ALIGN on a lost block lock, a surprise removal in UP. -/
def execLaneLoss (n : Fin 8) (k : Fin 8) (why : LaneLoss) (s : State) : Result :=
  .next <|
    match s.pstate n, why with
    | 4, _ => (((s.setLane ingLanestatBlocklock n k false).setLane ingLanestatAmlock n k false)).surprise n false
    | 3, .blockLock => ((s.setLane ingLanestatBlocklock n k false).setLane ingLanestatAmlock n k false).portTo n 2
    | 2, .blockLock => s.setLane ingLanestatBlocklock n k false
    | _, _ => s

/-- MARKER_LOCK (R52, R53). -/
def execMarkerLock (n : Fin 8) (k : Fin 8) (logical : Fin 8) (late : BitVec 8) (s : State) : Result :=
  .next <|
    if (s.pstate n = 3 ∨ s.pstate n = 4) ∧ !s.on ingCtrlMarkerless n then
      let p := s.port n
      let s1 := (s.setLane ingLanestatAmlock n k true).set ingLaneDlyLogical logical n k
      let s2 := s1.setPort n { p with lates := p.lates.put k late.toNat 0 }
      if s2.deskewed n then s2.setDeskew n else s2
    else s

/-- MARKER_LOCK_LOSS (R52, R65): a surprise removal in UP. -/
def execMarkerLockLoss (n : Fin 8) (k : Fin 8) (s : State) : Result :=
  .next <|
    if s.on ingCtrlMarkerless n then s
    else
      let s1 := s.setLane ingLanestatAmlock n k false
      if s.pstate n = 4 then s1.surprise n false else s1

/-- PRESENT_CHANGE (R65, R68). -/
def execPresentChange (n : Fin 8) (seated : Bool) (s : State) : Result :=
  let s1 := s.set ingPstatePrsnt (b2n seated) n
  .next <|
    if seated then s1.settlePort n
    else if s1.pstate n = 4 then (s1.surprise n false).settlePort n
    else if s1.pstate n = 0 then s1
    else (s1.rxOff n).portTo n 0

/-- FWD_CLOCK_QUALIFIED (R65): the clock within ±100 ppm for 1 ms and signal on all eight lanes. -/
def execFwdClockQualified (n : Fin 8) (s : State) : Result :=
  .next (if s.pstate n = 1 then (s.set ingLanestatSigdet 255 n).portTo n 2 else s)

/-- FWD_CLOCK_FAULT (R65, R74): out of tolerance for 10 µs, a surprise removal in UP. -/
def execFwdClockFault (n : Fin 8) (s : State) : Result :=
  .next (if s.pstate n = 4 then s.surprise n true else s)

/-- TRAIN_TIMEOUT (R65). -/
def execTrainTimeout (n : Fin 8) (s : State) : Result :=
  .next (if s.pstate n = 2 then s.trainFail n else s)

/-- MARKER_TIMEOUT (R65): with markers in use and not all lanes locked. -/
def execMarkerTimeout (n : Fin 8) (s : State) : Result :=
  .next (if s.pstate n = 3 ∧ !s.on ingCtrlMarkerless n ∧ s.get ingLanestatAmlock n ≠ 255 then s.trainFail n else s)

/-- RECEIVERS_OFF (R65): within 100 µs of entering DRAIN. -/
def execReceiversOff (n : Fin 8) (s : State) : Result :=
  .next (if s.pstate n = 5 then (s.rxOff n).settlePort n else s)

/-- BUTTON_PRESS (R65, R68, R69). -/
def execButtonPress (n : Fin 8) (s : State) : Result :=
  .next <|
    if !s.on ingCtrlBtnEn n ∨ s.pstate n = 0 ∨ (s.pstate n = 4 ∧ s.on ingPstateDrainPend n) then s
    else
      let s1 := s.ingFlag n 6
      if s1.pstate n = 5 then s1.rejoin n else s1.drain n

/-- What R73 refuses: a change of FMT, MARKERLESS, PORTID or PORTID_ANY, or a near-end loop without TEST, while the port
is not DARK. -/
def State.ctrlRefused (s : State) (n v : Nat) : Bool :=
  s.pstate n ≠ 0 &&
    (bits v 9 8 ≠ s.get ingCtrlFmt n || bits v 3 3 ≠ s.get ingCtrlMarkerless n || bits v 14 12 ≠ s.get ingCtrlPortid n
      || bits v 11 11 ≠ s.get ingCtrlPortidAny n
      || ((bits v 7 6 = 1 || bits v 7 6 = 2) && !bit v 5))

/-- The equalisers of a port stop at the values they have reached, which the manual leaves open (R50). -/
def State.freezeEq (s : State) (n : Nat) : State :=
  ((List.range 8).foldl (fun t k => t.setReg ingLaneEq n k (Config.freeNat s.fresh k % 2 ^ 36)) s).drawn

/-- A write of `INGn.CTRL` (R50, R65, R67, R73). -/
def State.writeIngCtrl (s : State) (w : Who) (n v : Nat) : State :=
  s.guarded0 w (ingCtrl.key n 0) fun s =>
    if s.ctrlRefused n v then s.reject w (ingCtrl.key n 0)
    else
      let s0 := if bit v 4 && !s.on ingCtrlAdaptFreeze n then s.freezeEq n else s
      let s1 := s0.writeFieldsOf ingCtrl n 0 v
      if s1.pstate n = 4 then (if !bit v 0 || bit v 5 then s1.drainUp n else s1) else s1.settlePort n

/-- INGEST_CTRL_WRITE (R73). -/
def execIngestCtrlWrite (w : Who) (n : Fin 8) (v : Word) (s : State) : Result := .next (s.writeIngCtrl w n v.toNat)

/-- The offset of `INGn.CMD`. -/
def ingCmdOff (n : Nat) : Nat := ingCmd.key n 0

/-- SLIP (R54): one more UI, from 0 to 131 and round again; acts only in ALIGN without markers. -/
def State.slip (s : State) (n lane : Nat) : State :=
  if s.pstate n = 3 ∧ s.on ingCtrlMarkerless n then
    s.set ingLaneDlyDly ((s.get ingLaneDlyDly n lane + 1) % 132) n lane
  else s

/-- CLRCNT (R62): every `INGn.CNT_*` reads 0. -/
def State.clrIngCnt (s : State) (n : Nat) : State := (List.range 6).foldl (fun t c => t.setReg ingCnt n c 0) s

/-- INGEST_SLIP (R54). -/
def execIngestSlip (w : Who) (n : Fin 8) (lane : Fin 8) (s : State) : Result :=
  .next (s.guarded0 w (ingCmdOff n) fun s => s.slip n lane)

/-- INGEST_CLRCNT (R62). -/
def execIngestClrcnt (w : Who) (n : Fin 8) (s : State) : Result :=
  .next (s.guarded0 w (ingCmdOff n) fun s => s.clrIngCnt n)

/-- INGEST_REJOIN (R65). -/
def execIngestRejoin (w : Who) (n : Fin 8) (s : State) : Result :=
  .next (s.guarded0 w (ingCmdOff n) fun s => s.rejoin n)

/-- INGEST_DRAIN (R65, R67). -/
def execIngestDrain (w : Who) (n : Fin 8) (s : State) : Result :=
  .next (s.guarded0 w (ingCmdOff n) fun s => s.drain n)

/-- A write of `INGn.CMD`. With several bits set, SLIP, CLRCNT, REJOIN and DRAIN act in this order (log entry 105). -/
def State.writeIngCmd (s : State) (w : Who) (n v : Nat) : State :=
  s.guarded0 w (ingCmdOff n) fun s =>
    let s := if bit v 8 then s.slip n (bits v 11 9) else s
    let s := if bit v 2 then s.clrIngCnt n else s
    let s := if bit v 1 then s.rejoin n else s
    if bit v 0 then s.drain n else s

/-- A checker of a port (R71). -/
def State.checker (s : State) (n k : Nat) : Checker := (s.port n).checks.at k {}

/-- `s` with another checker. -/
def State.setChecker (s : State) (n k : Nat) (c : Checker) : State :=
  s.setPort n { s.port n with checks := (s.port n).checks.put k c {} }

/-- A write of `INGn.PRBS` (R71): a checker switched on has counted no errors; one that is off, or was, is not locked. -/
def State.writePrbs (s : State) (w : Who) (n v : Nat) : State :=
  s.guarded0 w (ingPrbs.key n 0) fun s =>
    let s1 := (List.range 8).foldl (fun t k =>
      if bit v (8 + k) && bit (s.get ingPrbsChk n) k then t
      else
        let t := (t.setChecker n k {}).set ingPrbsErrLock 0 n k
        if bit v (8 + k) then t.set ingPrbsErrErrors 0 n k else t) s
    s1.writeFieldsOf ingPrbs n 0 v

/-- PRBS_CTRL_WRITE (R71). -/
def execPrbsCtrlWrite (w : Who) (n : Fin 8) (v : Word) (s : State) : Result := .next (s.writePrbs w n v.toNat)

/-- The bit of the pattern after the 31 in `last` (R71): x^31 + x^28 + 1, inverted. -/
def prbsNext (last : BitVec 31) : Bool := !(last.getLsbD 30 ^^ last.getLsbD 27)

/-- The next `m` bits of a generator, and where it stands after them. -/
def prbsBits (last : BitVec 31) (m : Nat) : List Bool × BitVec 31 :=
  match m with
  | 0 => ([], last)
  | m + 1 =>
    let b := prbsNext last
    let r := prbsBits (last <<< 1 ||| BitVec.ofNat 31 (b2n b)) m
    (b :: r.1, r.2)

/-- A checker takes some bits (R71): it locks after 64 error-free ones in a row, follows the pattern by itself while
locked, and counts errors only then. -/
def checkBits (c : Checker) (locked : Bool) (errs : Nat) (l : List Bool) : Checker × Bool × Nat :=
  match l with
  | [] => (c, locked, errs)
  | b :: r =>
    let want := prbsNext c.last
    let shift := fun (x : Bool) => c.last <<< 1 ||| BitVec.ofNat 31 (b2n x)
    if locked then checkBits { c with last := shift want } true (errs + b2n (b ≠ want)) r
    else
      let run := if c.seen = 31 && b = want then c.run + 1 else 0
      checkBits ⟨shift b, min 31 (c.seen + 1), min 64 run⟩ (64 ≤ run) errs r

/-- LOOP of port `n` is a near-end loop (R72). -/
def State.nearLoop (s : State) (n : Nat) : Bool := s.get ingCtrlLoop n = 1 || s.get ingCtrlLoop n = 2

/-- The lane that drives the loop-back pair (R72): LB_LANE in the far-end loop. -/
def State.loopBack (s : State) (n : Nat) : Option Nat :=
  if s.get ingCtrlLoop n = 3 then some (s.get ingCtrlLbLane n) else none

/-- The bits that lane `k`'s checker takes in place of `raw` (R72): in a near-end loop the generator's, none where it is
off; without a loop the lane's own. -/
def State.laneBits (s : State) (n k : Nat) (raw : List Bool) : List Bool × State :=
  if s.nearLoop n then
    if bit (s.get ingPrbsGen n) k then
      let p := s.port n
      let (l, g) := prbsBits (p.gens.at k 0) raw.length
      (l, s.setPort n { p with gens := p.gens.put k g 0 })
    else ([], s)
  else if s.get ingCtrlLoop n = 0 then (raw, s) else ([], s)

/-- PRBS_CHECKER_LOCK (R71, R72): a checker that is on, in a port under test. -/
def execPrbsCheckerLock (n : Fin 8) (k : Fin 8) (raw : List Bool) (lost : Bool) (s : State) : Result :=
  .next <|
    if !(bit (s.get ingPrbsChk n) k && s.on ingCtrlTest n) then s
    else
      let (l, s1) := s.laneBits n k raw
      let (c, locked, errs) := checkBits (s1.checker n k) (s1.on ingPrbsErrLock n k) 0 l
      ((s1.setChecker n k (if lost then {} else c)).set ingPrbsErrLock (b2n (locked && !lost)) n k).count
        ingPrbsErrErrors errs n k

/-- The LED pins of a port (R70): amber and green, each off, on or blinking at 1 or 2 Hz. -/
inductive Lamp where
  | off | on | blink2 | alternate
  deriving DecidableEq, Repr

/-- Amber and green of port `n` (R70). -/
def State.led (s : State) (n : Nat) : Lamp × Lamp :=
  let lamp := fun (b : Bool) => if b then Lamp.on else Lamp.off
  if s.on ingCtrlLedOvr n then (lamp (bit (s.get ingLedValue n) 1), lamp (bit (s.get ingLedValue n) 0))
  else if s.on ingCtrlTest n then (.on, .on)
  else if s.pstate n = 5 then (.on, .off)
  else if s.pstate n = 4 ∧ s.on ingPstateDrainPend n then (.blink2, .off)
  else if s.on ingPstateFault n then (.alternate, .alternate)
  else if s.pstate n = 4 then (.off, .on)
  else if s.pstate n = 0 then (.off, .off)
  else (.off, .blink2)

/-! ## Blocks (R47, R49, R55) -/

/-- The self-synchronising descrambler x^58 + x^39 + 1 (R47): the 64 bits of a block, and the line bits it needs next. -/
def descramble (line : BitVec 58) (x : BitVec 64) : BitVec 64 × BitVec 58 :=
  let l : BitVec 122 := x ++ line
  ((l >>> 58 ^^^ l >>> 19 ^^^ l).setWidth 64, (l >>> 64).setWidth 58)

/-- Some blocks descrambled: their sync headers and their bits. -/
def descrambleAll (line : BitVec 58) (l : List Block) : List (BitVec 2 × BitVec 64) × BitVec 58 :=
  match l with
  | [] => ([], line)
  | b :: r =>
    let (x, line) := descramble line b.line
    let (rest, line) := descrambleAll line r
    ((b.sync, x) :: rest, line)

/-- The type of a control block: its first byte (R49). -/
def blockType (x : BitVec 64) : Byte := x.setWidth 8

/-- A control block of type `t`. -/
def isControl (t : Byte) (b : BitVec 2 × BitVec 64) : Bool := b.1 = 2#2 && blockType b.2 = t

/-- The header and payload bytes of a packet and its CRC, where it keeps the framing (check 1 of R62): a Start block, 1,032
data blocks and a Terminate block, with valid sync headers. -/
def deframe (l : List (BitVec 2 × BitVec 64)) : Option (List Byte × List Byte × Nat) :=
  let data := slice l 1 1032
  match l.head?, l.drop 1033 with
  | some a, [z] =>
    if isControl 0x3C a && isControl 0xC3 z && data.all fun b => b.1 = 1#2 then
      let bytes := data.flatMap fun b => leBytes 8 b.2.toNat
      some (bytes.take 64, bytes.drop 64, z.2.toNat / 256 % 2 ^ 32)
    else none
  | _, _ => none

/-- The descrambler of port `n` has passed some blocks. -/
def State.descrambled (s : State) (n : Nat) (l : List Block) : List (BitVec 2 × BitVec 64) × State :=
  let (x, line) := descrambleAll (s.port n).line l
  (x, s.setPort n { s.port n with line := line })

/-- OUT_OF_PACKET_BLOCK (R49): a control block that is not Idle, Start or Terminate is counted in CNT_HDR and ignored. -/
def execOutOfPacketBlock (n : Fin 8) (b : Block) (s : State) : Result :=
  .next <|
    if s.nearLoop n then s
    else
      let (x, t) := s.descrambled n [b]
      if (s.pstate n = 3 ∨ s.pstate n = 4)
          ∧ x.all (fun y => y.1 = 2#2 && !(isControl 0x1E y || isControl 0x3C y || isControl 0xC3 y)) then
        t.count ingCntCount 1 n 1
      else t

/-! ## Coarse samples: DC blocker and spike rank filter -/

/-- The front-end controls of port `n`, CTRL and SPIKE, that act on the coarse sample at COUNTER `c` (R81). -/
def State.feCtl (s : State) (n c : Nat) : Nat × Nat :=
  match (s.feActive.at n []).find? fun x => match x.2.2 with | none => true | some d => decide (0 ≤ ahead48 c d) with
  | some x => (x.1, x.2.1)
  | none => (feCtrl.reset n 0, feSpike.reset n 0)

/-- A coarse sample before the blocker: its code on the 8-bit scale, the partner's flag, and whether it was lost. -/
structure Coarse where
  re      : Int
  im      : Int
  flagged : Bool
  lost    : Bool
  deriving DecidableEq, Repr

/-- A sample that never came. -/
def Coarse.missing (lost : Bool) : Coarse := ⟨0, 0, true, lost⟩

/-- One part through the DC blocker (R80, R81): the output and the new estimate. -/
def dcPart (ctl : Nat) (flagged : Bool) (m x : Int) : Int × Int :=
  let dcN := min 16 (max 8 (bits ctl 20 16))
  let d := x * 65536 - m
  if flagged then (0, m)
  else (if bit ctl 8 then 8 * x else roundC d 13, if bit ctl 9 then m else m + roundC d dcN)

/-- The magnitude a of R82. -/
def spikeMag (y : FeSample) : Nat :=
  let r := y.re.natAbs
  let i := y.im.natAbs
  2 * max r i + min r i

/-- Insertion into a rising list. -/
def insertNat (l : List Nat) (x : Nat) : List Nat :=
  match l with
  | [] => [x]
  | y :: r => if x ≤ y then x :: y :: r else y :: insertNat r x

/-- The median, the lower of the two middle values when the count is even (R82). -/
def median (l : List Nat) : Nat := nth (l.foldl insertNat []) ((l.length - 1) / 2) 0

/-- W of the spike window; 0 when it is off. -/
def State.spikeWin (s : State) : Nat :=
  match s.get feCfgWin with
  | 0 => 0
  | 1 => 7
  | 2 => 15
  | _ => 31

/-- The sample in the middle of a window leaves the spike rank filter, replaced and flagged when R83 says so. -/
def spikeTest (ctl W : Nat) (win : List FeSample) (y : FeSample) : FeSample × Bool :=
  let good := (win.filter fun x => !x.flagged).map spikeMag
  let k := if bits ctl 5 0 < 8 then 8 else bits ctl 5 0
  if y.flagged ∨ W = 0 ∨ 2 * good.length < W + 1 then (y, false)
  else if k * max (median good) (bits ctl 28 16) < 4 * spikeMag y then ({ y with re := 0, im := 0, flagged := true }, true)
  else (y, false)

/-- A history sample before anything came: flagged zeros (R97). -/
def FeSample.none : FeSample := ⟨0, 0, true, false, false⟩

/-- One coarse sample passes a chain; `outs` tells how many samples leave the spike filter, and how far back in the
history the first of them lies; `bad` that a state word has just failed its check. What comes back counts the samples
replaced. -/
def pushChain (ctl spk W outs back : Nat) (bad : Bool) (c : Chain) (x : Coarse) : Chain × Nat :=
  let (yr, mr) := dcPart ctl x.flagged c.mRe x.re
  let (yi, mi) := dcPart ctl x.flagged c.mIm x.im
  let ys := (⟨yr, yi, x.flagged, x.lost, bad⟩ :: c.ys).take 64
  let emit := (List.range outs).foldl (fun (a : List FeSample × Nat) o =>
    let b := back - o
    let y := nth ys b FeSample.none
    let h := W / 2
    let win := (List.range (2 * h + 1)).map fun q => nth ys (b + h - q) FeSample.none
    let (z, hit) := spikeTest spk W win y
    (z :: a.1, a.2 + b2n hit)) (c.zs, 0)
  ({ mRe := mr, mIm := mi, ys := ys, zs := emit.1 }, emit.2)

/-- A chain. -/
def State.chain (s : State) (k : Nat) : Chain := s.chains.at k {}

/-- The word of a chain that failed its check is used as 0 and rewritten as 0 (R265). -/
def Chain.cleared (c : Chain) : Chain :=
  let zero := fun (x : FeSample) => { x with re := 0, im := 0, bad := true }
  { mRe := 0, mIm := 0, ys := c.ys.map zero, zs := c.zs.map zero }

/-- The word of chain `k` is read: the state after, and whether it failed its check (R259, R265). -/
def State.checkChain (s : State) (k : Nat) : State × Bool :=
  match s.marks.at (chainPlace k / 8) none with
  | none => (s, false)
  | some _ =>
    let (t, bad) := s.readWord (chainPlace k)
    (if bad then { t.setMark (chainPlace k / 8) .clean with chains := t.chains.put k (t.chain k).cleared {} } else t, bad)

/-- One of the three counters of an input (R96): 0 SPIKE, 1 FLAGIN, 2 REQSAT; `later` for what the snapshot of the next
FT leaves out. -/
def State.addCount (s : State) (later : Bool) (n i x by_ : Nat) : State :=
  let k := 3 * (256 * n + i) + x
  if later then { s with countsNext := s.countsNext.put k (s.countsNext.at k 0 + by_) 0 }
  else { s with counts := s.counts.put k (min (s.counts.at k 0 + by_) 0xFFFFFFFF) 0 }

/-- The coarse sample at COUNTER `c` enters no fine sample of the frame in hand (R84, R96). -/
def State.pastCut (s : State) (c : Nat) : Bool :=
  let past := fun (k : Nat) =>
    decide (0 ≤ ahead48 c ((s.frameStart (s.nextFrame k) + (s.taps - 1) * s.chanP) % 2 ^ 48))
  if s.ticking then past s.frame
  else match s.tick.first with
    | some (k, _) => past k
    | none => false

/-- The DC estimates of a port are set to 0 (R81). -/
def State.zeroDc (s : State) (n : Nat) : State :=
  if bit s.dcClear.toNat n then
    { s with
      dcClear := s.dcClear &&& ~~~(1#8 <<< n)
      chains := s.chains.map fun e => if e.1 / 4096 = n then (e.1, { e.2 with mRe := 0, mIm := 0 }) else e }
  else s

/-- One coarse time of a stream enters the chains of its group: `xs` holds one sample per input. -/
def State.pushTime (s : State) (n g j : Nat) (xs : List Coarse) : State :=
  let key := streamKey n g j
  let st := s.stream key
  match st.next with
  | none => s
  | some c =>
    let s := s.zeroDc n
    let W := s.spikeWin
    let h := W / 2
    let newest := ahead48 ((c + 2 ^ 48 - h) % 2 ^ 48) st.zNext
    let outs := (newest + 1).toNat
    let back := (ahead48 c st.zNext).toNat
    let size := s.groupSize n
    let (ctl, spk) := s.feCtl n c
    let s1 := (List.range size).foldl (fun t i =>
      let inp := size * g + i
      let ck := chainKey n inp j
      let (t, bad) := t.checkChain ck
      let (ch, hits) := pushChain ctl spk W outs back bad (t.chain ck) (nth xs i (Coarse.missing false))
      let t := { t with chains := t.chains.put ck ch {} }
      if hits = 0 then t else t.addCount (s.pastCut ((c + 2 ^ 48 - h) % 2 ^ 48)) n inp 0 hits) s
    s1.setStream key { st with next := some ((c + 1) % 2 ^ 48), zNext := (st.zNext + outs) % 2 ^ 48 }

/-- `m` coarse times of a stream that never came enter as flagged samples, lost ones under R63 where `lost` is set; FLAGIN
counts them where `tally` is (R96). -/
def State.pushMissing (s : State) (n g j m : Nat) (lost tally : Bool) : State :=
  match m with
  | 0 => s
  | m + 1 =>
    let size := s.groupSize n
    let later := match (s.stream (streamKey n g j)).next with | some c => s.pastCut c | none => false
    let t := s.pushTime n g j (List.replicate size (Coarse.missing lost))
    let t := if tally then (List.range size).foldl (fun t i => t.addCount later n (size * g + i) 1 1) t else t
    t.pushMissing n g j m lost tally

/-! ## Packets -/

/-- The header of a packet (R56). -/
structure Header where
  magic   : Nat
  version : Nat
  port    : Nat
  group   : Nat
  chan    : Nat
  format  : Nat
  flags   : Nat
  counter : Nat
  seq     : Nat
  partner : Nat
  deriving DecidableEq, Repr

/-- The fields of the 64 header bytes; COUNTER, SEQ and PARTNER_ID are big-endian. -/
def parseHeader (h : List Byte) : Header :=
  { magic := beVal (slice h 0 2), version := beVal (slice h 2 1), port := beVal (slice h 3 1)
    group := beVal (slice h 4 1), chan := beVal (slice h 5 1), format := beVal (slice h 6 1)
    flags := beVal (slice h 7 1), counter := beVal (slice h 8 6), seq := beVal (slice h 14 2)
    partner := beVal (slice h 16 4) }

/-- Check 2 of R62; FMT values 0b10 and 0b11 act as 0b00. -/
def State.headerOk (s : State) (n : Nat) (h : Header) : Bool :=
  h.magic = 0xB6F2 && h.version = 1
    && h.format = (if s.get ingCtrlFmt n = 1 then 1 else 0)
    && (s.on ingCtrlPortidAny n || h.port = s.get ingCtrlPortid n)
    && h.group < 4 && h.chan < 16 && h.counter % 128 = 0

/-- Check 5 of R62. -/
def State.timely (s : State) (c : Nat) : Bool :=
  !s.ticking || (let d := s.aheadFrame (s.frameOf c) s.frame; decide (d = 0 ∨ d = 1))

/-- Check 4 of R62: at most 256 above the expected value of the slowest stream that has one. -/
def State.leadOk (s : State) (n c : Nat) : Bool :=
  (List.range 64).all fun x =>
    match (s.stream (64 * n + x)).expected with
    | none => true
    | some e => decide (ahead48 c e ≤ 256)

/-- The coarse sample of one input at one time in a payload (R57, R59, R80). -/
def sampleAt (wide bad : Bool) (payload : List Byte) (t i : Nat) : Coarse :=
  if wide then
    let r := sext 8 (nth payload (2 * (32 * t + i)) 0).toNat
    let m := sext 8 (nth payload (2 * (32 * t + i) + 1) 0).toNat
    ⟨r, m, bad || r = -128 || m = -128, false⟩
  else
    let b := (nth payload (64 * t + i) 0).toNat
    let r := sext 4 (b / 16)
    let m := sext 4 (b % 16)
    ⟨16 * r, 16 * m, bad || r = -8 || m = -8, false⟩

/-- The 128 coarse times of an accepted packet enter the front end; `crcBad` flags every sample, one that R63 makes a lost
one where `lost` is set, and FLAGIN counts it where `tally` is (R96). -/
def State.pushPacket (s : State) (n g j : Nat) (wide bad crcBad lost tally : Bool) (payload : List Byte) (t : Nat) : State :=
  match t with
  | 0 => s
  | t + 1 =>
    let size := if wide then 32 else 64
    let time := 127 - t
    let xs := (List.range size).map fun i =>
      if crcBad then Coarse.missing lost else sampleAt wide bad payload time i
    let later := match (s.stream (streamKey n g j)).next with | some c => s.pastCut c | none => false
    let s1 := s.pushTime n g j xs
    let s2 := (List.range size).foldl (fun a i =>
      let x := nth xs i (Coarse.missing false)
      if x.flagged && (!crcBad || tally) then a.addCount later n (size * g + i) 1 1 else a) s1
    s2.pushPacket n g j wide bad crcBad lost tally payload t

/-- The sample at COUNTER `c` of some stream of a port did not come, or came flagged: the latest such COUNTER is kept. -/
def State.soil (s : State) (n c : Nat) : State :=
  let p := s.port n
  match p.dirty with
  | none => s.setPort n { p with dirty := some c }
  | some d => if 0 < ahead48 c d then s.setPort n { p with dirty := some c } else s

/-- The frames from `a` to `b` lose the inputs of a group to the link, where the port is in the data flow (R63). -/
def State.loseFrames (s : State) (n g a m : Nat) : State :=
  match m with
  | 0 => s
  | m + 1 =>
    let s1 := if s.inFlow n a then s.markLoss a (inputMask (s.groupInput n g) (s.groupSize n)) else s
    s1.loseFrames n g (s.nextFrame a) m

/-- The latest frame whose last samples every counted stream of a port has passed (R21): the frame before the one that its
slowest stream awaits; none while no stream counts. `c` is a COUNTER to compare from. -/
def State.boundaryOf (s : State) (n c : Nat) : Option Nat :=
  let ahead := (List.range 64).filterMap fun x =>
    let st := s.stream (64 * n + x)
    if st.since then st.expected.map fun e => ahead48 e c else none
  ahead.min?.map fun slow =>
    (s.frameOf (((c : Int) + slow) % (2 ^ 48 : Nat)).toNat + s.frameMod - 1) % s.frameMod

/-- The tick that a boundary which arrived at cycle `a` would place: D_fe + 12 µs later (R21). -/
def State.tickFrom (s : State) (a : Nat) : Nat := a + 160 * s.get feDfeSamples + 15000

/-- `TICK.SKEW.MAX` in core cycles. -/
def State.skewMax (s : State) : Nat := 625 * min 128 (max 1 (s.get tickSkewMax))

/-- A boundary that arrived at `a` lies within SKEW.MAX of the tick raised at `ft` (R24). -/
def State.skewOk (s : State) (a ft : Nat) : Bool :=
  decide (s.tickFrom a ≤ ft + s.skewMax ∧ ft ≤ s.tickFrom a + s.skewMax)

/-- The boundary of frame `k` places the first FT (R26): the samples of the frame after it are the first in the data
flow of every port that is UP. -/
def State.firstBoundary (s : State) (k : Nat) : State :=
  let t := s.upPorts.foldl (fun a n =>
    if (a.port n).useFrom.isNone then a.setPort n { a.port n with useFrom := some (s.nextFrame k), useTo := none } else a) s
  { t with tick := { t.tick with first := some (k, s.cycle) } }

/-- The frame whose boundary has just arrived at port `n` in ALIGN was complete and unflagged, with FRAMED = 1 and in the
chip's format (R65). -/
def State.cleanFrame (s : State) (n k : Nat) : Bool :=
  (match (s.port n).dirty with | none => true | some d => decide (0 < ahead48 (s.frameStart k) d))
    && s.on ingPstateFramed n && s.deskewed n
    && (s.upPorts.isEmpty || s.wide = decide (s.get ingCtrlFmt n = 1))

/-- A boundary of a port in ALIGN that arrived at `a` is judged against the FT raised at `ft` (R24): outside SKEW.MAX it
raises source 128; a clean frame within it lets the port UP at the next FT. -/
def State.judged (s : State) (n a ft : Nat) (clean : Bool) : State :=
  if !s.skewOk a ft then s.raise 128
  else if clean then s.setPort n { s.port n with good := true } else s

/-- The boundary of frame `k` arrives at port `n` (R21, R24, R61, R65, R66). A port in ALIGN waits for the epoch mark while
EPOCH_AUTO is 1; otherwise its boundary is judged once FT k+1 has been raised. -/
def State.boundary (s : State) (n k : Nat) : State :=
  let s1 := s.setPort n { s.port n with bounds := ((k, s.cycle) :: (s.port n).bounds).take 2 }
  let first := fun (t : State) =>
    if t.on tickCtrlRun && !t.tick.seen && t.tick.first.isNone && t.pstate n = 4 then t.firstBoundary k else t
  let late := s.aheadFrame (s.nextFrame k) s.frame
  if s.get tickEpochEpoch % 128 ≠ 0 then s
  else if s.pstate n = 4 then first s1
  else if s.pstate n ≠ 3 || s.on tickCtrlEpochAuto then s1
  else if !s.ticking then if s.cleanFrame n k then first (s1.portUp n (s.nextFrame k)) else s1
  else if late = 0 then s1.judged n s.cycle s.tick.ftCycle (s.cleanFrame n k)
  else if late < 0 then s1.raise 128
  else s1.setPort n { s1.port n with judge := (s1.port n).judge ++ [(k, s.cycle, s.cleanFrame n k)] }

/-- The boundaries that the latest packet of port `n` has completed arrive (R21); before it, that of frame `before` had.
A port none of whose streams counted yet has awaited none (log entry 106). -/
def State.boundaries (s : State) (n c : Nat) (before : Option Nat) : State :=
  match before, s.boundaryOf n c with
  | some b, some k =>
    let b := match (s.port n).bounds.head? with
      | some x => if 0 < s.aheadFrame x.1 b then x.1 else b
      | none => b
    let m := (s.aheadFrame k b).toNat
    let s1 := if 2 ≤ m then s.boundary n ((k + s.frameMod - 1) % s.frameMod) else s
    if 1 ≤ m then s1.boundary n k else s1
  | _, _ => s

/-- The header of a packet passed check 2: SEQ is compared with the last, and kept (check 7 of R62). -/
def State.seqGap (s : State) (n seq : Nat) : Nat :=
  match (s.port n).lastSeq with
  | none => 0
  | some q => (seq + 131072 - q - 1) % 65536

/-- A dropped packet: counter `c` and status bit 3; it ends a run of good packets when it failed framing or header. -/
def State.dropPacket (s : State) (n c : Nat) (bad : Bool) : State :=
  let s1 := (s.count ingCntCount 1 n c).ingFlag n 3
  if bad then (s1.setPort n { s1.port n with okRun := 0 }).set ingPstateFramed 0 n else s1

/-- A packet passed or failed its CRC: the run of good packets and FRAMED follow (R54). -/
def State.framed (s : State) (n : Nat) (ok : Bool) : State :=
  let r := if ok then (s.port n).okRun + 1 else 0
  (s.setPort n { s.port n with okRun := r }).set ingPstateFramed (b2n (32 ≤ r)) n

/-- The samples of an accepted packet, with those skipped before it (R62, R63, R97). -/
def State.takeSamples (s : State) (n : Nat) (h : Header) (crcOk : Bool) (payload : List Byte) : State :=
  let key := streamKey n h.group h.chan
  let k := s.frameOf h.counter
  let up := s.pstate n = 4
  let tally := up && (s.inFlow n k || (s.port n).useFrom.isNone)
  let st := s.stream key
  let from_ := st.next.getD h.counter
  let skipped := (ahead48 h.counter from_).toNat
  let s0 := match st.next with
    | some _ => s
    | none => s.setStream key { st with next := some h.counter, zNext := (h.counter + 2 ^ 48 - s.spikeWin / 2) % 2 ^ 48 }
  let whole := decide (h.counter = s.frameStart k)
  let before := (h.counter + 2 ^ 48 - 1) % 2 ^ 48
  let s1 := if skipped = 0 then (if st.next.isNone && !whole then s0.soil n before else s0)
    else
      let a := s.frameOf from_
      let b := s.frameOf before
      let t := (s0.soil n before).pushMissing n h.group h.chan skipped (up && s.inFlow n k) tally
      if up then t.loseFrames n h.group a ((s.aheadFrame b a).toNat + 1) else t
  let s2 := if crcOk then s1
    else
      let t := s1.soil n h.counter
      if up then t.loseFrames n h.group k 1 else t
  s2.pushPacket n h.group h.chan (s.get ingCtrlFmt n = 1) (bit h.flags 2) (!crcOk) (up && s.inFlow n k) tally payload 128

/-- A packet that passed checks 1 to 5 (R61, R62). -/
def State.acceptPacket (s : State) (n : Nat) (h : Header) (crcOk : Bool) (payload : List Byte) (gap : Nat) : State :=
  let key := streamKey n h.group h.chan
  let s := if s.on tickCtrlEpochAuto && bit h.flags 0 then
    ((s.set tickEpochEpoch h.counter).set tickCtrlEpochAuto 0).renumber else s
  let skip := match (s.stream key).expected with
    | none => 0
    | some e => (ahead48 h.counter e).toNat / 128
  let miss := max skip gap
  let before := s.boundaryOf n h.counter
  let s1 := s.takeSamples n h crcOk payload
  let s2 := s1.setStream key { s1.stream key with expected := some ((h.counter + 128) % 2 ^ 48), since := true }
  let s3 := if miss = 0 then s2 else (s2.count ingCntCount miss n 2).ingFlag n 4
  let s4 := if crcOk then ((s3.set ingLastSeq h.seq n).set ingLastCounter h.counter n).set ingPartnerId h.partner n
    else (s3.count ingCntCount 1 n 0).ingFlag n 2
  (s4.framed n crcOk).boundaries n h.counter before

/-- A packet that kept its framing: checks 2 to 8 in order (R62). -/
def State.checkPacket (s : State) (n : Nat) (header payload : List Byte) (crc : Nat) : State :=
    let h := parseHeader header
    if !s.headerOk n h then s.dropPacket n 1 true
    else
      let gap := s.seqGap n h.seq
      let s := s.setPort n { s.port n with lastSeq := some h.seq }
      let crcOk := decide (crc32c (header ++ payload) = crc)
      let stale := match (s.stream (streamKey n h.group h.chan)).expected with
        | none => false
        | some e => decide (ahead48 h.counter e < 0) || !s.leadOk n h.counter
      if stale || !s.timely h.counter then (s.dropPacket n 3 false).framed n crcOk
      else s.acceptPacket n h crcOk payload gap

/-- A packet's blocks come to a port (R62): a port takes packets in ALIGN and UP, and none from a near-end loop (R73). One
that loses its framing is dropped (check 1). -/
def State.ingestPacket (s : State) (n : Nat) (p : Packet) : State :=
  if s.nearLoop n then s
  else
    let (l, t) := s.descrambled n p.blocks
    if s.pstate n ≠ 3 ∧ s.pstate n ≠ 4 then t
    else
      match deframe l with
      | some (header, payload, crc) => t.checkPacket n header payload crc
      | none => t.dropPacket n 1 true

/-- INGEST_PACKET (R62). -/
def execIngestPacket (n : Fin 8) (p : Packet) (s : State) : Result := .next (s.ingestPacket n p)

/-! ## What an FT does to ports and their samples -/

/-- Whatever has not arrived of frame `k` at a port in the data flow enters as lost (R63). That of a port removed during
the frame counts in FLAGIN too (log entry 108). -/
def State.fillFrame (s : State) (k n : Nat) : State :=
  if !s.inFlow n k then s
  else
    let stop := s.frameStart (s.nextFrame k)
    (List.range 64).foldl (fun t x =>
      let st := t.stream (64 * n + x)
      let (t, from_) := match st.next with
        | some c => (t, c)
        | none =>
          let a := s.frameStart k
          (t.setStream (64 * n + x) { st with next := some a, zNext := (a + 2 ^ 48 - s.spikeWin / 2) % 2 ^ 48 }, a)
      let m := (ahead48 stop from_).toNat
      if m = 0 then t
      else (t.pushMissing n (x / 16) (x % 16) m true true).markLoss k (inputMask (s.groupInput n (x / 16)) (s.groupSize n))) s

/-- At the FT that starts frame `k`, a port with a drain pending enters DRAIN; the boundaries of a port in ALIGN that wait
for this FT are judged, and a port with a clean frame that kept the ticks enters UP (R24, R65 to R67). -/
def State.tickPort (s : State) (k n : Nat) : State :=
  if s.pstate n = 4 ∧ s.on ingPstateDrainPend n then
    ((s.setPort n { s.port n with useTo := some k }).set ingPstateDrainPend 0 n).portTo n 5
  else if s.pstate n = 3 then
    let (now, later) := (s.port n).judge.partition fun x => decide (s.aheadFrame (s.nextFrame x.1) k ≤ 0)
    let s1 := now.foldl (fun t x => t.judged n x.2.1 s.cycle x.2.2) (s.setPort n { s.port n with judge := later })
    if (s1.port n).good then (s1.setPort n { s1.port n with good := false }).portUp n k else s1
  else s

/-- Filtered samples of frames before `k` are no longer needed. -/
def State.trimChains (s : State) (k : Nat) : State :=
  { s with
    chains := s.chains.map fun e =>
      let st := s.stream (streamKey (e.1 / 4096) (e.1 / 16 % 256 / s.groupSize (e.1 / 4096)) (e.1 % 16))
      (e.1, { e.2 with zs := e.2.zs.take ((ahead48 st.zNext (s.frameStart k)).toNat) }) }

end Sys2Proof.Machine
end

