-- ==== Sys2Proof/Machine/Tables.lean ====
section
/-! DEFINITION. The tables an agent writes from outside: shadowed tables with their back-pressure (R35, R98, R99, R158,
R159, R171), flow contexts that are taken whole (R281), and the fills after a CHIP reset. -/

namespace Sys2Proof.Machine

/-- Delay registers C0 and F0 are held as the tables are: a held write to window offset `o` waits at this address. -/
def heldRegister (o : Nat) : Nat := 2 ^ 50 + o

/-- A write to a shadowed table waits: between seal point and FT (R35), or until its memory has been filled (R98, R159). -/
def State.blocked (s : State) (a : Nat) : Bool :=
  if 2 ^ 50 ≤ a then s.on tickStatusSealed || !s.on feStatusInitDone
  else match memKind a with
    | .table _ o => !s.on feStatusInitDone || (s.on tickStatusSealed && 0x1000000 ≤ o)
    | .weights false _ _ _ => s.filling || s.on tickStatusSealed
    | .thresholds false _ _ _ => s.on tickStatusSealed
    | _ => false

/-- Whether a write at a table's address is refused with the rejected-write event (R79, R99, R159, R171). -/
def State.tableRefused (s : State) (w : Who) (a : Nat) : Bool :=
  match memKind a with
  | .table _ o =>
    w.fn ≠ 0 || (o < 0x2000 && s.on tickCtrlRun) || (0x2000000 ≤ o && o < 0x2400000) || (0x3800000 ≤ o && o < 0x3802000)
  | .weights live r b _ => live || w.fn.val ≠ s.blockTen (12 * r + b)
  | .thresholds live _ t _ => !live && w.fn ≠ 0 && w.fn.val ≠ t
  | _ => false

/-- A write at a table's address lands: read-only views take nothing (R7); the words that the bytes marked bad reach take
POISON (R110). -/
def State.landTable (s : State) (a : Nat) (d : List Byte) (bad : List Bool) : State :=
  if 2 ^ 50 ≤ a then
    let bank := 1 - s.liveBank .dly
    let v := leVal d
    if a - 2 ^ 50 = feDlyC0.key 0 0 then { s with c0 := s.c0.put bank (v % 2 ^ 48) 0 }
    else { s with f0 := s.f0.put bank (v % 2 ^ 48 + v / 2 ^ 63 % 2 * 2 ^ 63) 0 }
  else match memKind a with
    | .weights true _ _ _ | .thresholds true _ _ _ => s
    | .table _ o => if 0x2000 ≤ o ∧ o < 0x1000000 then s else (s.putViews a d).spoil a bad
    | _ => (s.putViews a d).spoil a bad

/-- A write to a shadowed table arrives: refused, held, or landing in the inactive bank. One that is held is judged when it
arrives: a user coefficient lands at INIT_DONE even if RUN is 1 by then (R79, R98; log entry 110). -/
def State.tableWrite (s : State) (w : Who) (a : Nat) (d : List Byte) (bad : List Bool := []) : State :=
  if s.tableRefused w a then s.reject w a
  else if s.blocked a then { s with tick := { s.tick with held := s.tick.held ++ [⟨w, a, d, bad⟩] } }
  else s.landTable a d bad

/-- Held writes that nothing blocks any more land, in the order they came. -/
def State.landHeld (s : State) : State :=
  let go := s.tick.held.filter fun h => !s.blocked h.addr
  let stay := s.tick.held.filter fun h => s.blocked h.addr
  go.foldl (fun t h => t.landTable h.addr h.data h.bad) { s with tick := { s.tick with held := stay } }

/-- SHADOW_TABLE_WRITE (R35, R99, R158, R171): bytes at an internal address of a table view. -/
def execShadowTableWrite (w : Who) (addr : BitVec 48) (data : List Byte) (s : State) : Result :=
  .next (if isView addr.toNat && s.reachable w 0x1000000 then s.tableWrite w addr.toNat data else s)

/-- FE_INIT_DONE (R98): the tables are filled, and writes held for them land. -/
def execFeInitDone (s : State) : Result :=
  .next (if s.power.inReset then s else (s.set feStatusInitDone 1).landHeld)

/-- WEIGHT_INIT_DONE (R159): every weight of both banks reads 0. -/
def execWeightInitDone (s : State) : Result :=
  .next (if s.power.inReset || !s.filling then s
    else (({ (s.lose fun a => (inBanks a).isSome) with weighted := 15, filling := false })).landHeld)

/-! ## Flow contexts (R280, R281) -/

/-- The flow table's first address, and that of flow `f`. -/
def flowAddr (f : Nat) : Nat := 0x019000000000 + 16 * f

/-- The context of flow `f` as it acts; a context never written has EN = 0. -/
def State.flowCtx (s : State) (f : Nat) : List Byte := s.bytes (flowAddr f) 16

/-- One byte of a context is staged. -/
def State.stageByte (s : State) (f i : Nat) (b : Byte × Bool) : State :=
  { s with flowStage := s.flowStage.put f (setNth (s.flowStage.at f (List.replicate 16 none)) i (some b)) (List.replicate 16 none) }

/-- Staged bytes of one word of the flow table are stored, the others staying as they were (R258, R281). -/
def State.takeWord (s : State) (a : Nat) (l : List (Option (Byte × Bool))) : State :=
  let t := if l.all Option.isSome then s.store a (l.filterMap fun o => o.map (·.1))
    else (List.range l.length).foldl (fun t i =>
      match nth l i none with
      | some x => t.store (a + i) [x.1]
      | none => t) s
  t.spoil a (l.map fun o => o.any (·.2))

/-- The staged context is taken whole (R281): bytes not staged stay as they were. -/
def State.takeFlow (s : State) (f : Nat) : State :=
  let st := s.flowStage.at f (List.replicate 16 none)
  let s1 := { s with flowStage := s.flowStage.put f (List.replicate 16 none) (List.replicate 16 none) }
  (s1.takeWord (flowAddr f) (st.take 8)).takeWord (flowAddr f + 8) (st.drop 8)

/-- Bytes written in the flow table, each with whether it carries POISON: staged, a context being taken when its byte 15 is
written. -/
def State.flowWrite (s : State) (a : Nat) (d : List (Byte × Bool)) : State :=
  match d with
  | [] => s
  | b :: r =>
    let f := (a - 0x019000000000) / 16
    let s1 := s.stageByte f (a % 16) b
    State.flowWrite (if a % 16 = 15 then s1.takeFlow f else s1) (a + 1) r

end Sys2Proof.Machine
end

