-- ==== Sys2Proof/Machine/Mire.lean ====
section
/-! DEFINITION. The frame ring and the keep rings (R111, R114 to R122): slots and the frames they hold, the choice at
the seal point, freezing and thawing. -/

namespace Sys2Proof.Machine

/-- I, the chip's inputs (R111). -/
def State.chipInputs (s : State) : Nat := if s.wide then 1024 else 2048

/-- The size of a slot: C × I × L bytes (R111). -/
def State.slotSize (s : State) : Nat := 16 * s.chanP * s.chipInputs * s.lenL

/-- N, the slots of the full ring. -/
def State.ringSlots (s : State) : Nat := min 64 (max 2 (s.get mireCfgSlots))

/-- The base of the ring, and of working slot 0. -/
def State.ringBase (s : State) : Nat := s.get mireBaseValue * 4096

/-- The base of working slot 0. -/
def State.workBase (s : State) : Nat := s.get mireWorkValue * 4096

/-- The frame a ring slot holds. -/
def State.slotFrame (s : State) (x : Nat) : Option Nat := if s.on mireDirValid x then some (s.get mireDirFrame x) else none

/-- The slot of the full ring that holds frame `f`. -/
def State.ringSlotOf (s : State) (f : Nat) : Option Nat :=
  (List.range s.ringSlots).find? fun x => s.slotFrame x = some f

/-- The base of the ring or working slot that holds frame `f` (R105). -/
def State.slotOf (s : State) (f : Nat) : Option Nat :=
  match s.ringSlotOf f with
  | some x => some (s.ringBase + x * s.slotSize)
  | none => if s.mire.work.at (f % 2) none = some f then some (s.workBase + f % 2 * s.slotSize) else none

/-- The oldest frame the ring holds (R115). -/
def State.oldestFrame (s : State) : Nat :=
  let held := (List.range s.ringSlots).filterMap s.slotFrame
  match held with
  | [] => 0
  | f :: r => r.foldl (fun a b => if s.aheadFrame b a < 0 then b else a) f

/-- What `MIRE.MARK` reads: the mark, or the oldest held frame while it is not armed (R115). -/
def State.markFrame (s : State) : Nat := if s.on mireMarkArmed then s.get mireMarkFrame else s.oldestFrame

/-! ## Keep rings (R121) -/

/-- Tenancy `t`'s keep ring has slots. -/
def State.keepOn (s : State) (t : Nat) : Bool := 2 ≤ s.get mireKeepCfgSlots t

/-- The base of slot `x` of keep ring `t`. -/
def State.keepSlot (s : State) (t x : Nat) : Nat :=
  s.get mireKeepBaseValue t * 4096 + x * (s.get mireKeepCfgCount t * s.chipInputs * s.lenL)

/-- The base of the slot of keep ring `t` that holds frame `f`. -/
def State.keepOf (s : State) (t f : Nat) : Option Nat :=
  if !s.keepOn t then none
  else
    let x := f % s.get mireKeepCfgSlots t
    if s.mire.keepDir.at (65536 * t + x) none = some f then some (s.keepSlot t x) else none

/-! ## Requests (R117, R120) -/

/-- Whether tenancy `t` may freeze and thaw the full ring. -/
def State.mireAllowed (s : State) (t : Nat) : Bool := t = 0 || bit (s.get mireCfgAllow) t

/-- A request reaches the full ring: it replaces what is pending, or cancels it (R117). A repeated request leaves the earlier
one's acceptance as it was, and one that cancels after the seal point leaves the choice made there (log entries 114 and
115). -/
def State.ringRequest (s : State) (thaw : Bool) : State :=
  let pend := s.get mireStatusPend
  let want := if thaw then 2 else 1
  if s.on mireStatusFrozen = thaw then
    if pend = want then s
    else { s.set mireStatusPend want with mire := { s.mire with late := s.on tickStatusSealed } }
  else s.set mireStatusPend 0

/-- A request reaches tenancy `t`'s keep ring; a repeated one leaves the earlier one's acceptance as it was (log entry
114). -/
def State.keepRequest (s : State) (t : Nat) (thaw : Bool) : State :=
  if !s.keepOn t then s
  else
    let v := if bit s.mire.keepFrozen.toNat t = thaw then
        (match s.mire.keepPend.at t none with
          | some (th, l) => if th = thaw then some (th, l) else some (thaw, s.on tickStatusSealed)
          | none => some (thaw, s.on tickStatusSealed))
      else none
    { s with mire := { s.mire with keepPend := s.mire.keepPend.put t v none } }

/-- A freeze or thaw requested by tenancy `t`, by a host write or otherwise (R117, R120). -/
def State.mireRequest (s : State) (t : Nat) (thaw : Bool) : State := (s.ringRequest thaw).keepRequest t thaw

/-- A request of a source other than a host write: DENIED where it may not act on the full ring (R120). -/
def State.mireAsk (s : State) (t : Nat) (thaw : Bool) : State :=
  if s.mireAllowed t then s.mireRequest t thaw else (s.keepRequest t thaw).setW1c mireStatusDenied

/-- A write of `MIRE.CMD` (R117, R120): both bits at once are refused; a function that may not act on the full ring
still reaches its keep ring, and the rejected-write event is raised. -/
def State.writeMireCmd (s : State) (w : Who) (freeze thaw : Bool) : State :=
  s.guarded w (mireCmd.key 0 0) true fun s =>
    if freeze && thaw then s.reject w (mireCmd.key 0 0)
    else if !freeze && !thaw then s
    else if s.mireAllowed w.fn then s.mireRequest w.fn thaw
    else if w.path = .bar0 then (s.keepRequest w.fn thaw).reject w (mireCmd.key 0 0)
    else s.mireAsk w.fn thaw

/-- MIRE_CMD_FREEZE (R117). -/
def execMireCmdFreeze (w : Who) (s : State) : Result := .next (s.writeMireCmd w true false)

/-- MIRE_CMD_THAW (R117). -/
def execMireCmdThaw (w : Who) (s : State) : Result := .next (s.writeMireCmd w false true)

/-- A write of `MIRE.MARK` (R115). -/
def State.writeMireMark (s : State) (w : Who) (v : Nat) : State :=
  s.guarded0 w (mireMark.key 0 0) fun s =>
    if !bit v 63 then s.set mireMarkArmed 0
    else if (s.ringSlotOf (bits v 33 0)).isNone then s.reject w (mireMark.key 0 0)
    else (s.set mireMarkArmed 1).set mireMarkFrame (bits v 33 0)

/-- MIRE_MARK_WRITE (R115). -/
def execMireMarkWrite (w : Who) (v : BitVec 64) (s : State) : Result := .next (s.writeMireMark w v.toNat)

/-! ## The choice (R114, R116, R119) -/

/-- The slot after the last ring slot written; slot 0 after a CHIP reset. -/
def State.nextSlot (s : State) : Nat :=
  match s.mire.lastSlot with
  | none => 0
  | some x => (x + 1) % s.ringSlots

/-- A slot is chosen: it no longer holds its old frame. -/
def State.chooseSlot (s : State) (x : Nat) : State :=
  let t := s.set mireDirValid 0 x
  { t with mire := { t.mire with choice := .ring x } }

/-- No ring slot takes the next frame. -/
def State.chooseNone (s : State) : State := { s with mire := { s.mire with choice := .frozen } }

/-- The armed mark names the frame in slot `x`. -/
def State.markAt (s : State) (x : Nat) : Bool := s.on mireMarkArmed && s.slotFrame x = some (s.get mireMarkFrame)

/-- The mark moves to the frame in the slot after `x`, the new oldest; MARK_LOST, source 421 (R116). -/
def State.overtakeMark (s : State) (x : Nat) : State :=
  let next := (s.slotFrame ((x + 1) % s.ringSlots)).getD 0
  (((s.set mireMarkFrame next).setW1c mireStatusMarkLost).raise 421).chooseSlot x

/-- The ring's choice for the coming frame, made at the seal point or at the first FT (R114, R116, R119). -/
def State.mireChoice (s : State) : State :=
  let x := s.nextSlot
  let pend := if s.mire.late then 0 else s.get mireStatusPend
  if s.on mireStatusFrozen then
    if pend ≠ 2 then s.chooseNone
    else if !s.markAt x then s.chooseSlot x
    else if s.on mireCfgFoo then s.chooseNone
    else s.overtakeMark x
  else if pend = 1 then s.chooseNone
  else if !s.markAt x then s.chooseSlot x
  else if s.on mireCfgFoo then
    let t := s.chooseNone.set mireStatusPend 1
    { t with mire := { t.mire with late := false } }
  else s.overtakeMark x

/-- The frame in hand is complete: its slot's LIVE clears (R114). -/
def State.closeSlot (s : State) : State :=
  (List.range s.ringSlots).foldl (fun t x => if t.on mireDirValid x && t.on mireDirLive x then t.set mireDirLive 0 x else t) s

/-- What the FT that starts frame `k` does to the full ring (R114, R118, R119). -/
def State.tickRing (s : State) (k : Nat) : State :=
  let s := s.closeSlot
  let s := if s.mire.choice = .undecided then s.mireChoice else s
  let pend := if s.mire.late then 0 else s.get mireStatusPend
  let s1 := match s.mire.choice with
    | .ring x =>
      let t := ((s.set mireDirValid 1 x).set mireDirLive 1 x).set mireDirFrame k x
      let t := { t with mire := { t.mire with lastSlot := some x } }
      if pend = 2 && t.on mireStatusFrozen then ((t.set mireStatusFrozen 0).set mireStatusPend 0).raise 420 else t
    | _ =>
      let t := if pend = 1 && !s.on mireStatusFrozen then
          (((s.set mireStatusFrozen 1).set mireFrozenAtFrame k).set mireStatusPend 0).raise 419 else s
      if t.on mireWorkEn then { t with mire := { t.mire with work := t.mire.work.put (k % 2) (some k) none } }
      else (t.setW1c mireStatusStarve).raise 422
  { s1 with mire := { s1.mire with choice := .undecided, late := false } }

/-- What an FT does to keep ring `t`: a pending request accepted before the seal point takes effect (R117). -/
def State.tickKeep (s : State) (t : Nat) : State :=
  match s.mire.keepPend.at t none with
  | some (thaw, false) =>
    let m := 1#4 <<< t
    { s with mire := { s.mire with
        keepFrozen := if thaw then s.mire.keepFrozen &&& ~~~m else s.mire.keepFrozen ||| m
        keepPend := s.mire.keepPend.put t none none } }
  | some (thaw, true) => { s with mire := { s.mire with keepPend := s.mire.keepPend.put t (some (thaw, false)) none } }
  | none => s

/-- What the FT that starts frame `k` does to all rings. -/
def State.tickMire (s : State) (k : Nat) : State := (List.range 4).foldl State.tickKeep (s.tickRing k)

end Sys2Proof.Machine
end

