-- ==== Sys2Proof/Machine/Moves.lean ====
section
/-! DEFINITION. Move engines (R100 to R113, R121 to R124, R210): rings and doorbells, descriptors, the move itself, the
front-end stream, completion; and who may reach which memory (R19, R103, R356). -/

namespace Sys2Proof.Machine

/-! ## Sequencers, as far as moves touch them -/

/-- The number of a sequencer: block b of region r is 12r + b, context t is 48 + t. -/
def SeqId.num (q : SeqId) : Nat :=
  match q with
  | .blk r b => 12 * r + b
  | .ctx t => 48 + t

/-- A sequencer by its number. -/
def State.seq (s : State) (i : Nat) : Seq := s.seqs.at i {}

/-- `s` with another sequencer. -/
def State.setSeq (s : State) (i : Nat) (x : Seq) : State := { s with seqs := s.seqs.put i x {} }

/-- An event line of a block is set (R192). -/
def State.setLine (s : State) (blk line : Nat) : State :=
  let q := s.seq blk
  s.setSeq blk { q with evt := q.evt ||| (1#32 <<< line) }

/-- A sequencer state that leaves instruction memory writable: OFF, HALTED or FAULT (R183, R184). -/
def SeqState.idle (x : SeqState) : Bool :=
  match x with
  | .off | .halted | .fault => true
  | _ => false

/-! ## Reach (R19, R100, R103, R356) -/

/-- The tenancy whose DRAM range holds an address; 0 for the rest (R19). -/
def State.dramTen (s : State) (a : Nat) : Nat :=
  let g := a / 2 ^ 30
  let own := fun t => s.assigned t && s.get tenDramBase t ≤ g && decide (g < s.get tenDramBase t + s.get tenDramSize t)
  if own 1 then 1 else if own 2 then 2 else if own 3 then 3 else 0

/-- The tenancy whose flow range holds flow `f`; 0 for the rest (R19). -/
def State.flowTen (s : State) (f : Nat) : Nat :=
  let g := f / 64
  let own := fun t => s.assigned t && s.get tenFlowsBase t ≤ g && decide (g < s.get tenFlowsBase t + s.get tenFlowsCount t)
  if own 1 then 1 else if own 2 then 2 else if own 3 then 3 else 0

/-- The context whose window of conductor memory holds offset `o`: `instr` for the instruction memory (R184). -/
def State.cndOwner (s : State) (instr : Bool) (o : Nat) : Option Nat :=
  (List.range 4).find? fun t =>
    if instr then
      s.get cndMemIbase t * 4096 ≤ o && decide (o < (s.get cndMemIbase t + s.get cndMemIsize t) * 4096)
    else s.get cndMemDbase t * 8192 ≤ o && decide (o < (s.get cndMemDbase t + s.get cndMemDsize t) * 8192)

/-- Whether a byte belongs to what tenancy `t` reaches (R103, R356); host memory is every tenancy's own (R100). -/
def State.owns (s : State) (t a : Nat) : Bool :=
  match memKind a with
  | .dram _ => s.dramTen a = t
  | .block r b | .context r b _ | .imem r b | .weights _ r b _ => s.blockTen (12 * r + b) = t
  | .pool _ | .table _ _ | .stream _ | .templates => t = 0
  | .thresholds _ _ u _ => t = 0 || u = t
  | .flows => t = 0 || s.flowTen ((a - 0x019000000000) / 16) = t
  | .send f => s.flowTen f = t
  | .cndInstr => s.cndOwner true (a - 0x01A000000000) = some t || t = 0
  | .cndData => s.cndOwner false (a - 0x01A000100000) = some t || t = 0
  | .host => true
  | .state _ | .limits | .none => false

/-- Engine `e` reaches the memory at all (R100): host memory only through engines 12 to 15. -/
def engineReaches (e a : Nat) : Bool :=
  match memKind a with
  | .host => 12 ≤ e
  | .state _ | .limits | .none => false
  | _ => true

/-- The byte belongs to a program in use: the instruction memory of a block or context that is not OFF, HALTED or FAULT
(R183, R184). -/
def State.programBusy (s : State) (a : Nat) : Bool :=
  match memKind a with
  | .imem r b => !(s.seq (12 * r + b)).st.idle
  | .cndInstr =>
    (match s.cndOwner true (a - 0x01A000000000) with
      | some c => !(s.seq (48 + c)).st.idle
      | none => false)
  | _ => false

/-- A descriptor of tenancy `t` on engine `e` may read the byte. -/
def State.mayRead (s : State) (e t a : Nat) : Bool :=
  engineReaches e a && s.owns t a && (match memKind a with | .send _ => false | .stream _ => false | _ => true)

/-- A descriptor of tenancy `t` on engine `e` may write the byte: not a program in use (R183, R184), not what the weight
banks occupy (R156). -/
def State.mayWrite (s : State) (e t a : Nat) : Bool :=
  engineReaches e a && s.owns t a && !s.programBusy a &&
    (match memKind a with
      | .block r b => !s.on blkBeamEn r b || a % 0x1000000 < 0x100000
      | .context r b _ => !s.on blkBeamEn r b
      | .stream _ => false
      | _ => true)

/-! ## Descriptors (R102) -/

/-- The fields of a descriptor. -/
structure Desc where
  src    : Nat
  smode  : Nat
  dmode  : Nat
  mcast  : Nat
  dst    : Nat
  elem   : Nat
  shuf   : Nat
  k      : Nat
  qos    : Nat
  keep   : Bool
  ring   : Bool
  c0     : Nat
  c1     : Nat
  c2     : Nat
  ss0    : Int
  ds0    : Int
  ss1    : Int
  ds1    : Int
  ss2    : Int
  ds2    : Int
  frame  : Nat
  plane  : Int
  own    : Bool
  deriving DecidableEq, Repr

/-- A little-endian field of a descriptor. -/
def dfield (d : List Byte) (a n : Nat) : Nat := leVal (slice d a n)

/-- The fields of 64 bytes (R102); DMODE and SHUF with the bits above them, which must be 0. -/
def parseDesc (d : List Byte) : Desc :=
  { src := dfield d 0 6, smode := dfield d 6 1 % 4, dmode := dfield d 7 1 % 16, mcast := dfield d 7 1 / 16
    dst := dfield d 8 6, elem := dfield d 14 1, shuf := dfield d 15 1, k := dfield d 16 1
    qos := dfield d 17 1 % 16, keep := bit (dfield d 17 1) 4, ring := bit (dfield d 17 1) 5
    c0 := dfield d 18 2, c1 := dfield d 20 2, c2 := dfield d 22 2
    ss0 := sext 32 (dfield d 24 4), ds0 := sext 32 (dfield d 28 4), ss1 := sext 32 (dfield d 32 4)
    ds1 := sext 32 (dfield d 36 4), ss2 := sext 32 (dfield d 40 4), ds2 := sext 32 (dfield d 44 4)
    frame := dfield d 48 5 % 2 ^ 34, plane := sext 24 (dfield d 53 3), own := bit (dfield d 63 1) 7 }

/-- The elements of a descriptor. -/
def Desc.total (d : Desc) : Nat := d.c0 * d.c1 * d.c2

/-- The source is the front-end stream (R112). -/
def Desc.streaming (d : Desc) : Bool :=
  d.smode = 0 && (match memKind d.src with | .stream _ => true | _ => false)

/-- What R107 calls BADDESC. -/
def Desc.bad (d : Desc) : Bool :=
  d.elem = 0 || 64 < d.elem || (d.dmode ≠ 0 && d.dmode ≠ 2) || 3 < d.shuf || (d.mcast ≠ 0 && d.dmode ≠ 0)
    || (d.shuf = 1 && (d.k < 2 || 64 < d.k || d.c0 % d.k ≠ 0))
    || ((d.shuf = 2 || d.shuf = 3) && d.elem % 2 = 1)
    || (d.shuf = 3 && d.streaming)

/-- Where element `n` lies at the source, before any base (R103). -/
def Desc.srcAt (d : Desc) (n : Nat) : Int :=
  d.src + (n % d.c0 : Nat) * d.ss0 + (n / d.c0 % d.c1 : Nat) * d.ss1 + (n / d.c0 / d.c1 : Nat) * d.ss2

/-- Where element `n` goes, before any base, interleaved under SHUF 1 (R103, R104). -/
def Desc.dstAt (d : Desc) (n : Nat) : Int :=
  let i0 := n % d.c0
  let j := if d.shuf = 1 then let q := d.c0 / d.k; i0 % q * d.k + i0 / q else i0
  d.dst + (j : Nat) * d.ds0 + (n / d.c0 % d.c1 : Nat) * d.ds1 + (n / d.c0 / d.c1 : Nat) * d.ds2

/-- The pieces an element has at the source: offset and length (two planes under SHUF 3). -/
def Desc.srcPieces (d : Desc) (n : Nat) : List (Int × Nat) :=
  let a := d.srcAt n
  if d.shuf = 3 then [(a, d.elem / 2), (a + d.plane, d.elem / 2)] else [(a, d.elem)]

/-- The pieces an element has at the destination (two planes under SHUF 2). -/
def Desc.dstPieces (d : Desc) (n : Nat) : List (Int × Nat) :=
  let a := d.dstAt n
  if d.shuf = 2 then [(a, d.elem / 2), (a + d.plane, d.elem / 2)] else [(a, d.elem)]

/-- Real and imaginary nibble planes of a run of byte pairs (R104). -/
def splitPlanes (l : List (Byte × Bool)) : List (Byte × Bool) × List (Byte × Bool) :=
  match l with
  | (a, x) :: (b, y) :: r =>
    let (re, im) := splitPlanes r
    let hi := fun (v : Byte) => v.toNat / 16
    let lo := fun (v : Byte) => v.toNat % 16
    ((BitVec.ofNat 8 (hi a * 16 + hi b), x || y) :: re, (BitVec.ofNat 8 (lo a * 16 + lo b), x || y) :: im)
  | _ => ([], [])

/-- The inverse of the split (R104). -/
def mergePlanes (re im : List (Byte × Bool)) : List (Byte × Bool) :=
  match re, im with
  | (a, x) :: r, (b, y) :: i =>
    let hi := fun (v : Byte) => v.toNat / 16
    let lo := fun (v : Byte) => v.toNat % 16
    (BitVec.ofNat 8 (hi a * 16 + hi b), x || y) :: (BitVec.ofNat 8 (lo a * 16 + lo b), x || y) :: mergePlanes r i
  | _, _ => []

/-- What is written for what was read: one run per destination piece (R104). -/
def Desc.reshape (d : Desc) (l : List (Byte × Bool)) : List (List (Byte × Bool)) :=
  if d.shuf = 2 then let (re, im) := splitPlanes l; [re, im]
  else if d.shuf = 3 then [mergePlanes (l.take (d.elem / 2)) (l.drop (d.elem / 2))]
  else [l]

/-! ## Reading and writing as an engine does -/

/-- Bytes read by an engine, each with whether its word was bad: POISON, or TERR taken as POISON (R265). -/
def State.engineRead (s : State) (a n : Nat) : State × List (Byte × Bool) :=
  let (s1, bad) := (s.untrained a n).readWordList ((s.wordsBehind a n).filter fun w => s.service (8 * w) ≠ .terr)
  (s1, (List.range n).map fun i =>
    (s.viewByte (a + i),
      s.service (a + i) = .terr || (match s.behind (a + i) with | some x => bad.contains (x / 8) | none => false)))

/-- Bytes written by an engine in one memory; the words that bad bytes reach carry POISON (R110). A write a controller
answers with TERR leaves its bytes unwritten and is logged (R265); a program in use takes no byte (R183, R184). Second
result: refused. -/
def State.engineWrite (s : State) (w : Who) (a : Nat) (l : List (Byte × Bool)) : State × Bool :=
  if s.service a = .terr then ((s.untrained a l.length).error 3 (a / 8 * 8) 2 0, true)
  else if s.programBusy a then (s, true)
  else match memKind a with
  | .flows => (s.flowWrite a l, false)
  | .send _ | .stream _ | .none => (s, false)
  | .weights _ _ _ _ | .thresholds _ _ _ _ | .table _ _ => (s.tableWrite w a (l.map (·.1)) (l.map (·.2)), false)
  | _ => ((s.store a (l.map (·.1))).spoil a (l.map (·.2)), false)

/-- The DRAM bytes of an access count as tenancy `t`'s use in the frame (R44). -/
def State.useDram (s : State) (t a n : Nat) : State :=
  match memKind a with
  | .dram _ => { s with used := s.used.put t (s.used.at t 0 + n) 0 }
  | _ => s

/-! ## Slots (R105) -/

/-- A base added to a source or destination: an absolute address, or no slot at all. -/
inductive Base where
  | at (a : Nat) | missing
  deriving DecidableEq, Repr

/-- The base of the slot that holds a frame. -/
def State.slotBase (s : State) (f : Nat) : Base := match s.slotOf f with | some a => .at a | none => .missing

/-- The frame a job's source names (R105): the previous, the current, or FRAME. The slot that holds it is looked up when the
descriptor completes (log entry 113). -/
def State.jobFrame (s : State) (j : Job) (d : Desc) : Nat :=
  if d.smode = 1 then (j.frame + s.frameMod - 1) % s.frameMod
  else if d.smode = 2 then j.frame
  else d.frame

/-- The base of a job's source; SMODE 3 looks in the ring that RING selects, working slots aside (R118, R122). -/
def State.srcBase (s : State) (j : Job) (d : Desc) : Base :=
  if d.smode = 0 then .at 0
  else if d.smode = 3 then
    if d.ring then (match s.keepOf j.ten d.frame with | some a => .at a | none => .missing)
    else match s.ringSlotOf d.frame with
      | some x => .at (s.ringBase + x * s.slotSize)
      | none => .missing
  else s.slotBase (s.jobFrame j d)

/-- The destinations of an offset: one address, each selected pool, or nowhere. -/
def State.dstBases (s : State) (frame : Nat) (d : Desc) : List Nat :=
  if d.mcast ≠ 0 then ((List.range 4).filter fun n => bit d.mcast n).map regionBase
  else if d.dmode = 2 then (match s.slotOf frame with | some a => [a] | none => [])
  else [0]

/-- A signed address as an internal one; anything outside 48 bits reaches nothing. -/
def addrOf (x : Int) : Nat := if x < 0 then 2 ^ 48 else x.toNat

/-- The first and last byte of a piece. -/
def pieceEnds (base : Nat) (p : Int × Nat) : List Nat :=
  [addrOf (base + p.1), addrOf (base + p.1 + ((p.2 : Int) - 1))]

/-- The size of the slot a job's source lies in: of the keep ring that RING selects under SMODE 3, or of the full ring. -/
def State.srcSlotSize (s : State) (j : Job) (d : Desc) : Nat :=
  if d.smode = 3 && d.ring then s.get mireKeepCfgCount j.ten * s.chipInputs * s.lenL else s.slotSize

/-- Every slot base that DMODE 2 may add: that of the frame in hand, or of any slot for a stream, whose elements bring their
own frames (R105, R112). -/
def State.dstSlots (s : State) (j : Job) (d : Desc) : List Nat :=
  if d.streaming then
    ((List.range s.ringSlots).map fun x => s.ringBase + x * s.slotSize) ++
      (if s.on mireWorkEn then [s.workBase, s.workBase + s.slotSize] else [])
  else s.dstBases j.frame d

/-- Some runs of bytes, each with its length, in the order of where they begin. -/
def insertSpan (l : List (Nat × Nat)) (x : Nat × Nat) : List (Nat × Nat) :=
  match l with
  | [] => [x]
  | y :: r => if x.1 < y.1 then x :: y :: r else y :: insertSpan r x

/-- Where runs of bytes, in order, that leave no gap from `x` on end. -/
def spanEnd (l : List (Nat × Nat)) (x : Nat) : Option Nat :=
  match l with
  | [] => some x
  | (a, n) :: r => if x < a then none else spanEnd r (max x (a + n))

/-- The runs of bytes a descriptor writes at absolute addresses, in order. -/
def Desc.spans (d : Desc) : List (Nat × Nat) :=
  ((List.range d.total).flatMap fun n => (d.dstPieces n).map fun p => (addrOf p.1, p.2)).foldl insertSpan []

/-- Every byte a descriptor addresses lies within reach (R103), and a send window is addressed as R286 allows: offsets 0 to
S − 1 of one window, every one of them. A slot is read by any tenancy (R122), what lies outside it by its owner; a stream by
its own engine (R112); a pool offset stays in the pool (R105). -/
def State.inReach (s : State) (e : Nat) (j : Job) (d : Desc) : Bool :=
  let idx := List.range d.total
  let srcOk :=
    if d.streaming then
      idx.all fun n => (d.srcPieces n).all fun p => (pieceEnds 0 p).all fun a => memKind a = .stream e && s.owns j.ten a
    else match s.srcBase j d with
    | .missing => true
    | .at b => idx.all fun n => (d.srcPieces n).all fun p =>
        (d.smode ≠ 0 && decide (0 ≤ p.1 ∧ p.1 + p.2 ≤ s.srcSlotSize j d) && (pieceEnds b p).all (engineReaches e))
          || (pieceEnds b p).all (s.mayRead e j.ten)
  let dstOk := idx.all fun n => (d.dstPieces n).all fun p =>
    if d.mcast ≠ 0 then decide (0 ≤ p.1 ∧ p.1 + p.2 ≤ 0x2000000) && j.ten = 0
    else (s.dstSlots j d).all fun b => (pieceEnds b p).all fun a => s.mayWrite e j.ten a
  let inSend := fun (x : Nat × Nat) => [x.1, x.1 + (x.2 - 1)].any fun a =>
    match memKind a with | .send _ => true | _ => false
  let sendOk := d.mcast ≠ 0 || d.dmode = 2 || !d.spans.any inSend ||
    (let lo := (d.spans.headD (0, 0)).1
     match spanEnd d.spans lo with
     | some hi => decide (lo % 0x10000 = 0 ∧ hi ≤ lo + 0x10000)
     | none => false)
  srcOk && dstOk && sendOk

/-! ## Rings (R101, R123) -/

/-- An engine. -/
def State.engine (s : State) (e : Nat) : Engine := s.engines.at e {}

/-- `s` with another engine. -/
def State.setEngine (s : State) (e : Nat) (x : Engine) : State := { s with engines := s.engines.put e x {} }

/-- The entries of a ring: 2^SIZE, SIZE held within 4 to 16. -/
def State.ringSize (s : State) (e : Nat) : Nat := 2 ^ min 16 (max 4 (s.get mvRingCfgSize e))

/-- Occupancy: (TAIL − HEAD) mod 2^SIZE (R124). -/
def State.ringOcc (s : State) (e : Nat) : Nat :=
  (s.get mvTailValue e + s.ringSize e - s.get mvHeadValue e % s.ringSize e) % s.ringSize e

/-- BUSY: a descriptor is in progress. -/
def State.mvBusy (s : State) (e : Nat) : Bool := !(s.engine e).jobs.isEmpty

/-- The first `k` ring entries of some submissions, and every other submission. -/
def keepRing (l : List DescSource) (k : Nat) : List DescSource :=
  match l with
  | [] => []
  | w :: r => if w ≠ .ring then w :: keepRing r k else if k = 0 then keepRing r 0 else w :: keepRing r (k - 1)

/-- The engine has received the ring entries up to TAIL, no more and no fewer (R101, R210). -/
def State.receive (s : State) (e : Nat) : State :=
  let x := s.engine e
  let n := s.ringSize e
  let due := (s.get mvTailValue e + n - x.fetched % n) % n
  let got := (x.waiting.filter fun w => w = .ring).length
  s.setEngine e { x with waiting := keepRing x.waiting due ++ List.replicate (due - got) .ring }

/-- A write of `MVe.TAIL` by the ring's tenancy rings the doorbell (R101, R123). -/
def State.writeTail (s : State) (w : Who) (e v : Nat) : State :=
  s.guarded w (mvTail.key e 0) (w.fn.val = s.get mvRingCfgTen e) fun s =>
    let before := s.ringOcc e
    let s1 := s.set mvTailValue v e
    let s2 := if s1.on mvRingCfgEnable e then (s1.setEngine e { s1.engine e with stopped := false }).receive e else s1
    let occ := s2.ringOcc e
    let s3 := s2.peak mvPeakValue occ e
    if crosses (s.get mvWmValue e) before occ then (s3.setW1c mvStatusWm e).raise 418 else s3

/-- MV_DOORBELL (R101). -/
def execMvDoorbell (w : Who) (e : Fin 16) (tail : Word) (s : State) : Result := .next (s.writeTail w e tail.toNat)

/-- A write of `MVe.RING_CFG`: refused while BUSY. -/
def State.writeRingCfg (s : State) (w : Who) (e v : Nat) : State :=
  s.guarded0 w (mvRingCfg.key e 0) fun s =>
    if s.mvBusy e then s.reject w (mvRingCfg.key e 0)
    else
      let s1 := s.writeFieldsOf mvRingCfg e 0 v
      if bit v 31 then s1.receive e else s1

/-- MV_RING_CFG_WRITE (R101). -/
def execMvRingCfgWrite (w : Who) (e : Fin 16) (v : Word) (s : State) : Result := .next (s.writeRingCfg w e v.toNat)

/-! ## Taking a descriptor (R101, R103, R105, R108) -/

/-- The tenancy a descriptor acts for: its ring's, or its block's (R210). -/
def State.sourceTen (s : State) (e : Nat) (src : DescSource) : Nat :=
  match src with
  | .ring => s.get mvRingCfgTen e
  | .block blk _ _ _ => s.blockTen blk

/-- Where a descriptor lies: the ring's next entry, or the address MV.DESC gave. -/
def State.descAddr (s : State) (e : Nat) (src : DescSource) : Nat :=
  match src with
  | .ring => s.get mvRingBaseBase e * 64 + 64 * ((s.engine e).fetched % s.ringSize e)
  | .block blk a _ _ => blockBase (blk / 12) (blk % 12) + a

/-- The code a descriptor has before anything moves, if it has one (R107, R108). -/
def State.earlyCode (s : State) (e : Nat) (j : Job) (d : Desc) : Option Nat :=
  if d.total = 0 then some 1
  else if d.bad then some 4
  else if !s.inReach e j d then some 3
  else if d.smode = 3 && s.srcBase j d = .missing then some 5
  else none

/-- The frame and position at which a stream descriptor starts (R112). -/
def State.streamStart (s : State) (e : Nat) (n : Nat) : Option Nat × Nat :=
  match (((s.engine e).jobs.filter fun j => j.stream).getLast?) with
  | some j => (j.sframe, j.first + (parseDesc j.desc).total)
  | none => (((s.begun.at n none).map s.nextFrame), 0)

/-- The first waiting submission an engine may take: ring entries only while ENABLE is 1 and it is not stopped. -/
def State.nextSubmission (s : State) (e : Nat) : Option DescSource :=
  (s.engine e).waiting.find? fun w => w ≠ .ring || (s.on mvRingCfgEnable e && !(s.engine e).stopped)

/-- The 64 bytes of a descriptor as an engine fetches them: bytes of words that draw POISON or TERR are taken as they read
(log entry 111), and memory that the engine does not reach reads as 0 (R100; log entry 112). -/
def State.descBytes (s : State) (e a : Nat) : State × List Byte :=
  if engineReaches e a then
    let (s1, l) := s.engineRead a 64
    (s1, l.map (·.1))
  else (s, List.replicate 64 0)

/-- The engine takes its next descriptor (R101). -/
def State.fetchDesc (s : State) (e : Nat) : State :=
  match s.nextSubmission e with
  | none => s
  | some src =>
    let a := s.descAddr e src
    let (s0, raw) := s.descBytes e a
    let s1 := s0.useDram (s0.sourceTen e src) a 64
    let d := parseDesc raw
    let x := s1.engine e
    if src = .ring && !d.own then
      ((s1.setEngine e { x with stopped := true, waiting := x.waiting.filter fun w => w ≠ .ring }).setW1c mvStatusNotown e).raise 417
    else
      let ten := s1.sourceTen e src
      let j0 : Job := ⟨src, a, raw, ten, s1.frame, none, false, none, 0, 0, 0, false, 0, false, s1.cycle, none⟩
      let code := s1.earlyCode e j0 d
      let st := s1.streamStart e (d.src / 2 ^ 32 % 8)
      let str := code.isNone && d.streaming
      let j := { j0 with code := code, stream := str
                         sframe := if str then st.1 else none, first := if str then st.2 else 0 }
      s1.setEngine e { x with
        waiting := x.waiting.erase src
        jobs := x.jobs ++ [j]
        fetched := if src = .ring then (x.fetched + 1) % s1.ringSize e else x.fetched }

/-! ## Moving (R103, R104, R110, R121, R391) -/

/-- What a move has done so far. -/
structure Moved where
  st    : State
  bytes : Nat
  bad   : Bool
  ce    : Nat

/-- One element's bytes, as read, go to every destination. -/
def Moved.put (m : Moved) (w : Who) (d : Desc) (bases : List Nat) (n : Nat) (l : List (Byte × Bool)) : Moved :=
  let runs := (d.reshape l).zip (d.dstPieces n)
  let bad := l.any (·.2)
  bases.foldl (fun m b =>
    runs.foldl (fun m rp =>
      let (st, refused) := (m.st.useDram w.fn (addrOf (b + rp.2.1)) rp.1.length).engineWrite w (addrOf (b + rp.2.1)) rp.1
      { m with st := st, bytes := if refused then m.bytes else m.bytes + rp.1.length, bad := m.bad || refused }) m)
    { m with bad := m.bad || bad }

/-- One element is read: from its slot, or as flagged samples where the frame has none (R105). -/
def Moved.get (m : Moved) (w : Who) (base : Base) (d : Desc) (n : Nat) : Moved × List (Byte × Bool) :=
  match base with
  | .missing => (m, List.replicate d.elem (0x88, false))
  | .at b =>
    (d.srcPieces n).foldl (fun (r : Moved × List (Byte × Bool)) p =>
      let a := addrOf (b + p.1)
      let (st, l) := (r.1.st.useDram w.fn a p.2).engineRead a p.2
      ({ r.1 with st := st, ce := r.1.ce + r.1.st.correctableIn a p.2 }, r.2 ++ l)) (m, [])

/-- Elements `i` to `i + k − 1` are moved. -/
def Moved.run (m : Moved) (w : Who) (d : Desc) (base : Base) (bases : List Nat) (i k : Nat) : Moved :=
  match k with
  | 0 => m
  | k + 1 =>
    let (m1, l) := m.get w base d i
    (m1.put w d bases i l).run w d base bases (i + 1) k

/-- Some destination or source of a move is held by its controller or by back-pressure. -/
def State.moveHeld (s : State) (j : Job) (d : Desc) (k : Nat) : Bool :=
  (List.range k).any fun n =>
    ((d.dstPieces n).any fun p => (s.dstBases j.frame d).any fun b =>
      s.rangeHeld (addrOf (b + p.1)) p.2 || s.blocked (addrOf (b + p.1)))
    || (match s.srcBase j d with
        | .missing => false
        | .at b => (d.srcPieces n).any fun p => s.rangeHeld (addrOf (b + p.1)) p.2)

/-- Keep ring `t` covers chip fine channel `c` and takes frames. -/
def State.keepCovers (s : State) (t c : Nat) : Bool :=
  s.keepOn t && !bit s.mire.keepFrozen.toNat t && s.get mireKeepCfgFirst t ≤ c &&
    decide (c < s.get mireKeepCfgFirst t + min 256 (s.get mireKeepCfgCount t))

/-- One element that a kept multicast has read in the slot of frame `f`, `o` bytes from the slot's base, also goes to
keep ring `t`, with the same read. -/
def Moved.keepOne (m : Moved) (w : Who) (d : Desc) (f : Nat) (base : Base) (t n : Nat) (o : Int) : Moved :=
  let s := m.st
  let blk := s.chipInputs * s.lenL
  let c := o.toNat / blk
  if o < 0 || !s.keepCovers t c then m
  else
    let x := f % s.get mireKeepCfgSlots t
    let l := (m.get w base d n).2
    let s1 := { s with mire := { s.mire with keepDir := s.mire.keepDir.put (65536 * t + x) (some f) none } }
    let dst := s.keepSlot t x + (c - s.get mireKeepCfgFirst t) * blk + o.toNat % blk
    { m with st := ((s1.useDram w.fn (addrOf dst) l.length).engineWrite w (addrOf dst) l).1 }

/-- The channel blocks of frame `f` that a kept multicast reads also go to the keep rings that cover them (R121). -/
def Moved.keep (m : Moved) (w : Who) (d : Desc) (f : Nat) (base : Base) : Moved :=
  match base, m.st.slotOf f with
  | .at b, some a =>
    if !d.keep || d.mcast = 0 then m
    else (List.range 4).foldl (fun m t =>
      (List.range d.total).foldl (fun m n => m.keepOne w d f base t n (b + d.srcAt n - a)) m) m
  | _, _ => m

/-- The channel buffers that a multicast writes take the frame it read as their tag (R391). -/
def State.tagBuffers (s : State) (j : Job) (d : Desc) : State :=
  if d.mcast = 0 then s
  else
    let blk := s.chipInputs * s.lenL
    let f := if d.smode = 0 then (s.frame + s.frameMod - 1) % s.frameMod else s.jobFrame j d
    let touches := fun (x : Nat) => (List.range d.total).any fun n => (d.dstPieces n).any fun p =>
      decide (p.1 < ((x + 1) * blk : Nat) ∧ ((x * blk : Nat) : Int) < p.1 + p.2)
    (List.range 8).foldl (fun s i =>
      if bit d.mcast (i / 2) && touches (i % 2) then { s with bufTags := s.bufTags.put i (some f) none } else s) s

/-! ## Completion (R106, R107) -/

/-- The send window a descriptor writes. -/
def Desc.window (d : Desc) : Option Nat :=
  if d.mcast ≠ 0 || d.dmode ≠ 0 then none else match memKind d.dst with | .send f => some f | _ => none

/-- The bytes a descriptor puts into its send window, by offset, from its elements as read: later elements over earlier
ones. -/
def Desc.windowOf (d : Desc) (elements : List (List (Byte × Bool))) : List (Byte × Bool) :=
  (List.range d.total).foldl (fun (acc : List (Byte × Bool)) n =>
    ((d.reshape (nth elements n [])).zip (d.dstPieces n)).foldl (fun acc rp =>
      let o := (rp.2.1 % 0x10000).toNat
      let acc := acc ++ List.replicate (o + rp.1.length - acc.length) (0, false)
      acc.take o ++ rp.1 ++ acc.drop (o + rp.1.length)) acc) []

/-- A string cut into pieces of `len`. -/
def cutPackets {α : Type} (len : Nat) (l : List α) (fuel : Nat) : List (List α) :=
  match fuel, l with
  | 0, _ => []
  | _, [] => []
  | fuel + 1, l => l.take len :: cutPackets len (l.drop len) fuel

/-- The packets that a finished send window forms (R286): Data packets of DATALEN bytes, or for a RAW flow one packet, its
prefix still before it. A packet whose own bytes came from a bad word fails its check (R262). -/
def State.sendWindow (s : State) (f : Nat) (ten frame : Nat) (l : List (Byte × Bool)) : State :=
  let raw := bit (nth (s.flowCtx f) 10 0).toNat 2
  let len := if raw then l.length else if s.get egrDatalenBytes = 0 then 8192 else s.get egrDatalenBytes
  { s with prods := s.prods ++ (cutPackets len l l.length).mapIdx fun i p =>
      ({ ten := ten, type := 0x30, flow := f, frame := frame, block := i * len
         payload := p.map (·.1), crcBad := p.any (·.2) } : Product) }

/-- The writer a descriptor counts as, for refused writes (R366). -/
def tenWho (ten : Nat) : Who := ⟨.engine, Fin.ofNat 4 ten⟩

/-- Bytes 56 to 63 of a descriptor are written: BYTES, CHECK, STATUS and OWN (R106). Memory that the engine does not reach
takes nothing (R100; log entry 112). -/
def State.writeBack (s : State) (e ten a bytes ce : Nat) (bad : Bool) (code : Nat) : State :=
  let l := leBytes 4 (min bytes 0xFFFFFFFF) ++ leBytes 2 (min ce 255 + 256 * b2n bad) ++ [BitVec.ofNat 8 code, 0]
  if engineReaches e a then
    ((s.useDram ten (a + 56) 8).engineWrite (tenWho ten) (a + 56) (l.map fun b => (b, false))).1
  else s

/-- A descriptor completes with `code` (R106, R107, R210): write-back, FAULT, ring head and note, or event line and
barrier. -/
def State.completeJob (s : State) (e : Nat) (src : DescSource) (a ten bytes ce : Nat) (bad : Bool) (code : Nat) : State :=
  let s1 := s.writeBack e ten a bytes ce bad code
  let s2 := if 2 ≤ code then (s1.setW1c mvStatusFault e).raise 416 else s1
  match src with
  | .ring =>
    let i := s2.get mvHeadValue e
    let s3 := s2.set mvHeadValue ((i + 1) % s2.ringSize e) e
    if s3.on mvRingCfgNote e then
      s3.postNote ten ⟨1, 1, [BitVec.ofNat 32 (e * 65536 + i), BitVec.ofNat 32 (min bytes 0xFFFFFFFF),
        BitVec.ofNat 32 ((min ce 255 + 256 * b2n bad) * 256 + code)]⟩
    else s3
  | .block blk _ bar line =>
    let q := s2.seq blk
    let s3 := s2.setSeq blk { q with moves := q.moves.erase bar }
    match line with
    | some l => s3.setLine blk l
    | none => s3

/-- The elements of a replay that had been read when its slot stopped holding the frame reach their destinations (R122). -/
def Moved.runKept (m : Moved) (w : Who) (d : Desc) (bases : List Nat) (i : Nat)
    (l : List (List (Byte × Bool) × Nat)) : Moved :=
  match l with
  | [] => m
  | x :: r => ({ m with ce := m.ce + x.2 }.put w d bases i x.1).runKept w d bases (i + 1) r

/-- The elements of a replay as they read now. -/
def State.replayed (s : State) (w : Who) (base : Base) (d : Desc) : List (List (Byte × Bool) × Nat) :=
  (List.range d.total).map fun n =>
    let (m, l) := ({ st := s, bytes := 0, bad := false, ce := 0 } : Moved).get w base d n
    (l, m.ce)

/-- A change after which a slot may no longer hold its frame: each replay in progress keeps what its slot held (R122). -/
def State.losing (s : State) (f : State → State) : State :=
  let t := f s
  let keep := fun (j : Job) =>
    let d := parseDesc j.desc
    if j.code.isNone && !j.stream && d.smode = 3 && j.kept.isNone && s.srcBase j d ≠ .missing && t.srcBase j d = .missing then
      { j with kept := some (s.replayed (tenWho j.ten) (s.srcBase j d) d) }
    else j
  { t with engines := t.engines.map fun (x : Nat × Engine) => (x.1, { x.2 with jobs := x.2.jobs.map keep }) }

/-- What a descriptor does when it completes: code, what moved, and the packets its send window forms. -/
def State.moveAll (s : State) (j : Job) (d : Desc) (k : Nat) : Moved × Nat :=
  let w := tenWho j.ten
  let base := s.srcBase j d
  let m0 : Moved := { st := s, bytes := 0, bad := false, ce := 0 }
  let bases := s.dstBases j.frame d
  if (List.range d.total).any fun n => (d.dstPieces n).any fun p => bases.any fun b =>
      (pieceEnds b p).any s.programBusy then (m0, 3)
  else
    let lost := d.smode = 3 && (j.kept.isSome || base = .missing)
    let seen := if k < d.total then (j.kept.getD []).take k else j.kept.getD []
    let m1 := if lost then m0.runKept w d bases 0 seen
      else (m0.run w d base bases 0 d.total).keep w d ((j.frame + s.frameMod - 1) % s.frameMod) base
    if lost && decide (seen.length < d.total) then (m1, 5)
    else
      let s1 := m1.st.tagBuffers j d
      let s2 := match d.window with
        | some f => s1.sendWindow f j.ten (if d.smode = 3 then d.frame else 0)
            (d.windowOf ((if lost then seen else s.replayed w base d).map (·.1)))
        | none => s1
      ({ m1 with st := s2 }, if m1.bad then 2 else 0)

/-- The oldest descriptor in progress moves its elements and completes; `k` elements had been read when its slot was lost, if
it was (R122). -/
def State.finishJob (s : State) (e : Nat) (j : Job) (k : Nat) : State :=
  let d := parseDesc j.desc
  let x := s.engine e
  let s0 := s.setEngine e { x with jobs := x.jobs.drop 1 }
  match j.code with
  | some c => s0.completeJob e j.src j.addr j.ten 0 0 false c
  | none =>
    if j.stream then s0.completeJob e j.src j.addr j.ten j.bytes j.ce j.bad (if j.bad then 2 else 0)
    else
      let (m, c) := s0.moveAll j d k
      m.st.completeJob e j.src j.addr j.ten m.bytes m.ce m.bad c

/-! ## The front-end stream (R112) -/

/-- An element passes a stream descriptor in progress: moved if its position is the descriptor's. -/
def State.streamElement (s : State) (j : Job) (x : Element) : State × Job :=
  let d := parseDesc j.desc
  let perTime := 16 * s.chanP * 4
  let pos := (x.t * (16 * s.chanP) + x.c) * 4 + x.g
  let f0 := j.sframe.getD x.frame
  let lead := s.aheadFrame x.frame f0
  let lin := lead * (s.lenL * perTime : Nat) + pos - j.first
  if lin < 0 ∨ (d.total : Int) ≤ lin then (s, j)
  else
    let n := lin.toNat
    let l := (x.bytes.take d.elem).map fun b => (b, false)
    let m := ({ st := s, bytes := 0, bad := false, ce := 0 } : Moved).put (tenWho j.ten) d (s.dstBases x.frame d) n l
    (m.st, { j with sframe := some f0, taken := j.taken + 1, bytes := j.bytes + m.bytes, bad := j.bad || m.bad })

/-- The jobs of an engine see an element. -/
def State.streamJobs (s : State) (js : List Job) (x : Element) : State × List Job :=
  match js with
  | [] => (s, [])
  | j :: r =>
    let (s1, j1) := if j.stream then s.streamElement j x else (s, j)
    let (s2, r1) := s1.streamJobs r x
    (s2, j1 :: r1)

/-- An element leaves the front end: it begins its frame, passes the descriptors of engine `port`, and enters the beam
staging (R112, R154). -/
def State.deliver (s : State) (x : Element) : State :=
  let late := match s.begun.at x.port none with | none => false | some f => decide (s.aheadFrame x.frame f ≤ 0)
  let en := s.engine x.port
  let (s1, js) := s.streamJobs en.jobs x
  let s2 := s1.setEngine x.port { s1.engine x.port with jobs := js }
  { s2 with
    begun := if late then s2.begun else s2.begun.put x.port (some x.frame) none
    staging := s2.staging ++ [x] }

/-! ## Cancelling (R109) -/

/-- The descriptors of a block that no engine has started complete with ABORT. -/
def State.abortMoves (s : State) (blk : Nat) : State :=
  (List.range 16).foldl (fun s e =>
    let x := s.engine e
    let mine := fun (w : DescSource) => match w with | .block b _ _ _ => b = blk | .ring => false
    let s1 := s.setEngine e { x with waiting := x.waiting.filter fun w => !mine w }
    (x.waiting.filter mine).foldl (fun s w => s.completeJob e w (s.descAddr e w) (s.sourceTen e w) 0 0 false 6) s1) s

end Sys2Proof.Machine
end

