-- ==== Sys2Proof/Machine/FrontEnd.lean ====
section
/-! DEFINITION. The front end behind the spike filter (R84 to R99, R263, R264): the polyphase filter bank, the hold, the
delay and phase engine, the equaliser and requantiser, and the twin lane that checks them. -/

namespace Sys2Proof.Machine

/-! ## Controls (R79, R81, R96) -/

/-- D_fe of the active row in coarse samples (R89). -/
def State.dfe (s : State) : Nat := s.chanP * s.taps + s.spikeWin / 2 + 26

/-- A write of `FE.CFG` (R79, R89). -/
def State.writeFeCfg (s : State) (w : Who) (v : Nat) : State :=
  s.guarded0 w (feCfg.key 0 0) fun s =>
    if s.on tickCtrlRun || 5 ≤ bits v 2 0 then s.reject w (feCfg.key 0 0)
    else
      let t := s.writeFieldsOf feCfg 0 0 v
      (if t.chanP = s.chanP then t else t.renumber).set feDfeSamples t.dfe

/-- FE_CFG_WRITE (R79). -/
def execFeCfgWrite (w : Who) (v : Word) (s : State) : Result := .next (s.writeFeCfg w v.toNat)

/-- A write of `FEn.CTRL` or `FEn.SPIKE`; it acts at FE_CTRL_EFFECT. -/
def State.writeFeCtrl (s : State) (w : Who) (n : Nat) (spike : Bool) (v : Nat) : State :=
  let r := if spike then feSpike else feCtrl
  s.guarded0 w (r.key n 0) fun s => s.writeFieldsOf r n 0 v

/-- FE_CTRL_WRITE (R81). -/
def execFeCtrlWrite (w : Who) (n : Fin 8) (spike : Bool) (v : Word) (s : State) : Result :=
  .next (s.writeFeCtrl w n spike v.toNat)

/-- The COUNTER of the next coarse sample of every stream of port `n` that has one. -/
def State.nextSamples (s : State) (n : Nat) : List Nat := (List.range 64).filterMap fun x => (s.stream (64 * n + x)).next

/-- The extreme of some COUNTERs: the foremost, or the hindmost. -/
def farthest (front : Bool) (l : List Nat) : Option Nat :=
  match l with
  | [] => none
  | x :: r => some (r.foldl (fun m y => if decide (0 < ahead48 y m) = front then y else m) x)

/-- The entries that still act on some sample, the hindmost being at `slow`. -/
def entriesFrom (slow : Option Nat) (l : List (Nat × Nat × Option Nat)) : List (Nat × Nat × Option Nat) :=
  match l with
  | [] => []
  | x :: r => if (match slow, x.2.2 with | some c, some d => decide (ahead48 c d < 0) | _, _ => false) then
      x :: entriesFrom slow r else [x]

/-- FE_CTRL_EFFECT (R81): what `FEn.CTRL` and `FEn.SPIKE` hold acts, in every stream of the port, from the coarse sample on
that its foremost stream takes next. -/
def execFeCtrlEffect (n : Fin 8) (s : State) : Result :=
  let l := s.nextSamples n
  let new := (s.reg feCtrl n 0, s.reg feSpike n 0, farthest true l)
  .next { s with
    feActive := s.feActive.put n (entriesFrom (farthest false l) (new :: s.feActive.at n [])) [] }

/-- CLRCNT of a port (R96): counters, snapshot, CNT_PFBSAT and CNT_HOLDOVF. -/
def State.clearFeCounts (s : State) (n : Nat) : State :=
  (({ s with
      counts := Sparse.drop s.counts fun k => k / 768 = n
      countsNext := Sparse.drop s.countsNext fun k => k / 768 = n
      snapshot := Sparse.drop s.snapshot fun k => k / 768 = n } : State).setReg feCnt n 0 0).setReg feCnt n 1 0

/-- A write of `FEn.CMD`. -/
def State.writeFeCmd (s : State) (w : Who) (n v : Nat) : State :=
  s.guarded0 w (feCmd.key n 0) fun s =>
    let s := if bit v 1 then s.clearFeCounts n else s
    if bit v 0 then { s with dcClear := s.dcClear ||| (1#8 <<< n) } else s

/-- DC_CLR (R81): at the next coarse sample. -/
def execDcClr (w : Who) (n : Fin 8) (s : State) : Result := .next (s.writeFeCmd w n 1)

/-- FE_CLRCNT (R96). -/
def execFeClrcnt (w : Who) (n : Fin 8) (s : State) : Result := .next (s.writeFeCmd w n 2)

/-! ## The filter bank (R84, R87) -/

/-- sat_w of a value, and 1 when the clamp acted. -/
def satCount (w : Nat) (v : Int) : Int × Nat := (satW w v, b2n (satW w v ≠ v))

/-- The coefficients in use: the factory table, or the engine's user table (R88). -/
def State.coefs (s : State) (n : Nat) : List Int :=
  if s.on feCfgCoefSrc then (List.range (s.chanP * s.taps)).map fun i => sext 18 (s.coef.at (2048 * n + i) 0)
  else factoryTable s.chanP s.taps

/-- The words of the user coefficients in use are read; one that fails its check is used as 0 and rewritten as 0. The second
result tells whether one did (R265; log entry 124). -/
def State.checkCoefs (s : State) (n : Nat) : State × Bool :=
  if !s.on feCfgCoefSrc then (s, false)
  else (s.markedIn (stateBase n) (stateBase n + 4 * (s.chanP * s.taps))).foldl (fun (a : State × Bool) w =>
    let (t, bad) := a.1.readWord (8 * w)
    if bad then
      let k := 2048 * n + (8 * w - stateBase n) / 4
      ({ t.setMark w .clean with coef := (t.coef.put k 0 0).put (k + 1) 0 0 }, true)
    else (t, a.2)) (s, false)

/-- The FIR sum of phase `p` over one part of a window, oldest sample first. -/
def firSum (h ys : List Int) (P p : Nat) (T : Nat) : Int :=
  match T with
  | 0 => 0
  | j + 1 => firSum h ys P p j + nth h (j * P + p) 0 * nth ys (j * P + p) 0

/-- One output of native butterfly stage with span `span`, twiddle step `step` and shift `sh`; the clamps that acted. -/
def nativeOut (P span step sh : Nat) (x : List (Int × Int)) (r : Nat) : (Int × Int) × Nat :=
  let j := r % (2 * span)
  if j < span then
    let a := nth x r (0, 0)
    let b := nth x (r + span) (0, 0)
    let (u, c) := satCount 18 (roundC (a.1 + b.1) sh)
    let (v, d) := satCount 18 (roundC (a.2 + b.2) sh)
    ((u, v), c + d)
  else
    let a := nth x (r - span) (0, 0)
    let b := nth x r (0, 0)
    let k := (j - span) * step
    let dr := a.1 - b.1
    let di := a.2 - b.2
    if k = 0 then
      let (u, c) := satCount 18 (roundC dr sh)
      let (v, d) := satCount 18 (roundC di sh)
      ((u, v), c + d)
    else
      let wr := satW 18 (cosScaled 131072 k P)
      let wi := satW 18 (sinScaled (-131072) k P)
      let (u, c) := satCount 18 (roundC (dr * wr - di * wi) (17 + sh))
      let (v, d) := satCount 18 (roundC (dr * wi + di * wr) (17 + sh))
      ((u, v), c + d)

/-- The stages of the native transform from stage `st` on. -/
def nativeStages (P shift st n : Nat) (x : List (Int × Int)) (sat : Nat) : List (Int × Int) × Nat :=
  match n with
  | 0 => (x, sat)
  | n + 1 =>
    let outs := (List.range P).map (nativeOut P (P / 2 ^ (st + 1)) (2 ^ st) (b2n (bit shift st)) x)
    nativeStages P shift (st + 1) n (outs.map (·.1)) (sat + (outs.map (·.2)).sum)

/-- One output of an N512 butterfly (R87). -/
def n512Out (P span step : Nat) (x : List (Int × Int)) (r : Nat) : Int × Int :=
  let j := r % (2 * span)
  if j < span then
    let a := nth x r (0, 0)
    let b := nth x (r + span) (0, 0)
    (a.1 + b.1, a.2 + b.2)
  else
    let a := nth x (r - span) (0, 0)
    let b := nth x r (0, 0)
    let k := (j - span) * step
    let dr := a.1 - b.1
    let di := a.2 - b.2
    let wr := cosScaled 32767 k P
    let wi := sinScaled (-32767) k P
    ((dr * wr - di * wi) / 32768, (dr * wi + di * wr) / 32768)

/-- The stages of the N512 transform. -/
def n512Stages (P st n : Nat) (x : List (Int × Int)) : List (Int × Int) :=
  match n with
  | 0 => x
  | n + 1 => n512Stages P (st + 1) n ((List.range P).map (n512Out P (P / 2 ^ (st + 1)) (2 ^ st) x))

/-- The bank's P fine channels, in order of m, of a window of both parts, oldest first, and how often a clamp acted. -/
def State.filterBank (s : State) (h : List Int) (re im : List Int) : List (Int × Int) × Nat :=
  let P := s.chanP
  let lg := Nat.log2 P
  let shift := s.get feCfgFftShift
  let byChan := fun (x : List (Int × Int)) => (List.range P).map fun m => nth x (bitrev lg ((m + P / 2) % P)) (0, 0)
  if s.on feCfgN512 then
    let v := (List.range P).map fun p => (firSum h re P p s.taps, firSum h im P p s.taps)
    let halves := ((List.range lg).filter fun i => bit shift i).length
    let wrap := fun (x : Int) => sext 18 (toBits 18 (x / (2 ^ (12 + halves) : Nat)))
    (byChan ((n512Stages P 0 lg v).map fun x => (wrap x.1, wrap x.2)), 0)
  else
    let v := (List.range P).map fun p =>
      (satCount 18 (roundC (firSum h re P p s.taps) 12), satCount 18 (roundC (firSum h im P p s.taps) 12))
    let sat := (v.map fun x => x.1.2 + x.2.2).sum
    let (x, n) := nativeStages P shift 0 lg (v.map fun x => (x.1.1, x.2.1)) sat
    (byChan x, n)

/-- The filtered sample of a chain at COUNTER `c`; one that has not come counts as lost (R63). -/
def State.filtered (s : State) (key : Nat) (st : Stream) (c : Nat) : FeSample :=
  let d := ahead48 st.zNext c
  if d ≤ 0 then ⟨0, 0, true, true, false⟩ else nth (s.chain key).zs (d.toNat - 1) FeSample.none

/-- One input's fine sample: whether it is flagged (R86), whether a lost sample flagged it, its fine channels, and the
clamps that acted. -/
def State.fineInput (s : State) (h : List Int) (n i j start : Nat) (st : Stream) :
    Bool × Bool × List (Int × Int) × Nat :=
  let win := (List.range (s.chanP * s.taps)).map fun q => s.filtered (chainKey n i j) st ((start + q) % 2 ^ 48)
  let bad := (win.filter fun x => x.flagged).length
  let flagged := s.get feFlaglimLimit < bad || bad = s.chanP * s.taps || win.any (·.bad)
  let (x, n) := s.filterBank h (win.map (·.re)) (win.map (·.im))
  (flagged, flagged && win.any (·.lost), x, n)

/-! ## The delay and phase engine (R92, R93) -/

/-- tau_i for frame `k` under delay bank `bank`, in units of 2^-40 coarse periods. -/
def State.tau (s : State) (bank n i k : Nat) : Int :=
  let word := fun (x : Nat) => s.poly.at ((bank * 8 + n) * 2048 + 8 * i + x) 0 % 2 ^ 32
  let d := fun (x : Nat) => sext 64 (word (2 * x) + word (2 * x + 1) * 2 ^ 32)
  let mid := (s.frameStart k + s.frameLen / 2) % 2 ^ 48
  let u := ahead48 mid (s.c0.at bank 0)
  let num := d 0 * 2 ^ 72 + d 1 * u * 2 ^ 48 + d 2 * u ^ 2 * 2 ^ 24 + d 3 * u ^ 3
  clampInt (-(2 ^ 63)) (2 ^ 63) (roundC num 72)

/-- The phasor index of chip fine channel `c` for a delay. -/
def State.phasorIndex (s : State) (bank c : Nat) (tau : Int) : Nat :=
  let f := s.f0.at bank 0
  let P := s.chanP
  let off : Int := (c : Int) * 2 ^ 32
  let nu : Int := (f % 2 ^ 48 : Nat) * P + (if bit f 63 then -off else off)
  (roundDiv (nu * tau * 2 ^ 14) (2 ^ 72 * P) % 16384).toNat

/-- Φ in Q1.15; index 0 is exactly 1. -/
def phasor (q : Nat) : Int × Int :=
  if q = 0 then (32768, 0) else (cosScaled 32767 q 16384, sinScaled 32767 q 16384)

/-! ## Equaliser and requantiser (R94, R95) -/

/-- A part after the requantiser, and whether it needed limiting. -/
def requant (z : Int) : Int × Bool :=
  let r := roundC z 36
  (clampInt (-7) 7 r, decide (r < -7 ∨ 7 < r))

/-- The byte of an equalised sample, and how many of its parts needed limiting. -/
def State.equalise (s : State) (gbank bank n i c : Nat) (tau : Int) (x : Int × Int) : Byte × Nat :=
  let g := s.gain.at ((gbank * 8 + n) * 1048576 + 4096 * i + c) 0x2000
  let gr := sext 16 (g % 65536)
  let gi := sext 16 (g / 65536)
  let p := phasor (s.phasorIndex bank c tau)
  let yr := x.1 * gr - x.2 * gi
  let yi := x.1 * gi + x.2 * gr
  let (re, a) := requant (yr * p.1 - yi * p.2)
  let (im, b) := requant (yr * p.2 + yi * p.1)
  (BitVec.ofNat 8 (toBits 4 re * 16 + toBits 4 im), b2n a + b2n b)

/-- A gain or polynomial entry that serves this sample is bad (R265). -/
def State.badEntry (s : State) (gbank bank n i c : Nat) : Bool :=
  s.badGain.contains ((gbank * 8 + n) * 1048576 + 4096 * i + c)
    || (List.range 8).any fun x => s.badGain.contains (2 ^ 40 + (bank * 8 + n) * 2048 + 8 * i + x)

/-- The entries of the gain and polynomial banks in one word. -/
def wordKeys (n w : Nat) : List Nat :=
  let o := 8 * w - stateBase n
  let k :=
    if o < 0x3000000 then ((o / 0x1000000 - 1) * 8 + n) * 1048576 + o % 0x1000000 / 4
    else 2 ^ 40 + ((o - 0x3000000) / 0x800000 * 8 + n) * 2048 + o % 0x800000 / 4
  [k, k + 1]

/-- A word of those banks is read; one that fails its check is rewritten with UNWRITTEN, and its entries are bad until they
are written (R265). -/
def State.readEntry (s : State) (n w : Nat) : State :=
  let old := s.mark (8 * w)
  let (t, bad) := s.readWord (8 * w)
  if bad && old ≠ .unwritten then { t.setMark w .unwritten with badGain := (wordKeys n w).foldl insertKey t.badGain } else t

/-- The gain and polynomial words that serve the samples of channel `c` of inputs `lo` to `lo + size - 1` are read. -/
def State.readEntries (s : State) (gbank bank n lo size c : Nat) : State :=
  let g := stateBase n + 0x1000000 * (1 + gbank)
  let p := stateBase n + 0x3000000 + 0x800000 * bank
  let gains := (s.markedIn (g + 16384 * lo) (g + 16384 * (lo + size))).filter fun w => (8 * w - g) / 4 % 4096 / 2 = c / 2
  (gains ++ s.markedIn (p + 32 * lo) (p + 32 * (lo + size))).foldl (fun t w => t.readEntry n w) s

/-! ## The twin lane (R263, R264) -/

/-- A twin. -/
def State.twin (s : State) (n : Nat) : Twin := s.twins.at n {}

/-- The lane the twin compares in frame `k`, unless comparison has stopped. -/
def State.twinLaneAt (s : State) (n k : Nat) : Option Nat :=
  let w := s.twin n
  let next := s.tick.seen && k ≠ s.frame
  if w.subst || (next && s.on twinHard n) then none
  else some (if next && !w.bad then (s.get twinLane n + 1) % 16 else s.get twinLane n)

/-- One mismatching word of the twin in frame `k`. -/
def State.twinMismatch (s : State) (n j k : Nat) : State :=
  let w := s.twin n
  let next := s.tick.seen && k ≠ s.frame
  let rep := if next then w.bad else w.repeated
  let s1 := ((s.count Sys2Proof.Machine.twinMismatch 1 n).error 3 (16 * n + j) 7 0).chipErr 5
  let s2 := { s1 with twins := s1.twins.put n (if next then { w with early := true } else { w with bad := true }) {} }
  if rep && !s2.on twinHard n then
    (((s2.error 3 (16 * n + j) 8 0).set twinHard 1 n).set twinHardLane j n).chipErr 6
  else s2

/-- The element bytes with every differing word flagged. -/
def flagWords (m : Nat) (differs : List (Nat × Nat)) (l : List Byte) : List Byte :=
  (List.range l.length).map fun i => if differs.contains (m, i / 8) then 0x88 else nth l i 0

/-- What an FT does to the twin of engine `n`. -/
def State.tickTwin (s : State) (n : Nat) : State :=
  let w := s.twin n
  let put := fun (t : State) (x : Twin) => { t with twins := t.twins.put n x {} }
  if w.subst then s
  else if s.on twinHard n then put s { subst := true }
  else if w.bad then put s { bad := w.early, repeated := true }
  else put (s.set twinLane ((s.get twinLane n + 1) % 16) n) { bad := w.early }

/-- REARM (R264): substitution ends, and rotation resumes at lane 0. -/
def State.rearm (s : State) (n : Nat) : State :=
  ({ s with twins := s.twins.put n {} {} } : State).setReg Sys2Proof.Machine.twin n 0 (setBits (s.reg Sys2Proof.Machine.twin n 0) 31 31 0 / 16 * 16)

/-- A write of `TWINn`. -/
def State.writeTwin (s : State) (w : Who) (n v : Nat) : State :=
  s.guarded0 w (Sys2Proof.Machine.twin.key n 0) fun s => if bit v 30 then s.rearm n else s

/-- TWIN_REARM (R264). -/
def execTwinRearm (w : Who) (n : Fin 8) (s : State) : Result := .next (s.writeTwin w n (2 ^ 30))

/-! ## Fine samples on their way out -/

/-- The fine sample leaves as elements, one per fine channel, through the requantiser (R94, R95, R112). `ahead` when it
is one of the coming frame, so that the banks that go live at the next FT serve it (R90); `all` when it leaves flagged
whatever it holds. -/
def State.emitFine (s : State) (n : Nat) (ahead all : Bool) (x : Fine) : State :=
  let swap := fun (t : Table) => ahead && s.tick.swapNext.contains t
  let gbank := (s.liveBank .eq + b2n (swap .eq)) % 2
  let bank := (s.liveBank .dly + b2n (swap .dly)) % 2
  let size := x.cols.length
  let taus := (List.range size).map fun i => if all then 0 else s.tau bank n (size * x.g + i) x.frame
  let lane := s.twinLaneAt n x.frame
  (List.range s.chanP).foldl (fun t m =>
    let c := s.chanP * x.j + m
    let t := if all then t else t.readEntries gbank bank n (size * x.g) size c
    let r := (List.range size).map fun i =>
      let col := nth x.cols i (true, [])
      let inp := size * x.g + i
      if all || col.1 || t.badEntry gbank bank n inp c then ((0x88 : Byte), 0)
      else s.equalise gbank bank n inp c (nth taus i 0) (nth col.2 m (0, 0))
    let t := (List.range size).foldl (fun t i =>
      let sat := (nth r i (0, 0)).2
      if sat = 0 then t else t.addCount ahead n (size * x.g + i) 2 sat) t
    let bytes := r.map (·.1)
    let (t, bytes) := if lane = some x.j && !all then
        let hit := x.differs.filter fun d => d.1 = m ∧ d.2 * 8 < size
        (hit.foldl (fun t _ => t.twinMismatch n x.j x.frame) t, flagWords m hit bytes)
      else (t, bytes)
    t.deliver ⟨n, x.g, x.frame, x.t, c, bytes⟩) s

/-- Fine samples the hold of a port takes: 80 µs of them (R91). -/
def State.holdMax (s : State) : Nat := 64 * 625 / s.chanP

/-- A fine sample of the coming frame waits in the hold; when it is full, the oldest leaves flagged (R91). -/
def State.holdFine (s : State) (n : Nat) (x : Fine) : State :=
  let l := s.hold.at n []
  let s1 := { s with hold := s.hold.put n (l ++ [x]) [] }
  match l with
  | old :: rest =>
    if s.holdMax ≤ l.length then
      (({ s with hold := s.hold.put n (rest ++ [x]) [] } : State).emitFine n true true old |>.count feCntCount
        old.cols.length n 1).setW1c feStatusNHoldOvf n
    else s1
  | [] => s1

/-- The fine sample that stream `key` forms next in frame `k`. -/
def State.nextFine (s : State) (key k : Nat) : Nat :=
  match s.formed.at key (2 ^ 40, 0) with
  | (f, t) => if f = k then t else 0

/-- The frame of a fine sample may be formed now: the frame in hand, the coming one, or the one that just ended. While RUN
is 0, and before the boundary that places the first FT, the bank forms none (log entry 109). -/
def State.fineFrame (s : State) (k : Nat) : Bool :=
  s.on tickCtrlRun &&
    (if s.tick.seen then k = s.frame || k = s.nextFrame s.frame || s.nextFrame k = s.frame
     else match s.tick.first with
       | some (q, _) => k = s.nextFrame q
       | none => false)

/-- The port's samples of frame `k` go into the data flow; a port whose drain is pending flags the coming frame (R65). -/
def State.fineInFlow (s : State) (n k : Nat) : Bool :=
  s.inFlow n k && !(s.on ingPstateDrainPend n && s.tick.seen && k = s.nextFrame s.frame)

/-- A fine sample is formed (R84) and goes to the equaliser, the hold, or, after its frame or without a port that is UP,
out flagged (R64, R90). -/
def State.formFine (s : State) (n g j k t : Nat) (differs : List (Nat × Nat)) : State :=
  let key := streamKey n g j
  let s := { s with formed := s.formed.put key (k, t + 1) (2 ^ 40, 0) }
  let size := if s.wide then 32 else 64
  let st := s.stream key
  let start := (s.frameStart k + t * s.chanP) % 2 ^ 48
  let blank : Fine := ⟨g, j, k, t, List.replicate size (true, []), []⟩
  let past := s.tick.seen && s.nextFrame k = s.frame
  let flow := s.fineInFlow n k
  let runs := s.pstate n = 3 || s.pstate n = 4 || flow
  let (s, failed) := if runs then s.checkCoefs n else (s, false)
  let s := if runs then (List.range size).foldl (fun a i => (a.checkChain (chainKey n (size * g + i) j)).1) s else s
  let h := s.coefs n
  let outs := if runs then (List.range size).map fun i =>
      let o := s.fineInput h n (size * g + i) j start st
      if failed then (true, o.2) else o
    else []
  let sats : Nat := (outs.map fun o => o.2.2.2).sum
  let s1 := if sats = 0 then s else (s.count feCntCount sats n 0).setW1c feStatusNPfbSat n
  if !flow then s1.emitFine n false true blank
  else if past then
    (s1.markLoss k (inputMask (4 * size * n + size * g) size)).emitFine n false true blank
  else
    let s2 := (List.range size).foldl (fun a i =>
      match nth outs i (true, true, [], 0) with
      | (_, true, _, _) => a.markLoss k (2 ^ (4 * size * n + size * g + i))
      | _ => a) s1
    let fine : Fine := ⟨g, j, k, t, outs.map fun o => (o.1, o.2.2.1), differs⟩
    let ahead := !s.tick.seen || k ≠ s.frame
    if ahead && !bit s.released.toNat n then s2.holdFine n fine else s2.emitFine n ahead false fine

/-- The window of fine sample `t` of frame `k` is in, or need not be waited for (R63, R64, R84). -/
def State.windowIn (s : State) (n g j k t : Nat) : Bool :=
  !s.fineInFlow n k || (s.tick.seen && s.nextFrame k = s.frame) ||
    decide (0 ≤ ahead48 (s.stream (streamKey n g j)).zNext
      ((s.frameStart k + t * s.chanP + s.chanP * s.taps) % 2 ^ 48))

/-- FINE_SAMPLE_FORMED (R84): fine samples of a stream form in order. -/
def execFineSampleFormed (n : Fin 8) (g : Fin 4) (j : Fin 16) (k : BitVec 34) (t : BitVec 13)
    (differs : List (BitVec 8 × Fin 8)) (s : State) : Result :=
  let k := k.toNat
  let t := t.toNat
  .next <|
    if s.fineFrame k && t < s.lenL && t = s.nextFine (streamKey n g j) k && s.windowIn n g j k t then
      s.formFine n g j k t (differs.map fun d => (d.1.toNat, d.2.val))
    else s

/-- HOLD_RELEASE (R90): 0.5 µs after the seal point the held fine samples go out in order, equalised with the banks that
go live at the coming FT. -/
def execHoldRelease (n : Fin 8) (s : State) : Result :=
  .next <|
    if s.on tickStatusSealed && !bit s.released.toNat n then
      let l := s.hold.at n []
      let s1 := { s with hold := s.hold.put n [] [], released := s.released ||| (1#8 <<< n.val) }
      l.foldl (fun a x => a.emitFine n true false x) s1
    else s

/-- At the FT that starts frame `k`, what a port's hold has kept: samples of an ended frame leave flagged with LINKLOSS,
those of frame `k` leave equalised (R90). -/
def State.tickHold (s : State) (k n : Nat) : State :=
  let l := s.hold.at n []
  let s1 := { s with hold := s.hold.put n [] [], released := s.released &&& ~~~(1#8 <<< n) }
  l.foldl (fun a x =>
    if x.frame = k then a.emitFine n false false x
    else
      let size := x.cols.length
      (a.markLoss x.frame (inputMask (4 * size * n + size * x.g) size)).emitFine n false true x) s1

/-- At the FT that ends frame `k`, the fine samples of stream `x` whose windows reach into samples of the next frame that
have not arrived are formed, with those samples lost (R63, R86); the stream itself still waits for them, and they count in
FLAGIN only if they never come (log entry 107). -/
def State.formHead (s : State) (k n x : Nat) : State :=
  let key := 64 * n + x
  let t0 := s.nextFine key k
  if s.lenL ≤ t0 ∨ (t0 + s.taps) * s.chanP + s.spikeWin / 2 ≤ s.frameLen then s
  else
    match (s.stream key).next with
    | none => s
    | some c =>
      let need := (s.frameStart (s.nextFrame k) + (s.taps - 1) * s.chanP + s.spikeWin / 2) % 2 ^ 48
      let s1 := s.pushMissing n (x / 16) (x % 16) (ahead48 need c).toNat true false
      let s2 := (List.range (s.lenL - t0)).foldl (fun a i => a.formFine n (x / 16) (x % 16) k (t0 + i) [])
        { s1 with counts := s.counts, countsNext := s.countsNext }
      { s2 with chains := s.chains, streams := s.streams, dcClear := s.dcClear }

/-- The fine samples of frame `k` that a port in the data flow forms at the FT that ends the frame. -/
def State.formHeads (s : State) (k n : Nat) : State :=
  if s.inFlow n k then (List.range 64).foldl (fun a x => a.formHead k n x) s else s

/-- At the FT that ends frame `k`, inputs whose fine samples of that frame have not all left, or miss coarse samples of
the frame after, carry LINKLOSS where the port is in the data flow (R63, R90). -/
def State.lateFines (s : State) (k n : Nat) : State :=
  if !s.inFlow n k then s
  else
    let size := if s.wide then 32 else 64
    (List.range 64).foldl (fun a x =>
      match s.formed.at (64 * n + x) (2 ^ 40, 0) with
      | (f, t) => if f = k ∧ t = s.lenL ∨ f ≠ 2 ^ 40 ∧ 0 < s.aheadFrame f k then a
        else a.markLoss k (inputMask (4 * size * n + size * (x / 16)) size)) s

/-- The counter snapshot taken at every FT (R96); what it leaves out counts from now on. -/
def State.snapCounts (s : State) : State :=
  { s with
    snapshot := s.counts
    counts := s.countsNext.foldl (fun l e => l.put e.1 (min (l.at e.1 0 + e.2) 0xFFFFFFFF) 0) s.counts
    countsNext := [] }

end Sys2Proof.Machine
end

