-- ==== Sys2Proof/Machine/Seqs.lean ====
section
/-! DEFINITION. Sequencers (R176 to R187, R194 to R197): states, START and STOP, exceptions, the end of a frame program
and tick entry, for the 48 blocks and the four conductor contexts. -/

namespace Sys2Proof.Machine

/-- The code of a state in SEQSTAT and STAT (R185). -/
def SeqState.code (x : SeqState) : Nat :=
  match x with
  | .off => 0
  | .init => 1
  | .wait => 2
  | .run => 3
  | .ended => 4
  | .halted => 5
  | .fault => 6

/-- A program runs, so that it owns its PO fields (R196). -/
def SeqState.owning (x : SeqState) : Bool := !x.idle

/-- A sequencer issues bundles in this state. -/
def SeqState.issuing (x : SeqState) : Bool :=
  match x with
  | .init | .run => true
  | _ => false

/-- The tenancy a sequencer acts for (R181, R197). -/
def State.seqTen (s : State) (i : Nat) : Nat := if i < 48 then s.blockTen i else i - 48

/-- Sequencer `i` as the writer of what its program writes. -/
def State.seqWho (s : State) (i : Nat) : Who := ⟨if i < 48 then .engine else .conductor, Fin.ofNat 4 (s.seqTen i)⟩

/-- Block 12r + b has been retired by software (R273). -/
def State.blockRetired (s : State) (blk : Nat) : Bool := bit (s.get rgnBlkretMask (blk / 12)) (blk % 12)

/-! ## START and STOP (R185) -/

/-- The entry points of a program. -/
def State.initPc (s : State) (i : Nat) : Nat :=
  if i < 48 then s.get blkProgInitPc (i / 12) (i % 12) else s.get cndProgInitPc (i - 48)

/-- The entry point of the frame program. -/
def State.framePc (s : State) (i : Nat) : Nat :=
  if i < 48 then s.get blkProgFramePc (i / 12) (i % 12) else s.get cndProgFramePc (i - 48)

/-- RESTART of a sequencer. -/
def State.restartOn (s : State) (i : Nat) : Bool :=
  if i < 48 then s.on blkProgRestart (i / 12) (i % 12) else s.on cndCtrlRestart (i - 48)

/-- START: acts in OFF, HALTED and FAULT; a retired block and a context of a tenancy that is not assigned stay as they
are (R185, R197, R273). -/
def State.startSeq (s : State) (i : Nat) : State :=
  let q := s.seq i
  if !q.st.idle || (i < 48 && s.blockRetired i) || (48 ≤ i && !s.assigned (i - 48)) then s
  else
    let s1 := s.setSeq i { st := .init, pc := s.initPc i, evt := q.evt, slack := q.slack, moves := q.moves, ports := q.ports, starts := q.starts }
    if i < 48 then s1.setReg blkExc (i / 12) (i % 12) 0 else s1.setReg cndExc (i - 48) 0 0

/-- The queued cell operations of a block that have not started are dropped; those at the head of a queue run on unless
they wait for a run to end (R109, R191, R220). -/
def Cell.dropWaiting (c : Cell) : Cell :=
  let waits := fun (o : CellOp) => match o with
    | .start .. | .beam .. => true
    | .save a _ => a
    | .clear a => a
    | _ => false
  match c.queue with
  | [] => c
  | o :: _ => { c with queue := if c.run.isSome && waits o then [] else [o] }

/-- Queued cell and move operations of a block are cancelled (R30, R109). -/
def State.cancelBlock (s : State) (blk : Nat) : State :=
  let cs := s.cells.map fun e => if e.1 / 32 = blk then (e.1, e.2.map Cell.dropWaiting) else e
  State.abortMoves { s with cells := cs } blk

/-- A sequencer goes to OFF (R185). -/
def State.stopSeq (s : State) (i : Nat) : State :=
  let s1 := if i < 48 then s.cancelBlock i else s
  s1.setSeq i { s1.seq i with st := .off, stalled := false, ending := false, stopping := false, dying := false, target := none, delay := false, loops := [] }

/-- STOP: at once, or at the next FT while a frame program runs or has ended (R185). -/
def State.stopCmd (s : State) (i : Nat) : State :=
  match (s.seq i).st with
  | .off => s
  | .run | .ended => s.setSeq i { s.seq i with stopping := true }
  | _ => s.stopSeq i

/-- A write of `RGNn.BLKb.SEQCMD`. With both bits, STOP acts first (log entry 40). -/
def State.writeSeqcmd (s : State) (w : Who) (r b v : Nat) : State :=
  s.guarded w (blkSeqcmd.key r b) (w.fn = 0 || w.fn.val = s.blockTen (12 * r + b)) fun s =>
    let s := if bit v 1 then s.stopCmd (12 * r + b) else s
    if bit v 0 then s.startSeq (12 * r + b) else s

/-- SEQ_START (R185). -/
def execSeqStart (w : Who) (r : Fin 4) (b : Fin 12) (s : State) : Result := .next (s.writeSeqcmd w r b 1)

/-- SEQ_STOP (R185). -/
def execSeqStop (w : Who) (r : Fin 4) (b : Fin 12) (s : State) : Result := .next (s.writeSeqcmd w r b 2)

/-- A write of `CND.CTXt.CTRL`. -/
def State.writeCndCtrl (s : State) (w : Who) (t v : Nat) : State :=
  s.guarded w (cndCtrl.key t 0) (w.fn = 0 || w.fn.val = t) fun s =>
    let s := s.set cndCtrlRestart (bits v 2 2) t
    let s := if bit v 1 then s.stopCmd (48 + t) else s
    if bit v 0 then s.startSeq (48 + t) else s

/-- CND_START (R185, R197): RESTART is left as it is. -/
def execCndStart (w : Who) (t : Fin 4) (s : State) : Result :=
  .next (s.writeCndCtrl w t (1 + 4 * s.get cndCtrlRestart t))

/-- CND_STOP (R185). -/
def execCndStop (w : Who) (t : Fin 4) (s : State) : Result :=
  .next (s.writeCndCtrl w t (2 + 4 * s.get cndCtrlRestart t))

/-- Two windows of units from a base share a unit. -/
def overlaps (a n b m : Nat) : Bool := decide (0 < n ∧ 0 < m ∧ a < b + m ∧ b < a + n)

/-- A write of `CND.CTXt.MEM`: refused while the context is not OFF, or when windows would overlap (R184). -/
def State.writeCndMem (s : State) (w : Who) (t v : Nat) : State :=
  s.guarded0 w (cndMem.key t 0) fun s =>
    let hit := (List.range 4).any fun u => u ≠ t &&
      (overlaps (bits v 23 16) (bits v 31 24) (s.get cndMemDbase u) (s.get cndMemDsize u)
        || overlaps (bits v 7 0) (bits v 15 8) (s.get cndMemIbase u) (s.get cndMemIsize u))
    if (s.seq (48 + t)).st ≠ .off || hit then s.reject w (cndMem.key t 0)
    else s.setReg cndMem t 0 v

/-- CND_MEM_WRITE (R184). -/
def execCndMemWrite (w : Who) (t : Fin 4) (v : Word) (s : State) : Result := .next (s.writeCndMem w t v.toNat)

/-- A write of `RGNn.BLKb.PROG` (R185): the entry points may change only in OFF, HALTED and FAULT. -/
def State.writeProg (s : State) (w : Who) (r b v : Nat) : State :=
  s.guarded w (blkProg.key r b) (w.fn = 0 || w.fn.val = s.blockTen (12 * r + b)) fun s =>
    if (s.seq (12 * r + b)).st.owning && (bits v 27 16 ≠ s.get blkProgFramePc r b || bits v 11 0 ≠ s.get blkProgInitPc r b) then
      s.reject w (blkProg.key r b)
    else s.writeFieldsOf blkProg r b v

/-- A write of `CND.CTXt.PROG`, under the same rule. -/
def State.writeCndProg (s : State) (w : Who) (t v : Nat) : State :=
  s.guarded0 w (cndProg.key t 0) fun s =>
    if (s.seq (48 + t)).st.owning && v ≠ s.reg cndProg t 0 then s.reject w (cndProg.key t 0) else s.setReg cndProg t 0 v

/-! ## Racing reads (R193) -/

/-- `n` bytes from `a` on as they were before the stores of block `blk` that are still under way. -/
def State.oldBytes (s : State) (blk a n : Nat) : List Byte :=
  let under := (s.seq blk).ports.filter fun m => decide (s.cycle < m.due)
  (List.range n).map fun k =>
    match under.find? fun m => decide (m.addr ≤ a + k ∧ a + k < m.addr + m.old.length) with
    | some m => nth m.old (a + k - m.addr) 0
    | none => s.byte (a + k)

/-- Bytes that race with writers: each aligned 32-byte unit gives its old or its new content, which of them a free value
settles. -/
def State.mixed (s : State) (a : Nat) (old new : List Byte) : List Byte :=
  if old = new then new
  else new.mapIdx fun k b => if Config.freeNat s.fresh ((a + k) / 32) % 2 = 0 then nth old k 0 else b

/-- What a cell or sequencer of block `blk` reads in `l`, read from `a` on, may be from before an MV.ST under way (R193). -/
def State.raceStores (s : State) (blk a : Nat) (l : List (Byte × Bool)) : State × List (Byte × Bool) :=
  let new := l.map (·.1)
  let old := s.oldBytes blk a l.length
  if (s.seq blk).ports.isEmpty || old = new then (s, l) else (s.drawn, (s.mixed a old new).zip (l.map (·.2)))

/-! ## Exceptions (R194, R195) -/

/-- Exception causes (R194). -/
inductive Cause where
  | illegal | bundle | pcRange | imemEcc | addr | csr | loopDepth | dataEcc | sysDenied
  deriving DecidableEq, Repr

/-- The code of a cause. -/
def Cause.code (c : Cause) : Nat :=
  match c with
  | .illegal => 1
  | .bundle => 2
  | .pcRange => 3
  | .imemEcc => 4
  | .addr => 5
  | .csr => 6
  | .loopDepth => 7
  | .dataEcc => 8
  | .sysDenied => 9

/-- An exception of sequencer `i`: cause, slot and pc are recorded, the state is FAULT, and the event is raised (R195). -/
def State.except (s : State) (i : Nat) (c : Cause) (slot : Nat) : State :=
  let q := s.seq i
  let s1 := s.setSeq i { q with st := .fault, stalled := false, faultRun := q.st = .run, faultNew := q.st = .run }
  if i < 48 then
    (s1.setReg blkExc (i / 12) (i % 12) (c.code * 2 ^ 24 + slot * 2 ^ 22 + q.pc % 4096)).rgnRaise (i / 12) 5
  else (s1.setReg cndExc (i - 48) 0 (c.code * 2 ^ 24 + q.pc % 65536)).raise 141

/-! ## The end of a frame program (R185, R187, R191) -/

/-- A cell has nothing queued and nothing running. -/
def Cell.idle (c : Cell) : Bool := c.queue.isEmpty && c.run.isNone

/-- Every cell and move operation of block `blk` is complete, withheld dumps included. -/
def State.blockQuiet (s : State) (blk : Nat) : Bool :=
  (s.cells.all fun e => e.1 / 32 ≠ blk || (match e.2 with | none => true | some c => c.idle))
    && (s.seq blk).moves.isEmpty && (s.seq blk).ports.all (fun m => decide (m.due ≤ s.cycle)) && s.redos.all fun d => d.blk ≠ blk

/-- FRAME.END retires once everything the sequencer has issued is complete. -/
def State.retireEnd (s : State) (i : Nat) : State :=
  let q := s.seq i
  if !q.ending || (i < 48 && !s.blockQuiet i) then s
  else match q.st with
    | .init => s.setSeq i { q with st := .wait, ending := false, stalled := false }
    | .run => s.setSeq i { q with st := .ended, ending := false, stalled := false, endCycle := some s.cycle }
    | _ => s

/-- FRAME_END_RETIRE (R185, R187): once the data of every MV.LD and MV.ST are in place. -/
def execFrameEndRetire (q : SeqId) (s : State) : Result :=
  let x := s.seq (SeqId.num q)
  .next (if x.ending then (s.elapseTo ((x.ports.map (·.due)).foldl max 0)).retireEnd (SeqId.num q) else s)

/-! ## Tick entry (R28, R30, R185, R186, R195) -/

/-- Tick entry: a loop stack cleared, the pc at the frame program, the slack of the frame that ended. -/
def State.enterFrame (s : State) (i slack : Nat) : State :=
    let q := s.seq i
    s.setSeq i { q with
      st := .run, pc := s.framePc i, loops := [], slack := slack, endCycle := none, target := none, delay := false
      stalled := false, ending := false, faultRun := false, faultNew := false, first := true }

/-- The slack a sequencer has to report at an FT: none, or cycles, 0 after an overrun or a fault (R28, R29). -/
def State.slackOf (s : State) (i : Nat) : Option Nat :=
  let q := s.seq i
  if q.dying then none else match q.st with
  | .ended => some (s.cycle - q.endCycle.getD s.cycle)
  | .run => some 0
  | .fault => if q.faultNew then some 0 else none
  | _ => none

/-- A sequencer overruns at this FT (R30): it is still in RUN, or faulted in RUN during the frame; not one whose PROGRAM
reset is under way (R347). -/
def State.overran (s : State) (i : Nat) : Bool :=
  let q := s.seq i
  !q.dying && (q.st = .run || (q.st = .fault && q.faultNew))

/-- What follows for a sequencer at an FT, its overrun already dealt with: a STOP that waited acts, whatever the program has
come to since (R185). -/
def State.tickSeq (s : State) (i : Nat) : State :=
  let q := s.seq i
  if q.dying then s else if q.stopping then s.stopSeq i else match q.st with
  | .wait => s.enterFrame i q.slack
  | .ended => s.enterFrame i (s.cycle - q.endCycle.getD s.cycle)
  | .run => s.enterFrame i 0
  | .fault =>
    let s1 := s.setSeq i { q with faultNew := false }
    if q.faultRun && s.restartOn i then s1.enterFrame i 0 else s1
  | _ => s

/-- A conductor context at an FT (R195): slack, COND_OVERRUN, and entry; a SYS.COMMIT of one that overran is dropped where
the tick unit has not accepted it. -/
def State.tickContext (s : State) (t : Nat) : State :=
  let s1 := if s.overran (48 + t) then { s.raise 140 with commits := s.commits.filter fun c => c.ctx ≠ t } else s
  let s2 := match s.slackOf (48 + t) with
    | some v => s1.setReg cndSlack t 0 v
    | none => s1
  s2.tickSeq (48 + t)

/-- A region's overruns, slacks and minimum at an FT (R28 to R30): what each block reports. -/
def State.tickSlacks (s : State) (r : Nat) : State :=
  let blks := (List.range 12).map fun b => 12 * r + b
  let late := blks.filter s.overran
  let reports := blks.filterMap fun i => (s.slackOf i).map fun v => (i, v)
  let s1 := reports.foldl (fun t p => t.setReg rgnBlkslack r (p.1 % 12) p.2) s
  let s2 := if late.isEmpty then s1
    else
      let bs := late.foldl (fun a i => a ||| 2 ^ (i % 12)) (s1.get rgnOverrunBlocks r)
      ((s1.set rgnOverrunBlocks bs r).count rgnOverrunCount 1 r).rgnRaise r 0
  let least := (reports.map (·.2)).min?
  let l := (least :: s2.slacks.at r []).take 256
  let s3 := { s2 with slacks := s2.slacks.put r l [] }
  let s4 := match (l.filterMap id).min? with
    | some m => s3.setReg rgnSlackMin r 0 m
    | none => s3
  match least with
  | some m => if m < s4.get rgnSlackWarnValue r then s4.rgnRaise r 1 else s4
  | none => s4

end Sys2Proof.Machine
end

