-- ==== Sys2Proof/Machine/Cells.lean ====
section
/-! DEFINITION. Cells and correlation (R125 to R152, R220, R221, R391): register sets and their exact sums, the two-bank
48-bit accumulators of X2, preloads and the running store, dumps, residue checks and redo, split merges, context
images, fused row outputs and the products of a close. -/

namespace Sys2Proof.Machine

/-! ## Tiles (R129, R130) -/

/-- A sub-tile: tile (a, b), row band r and column band s. -/
structure Sub where
  a : Nat
  b : Nat
  r : Nat
  s : Nat
  deriving DecidableEq, Repr

/-- The tile index of tile (a, a). -/
def tileStart (a : Nat) : Nat := 32 * a - a * (a - 1) / 2

/-- The tile row of tile index `t`. -/
def tileRow (t : Nat) : Nat := ((List.range 32).filter fun a => tileStart a ≤ t).getLastD 0

/-- The sub-tile of index `q`. -/
def subOf (q : Nat) : Sub :=
  let t := q / 16
  let a := tileRow t
  ⟨a, a + (t - tileStart a), q / 4 % 4, q % 4⟩

/-- The row input of row position `u`. -/
def Sub.row (x : Sub) (u : Nat) : Nat := 64 * x.a + 16 * x.r + u

/-- The column input of column position `v`. -/
def Sub.col (x : Sub) (v : Nat) : Nat := 64 * x.b + 16 * x.s + v

/-- The index of baseline (i, j), i ≤ j (R130). -/
def visIndex (i j : Nat) : Nat :=
  let a := i / 64
  let b := j / 64
  let r := i % 64 / 16
  let s := j % 64 / 16
  let u := i % 16
  let v := j % 16
  let row0 := 2080 * a + 4096 * (31 * a - a * (a - 1) / 2)
  if a < b then row0 + 2080 + 4096 * (b - a - 1) + 1024 * r + 256 * s + 16 * u + v
  else
    let band0 := 136 * r + 256 * (3 * r - r * (r - 1) / 2)
    if s = r then row0 + band0 + 16 * u - u * (u - 1) / 2 + (v - u)
    else row0 + band0 + 136 + 256 * (s - r - 1) + 16 * u + v

/-- The shape in force: the record's, or the one Q gives: 1 FULL, 2 DIAG, 3 LOWER (R129). -/
def shapeOf (shape q : Nat) : Nat :=
  let x := subOf q
  if shape ≠ 0 then shape else if x.a < x.b then 1 else if x.r = x.s then 2 else if x.s < x.r then 3 else 1

/-- Position `p` = 16u + v has an index: its row input is not greater than its column input. -/
def Sub.indexed (x : Sub) (p : Nat) : Bool := x.row (p / 16) ≤ x.col (p % 16)

/-- The positions of sub-tile `q` that a dump keeps. -/
def keptPositions (shape q : Nat) : List Nat :=
  let x := subOf q
  let sh := shapeOf shape q
  (List.range 256).filter fun p => x.indexed p && (sh = 1 || (sh = 2 && p / 16 ≤ p % 16))

/-! ## Cells and their sets -/

/-- A register set whose contents a reset has lost: free values (R127). -/
def freeSet (draw key : Nat) : CellSet :=
  let f := fun o => Config.freeNat draw (4096 * key + o)
  { acc := (List.range 512).foldl (fun l p => Sparse.put l p (sext 32 (f p)) 0) []
    cnt := (List.range 256).foldl (fun l p => Sparse.put l p (f (512 + p) % 65536) 0) []
    res := (List.range 512).foldl (fun l p => Sparse.put l p (f (768 + p) % 16) 0) []
    sat := (List.range 512).foldl (fun l p => Sparse.put l p (f (1280 + p) % 2 = 1) false) []
    sticky := BitVec.ofNat 16 (f 1792)
    samples := f 1793 % 2 ^ 32
    phase := BitVec.ofNat 8 (f 1793)
    tag := BitVec.ofNat 32 (f 1794) }

/-- Cell `i` = 32 blk + c. -/
def State.cell (s : State) (i : Nat) : Cell :=
  match s.cells.at i none with
  | some c => c
  | none =>
    let d := s.cellLost.at (i / 384) 0
    if d = 0 then {} else { set0 := freeSet d (2 * i), set1 := freeSet d (2 * i + 1) }

/-- `s` with another cell `i`. -/
def State.setCell (s : State) (i : Nat) (c : Cell) : State := { s with cells := s.cells.put i (some c) none }

/-- Physical set 1 or 0. -/
def Cell.get (c : Cell) (phys : Bool) : CellSet := if phys then c.set1 else c.set0

/-- A physical set replaced. -/
def Cell.put (c : Cell) (phys : Bool) (x : CellSet) : Cell := if phys then { c with set1 := x } else { c with set0 := x }

/-- A physical set has been filled by an operation; no run has used it since. -/
def Cell.filled (c : Cell) (phys : Bool) (o : CellOp) : Cell :=
  if phys then { c with fill1 := some o, ran1 := [] } else { c with fill0 := some o, ran0 := [] }

/-- A run on a physical set is noted for a redo. -/
def Cell.ranOn (c : Cell) (phys : Bool) (o : CellOp) : Cell :=
  if phys then { c with ran1 := c.ran1 ++ [o] } else { c with ran0 := c.ran0 ++ [o] }

/-- Part `p` grows by `d`, its companion by `dr`, within a range (R138, R142). -/
def CellSet.grow (x : CellSet) (p : Nat) (d : Int) (dr : Nat) (lo hi : Int) : CellSet :=
  if x.sat.at p false then x
  else
    let v := x.acc.at p 0 + d
    if v < lo ∨ hi < v then
      { x with acc := x.acc.put p (clampInt lo hi v) 0, sat := x.sat.put p true false, sticky := x.sticky ||| 2 }
    else { x with acc := x.acc.put p v 0, res := x.res.put p ((x.res.at p 0 + dr) % 15) 0 }

/-- The companion of a value (R142). -/
def mod15 (v : Int) : Nat := (v % 15).toNat

/-- The largest magnitudes of 16-, 32- and 48-bit parts. -/
def lim (w : Nat) : Int := (2 ^ (w - 1) : Nat) - 1

/-- One fine sample of 16 rows and 16 columns enters a set (R125). -/
def CellSet.sample (x : CellSet) (rows cols : List (Option (Int × Int))) : CellSet :=
  let w := match x.mode with | .x2 => 16 | _ => 32
  let y := (List.range 256).foldl (fun (x : CellSet) p =>
    match nth rows (p / 16) none, nth cols (p % 16) none with
    | some a, some b =>
      let re := a.1 * b.1 + a.2 * b.2
      let im := a.2 * b.1 - a.1 * b.2
      let y := (x.grow (2 * p) re (mod15 re) (-(lim w) - 1) (lim w)).grow (2 * p + 1) im (mod15 im) (-(lim w) - 1) (lim w)
      { y with cnt := y.cnt.put p (min 65535 (y.cnt.at p 0 + 1)) 0 }
    | _, _ => x) x
  { y with samples := min 0xFFFFFFFF (y.samples + 1), phase := y.phase + 1 }

/-- The parts whose companion does not match (R142). -/
def CellSet.mismatches (x : CellSet) : List Nat :=
  (List.range 512).filter fun p => !x.sat.at p false && decide (mod15 (x.acc.at p 0) ≠ x.res.at p 0)

/-! ## Status of a block's cells -/

/-- The cell's bit in CELLSAT (R138). -/
def State.cellSat (s : State) (i : Nat) : State :=
  let r := i / 384
  let b := i / 32 % 12
  (s.setStatus blkCellsat r b (2 ^ (i % 32))).rgnRaise r 4

/-- The cell's bit in CELLFAULT (R142). -/
def State.cellFault (s : State) (i : Nat) : State :=
  let r := i / 384
  let b := i / 32 % 12
  (s.setStatus blkCellfault r b (2 ^ (i % 32))).rgnRaise r 2

/-- LOC of a part of a cell (R271). -/
def cellLoc (i q p : Nat) : Nat :=
  i / 384 * 2 ^ 44 + i / 32 % 12 * 2 ^ 40 + i % 32 * 2 ^ 32 + q * 2 ^ 16 + p / 2 * 2 ^ 8 + p % 2

/-- Every part of a set is checked; mismatches are logged, and a kept one sets CELLFAULT (R142). The second result tells
whether there was a kept one. -/
def State.checkSet (s : State) (i q : Nat) (kept : Nat → Bool) (x : CellSet) : State × Bool :=
  let bad := x.mismatches
  let s1 := bad.foldl (fun t p =>
    let k := kept (p / 2)
    t.error 0 (cellLoc i q p) (if k then 4 else 5) (x.res.at p 0 % 16 * 16 + mod15 (x.acc.at p 0))) s
  let any := bad.any fun p => kept (p / 2)
  (if any then s1.cellFault i else s1, any)

/-! ## Images and X2 slots (R139, R148, R221, R265) -/

/-- The 512 parts, companions and saturation bits laid out with `w` bytes a part. -/
def CellSet.partBytes (x : CellSet) (w : Nat) : List Byte :=
  (List.range 512).flatMap fun p => leBytes w (toBits (8 * w) (x.acc.at p 0))

/-- Companions, one byte per complex accumulator: imaginary high, real low. -/
def CellSet.resBytes (x : CellSet) : List Byte :=
  (List.range 256).map fun p => BitVec.ofNat 8 (x.res.at (2 * p + 1) 0 * 16 + x.res.at (2 * p) 0)

/-- Saturation bits. -/
def CellSet.satBytes (x : CellSet) : List Byte :=
  (List.range 64).map fun b => BitVec.ofNat 8 (((List.range 8).map fun k => b2n (x.sat.at (8 * b + k) false) * 2 ^ k).sum)

/-- Some byte of `n` from `o` on was bad. -/
def badIn (l : List (Byte × Bool)) (o n : Nat) : Bool := (slice l o n).any (·.2)

/-- The little-endian value of `n` bytes from `o` on. -/
def valIn (l : List (Byte × Bool)) (o n : Nat) : Nat := leVal ((slice l o n).map (·.1))

/-- Parts, companions and saturation bits read back: a part whose word is marked loads as 0 with companion 1 (R265). -/
def loadParts (x : CellSet) (l : List (Byte × Bool)) (w ro so : Nat) : CellSet :=
  (List.range 512).foldl (fun (x : CellSet) p =>
    let bad := badIn l (w * p) w || badIn l (ro + p / 2) 1
    let rb := valIn l (ro + p / 2) 1
    let r := if bad then 1 else if p % 2 = 1 then rb / 16 else rb % 16
    let v := if bad then 0 else sext (8 * w) (valIn l (w * p) w)
    let sb := !badIn l (so + p / 8) 1 && bit (valIn l (so + p / 8) 1) (p % 8)
    { x with acc := x.acc.put p v 0, res := x.res.put p r 0, sat := x.sat.put p sb false }) x

/-- The address of the X2 slot of a physical set (R221). -/
def State.slotAddr (s : State) (i : Nat) (phys : Bool) : Nat :=
  let r := i / 384
  let b := i / 32 % 12
  blockBase r b + min 448 (s.get blkX2baseBase r b) * 4096 + (2 * (i % 32) + b2n phys) * 4096

/-- The 48-bit accumulators of a physical set. -/
def State.loadSlot (s : State) (i : Nat) (phys : Bool) : State × CellSet :=
  let (s1, l) := s.engineRead (s.slotAddr i phys) 3392
  (s1, loadParts {} l 6 3072 3328)

/-- The 48-bit accumulators are written. -/
def State.saveSlot (s : State) (i : Nat) (phys : Bool) (x : CellSet) : State :=
  s.store (s.slotAddr i phys) (x.partBytes 6 ++ x.resBytes ++ x.satBytes)

/-- The sub-tile a physical set serves, and the shape its record names: of its latest run, or of its preload. -/
def Cell.serves (c : Cell) (phys : Bool) : Option (Nat × Nat) :=
  let fill := if phys then c.fill1 else c.fill0
  let shape := match fill with | some (.preload _ _ _ _ (some rec)) => rec.shape | _ => 0
  match (if phys then c.ran1 else c.ran0).getLast?, fill with
  | some (.start _ _ _ q _ _ _ _), _ => some (shape, q)
  | _, some (.preload _ _ q _ _) => some (shape, q)
  | _, _ => none

/-- The positions of a physical set that its shape keeps, all of them while no sub-tile is known, and that sub-tile. -/
def Cell.keeps (c : Cell) (phys : Bool) : Nat × (Nat → Bool) :=
  match c.serves phys with
  | some (shape, q) => let l := keptPositions shape q; (q, fun p => l.contains p)
  | none => (0, fun _ => true)

/-- A forced spill (R139): the 16-bit accumulators are added into the slot and cleared. -/
def State.spillSet (s : State) (i : Nat) (phys : Bool) : State :=
  let x := (s.cell i).get phys
  if x.mode ≠ .x2 then s
  else
    let (q, kept) := (s.cell i).keeps phys
    let (s1, bad) := s.checkSet i q kept x
    let (s2, y) := s1.loadSlot i phys
    let z := (List.range 512).foldl (fun (y : CellSet) p =>
      y.grow p (x.acc.at p 0) (x.res.at p 0) (-(lim 48) - 1) (lim 48)) y
    let hit := z.sat ≠ y.sat
    let s3 := s2.saveSlot i phys z
    let s4 := if hit then s3.cellSat i else s3
    let sticky := x.sticky ||| (if hit then 2 else 0) ||| (if bad then 4 else 0)
    s4.setCell i ((s4.cell i).put phys { x with acc := [], res := [], sticky := sticky })

/-- The image of a set (R148). -/
def CellSet.image (x : CellSet) : List Byte :=
  x.partBytes 4 ++ (List.range 256).flatMap (fun p => leBytes 2 (x.cnt.at p 0)) ++ x.resBytes ++ x.satBytes
    ++ leBytes 2 (x.sticky.toNat % 256) ++ leBytes 2 (match x.mode with | .x => 0 | .x2 => 1 | .b => 2)
    ++ leBytes 4 x.samples ++ leBytes 4 x.tag.toNat ++ List.replicate 52 0

/-- The set an image holds; marked words among the rest read 0 and set the sticky RESIDUE bit (R265). -/
def imageSet (l : List (Byte × Bool)) : CellSet :=
  let x := loadParts {} l 4 2560 2816
  let clean := fun o n => if badIn l o n then 0 else valIn l o n
  let x := (List.range 256).foldl (fun (x : CellSet) p => { x with cnt := x.cnt.put p (clean (2048 + 2 * p) 2) 0 }) x
  let bad := badIn l 2048 512 || badIn l 2816 76
  { x with
    sticky := BitVec.ofNat 16 (clean 2880 2 % 256 ||| (if bad then 4 else 0))
    mode := (match clean 2882 2 % 4 with | 1 => .x2 | 2 => .b | _ => .x)
    samples := clean 2884 4
    phase := BitVec.ofNat 8 (clean 2884 4)
    tag := BitVec.ofNat 32 (clean 2888 4) }

/-! ## Runs (R125, R126, R139, R220, R391) -/

/-- The frame before the current FT. -/
def State.lastFrame (s : State) : Nat := (s.frame + s.frameMod - 1) % s.frameMod

/-- The tag of a channel buffer; one that no multicast has filled counts as the frame before the FT. -/
def State.bufTag (s : State) (r x : Nat) : Nat := (s.bufTags.at (2 * r + x) none).getD s.lastFrame

/-- 16 operands of one time from a channel buffer; a bad word's samples are flagged (R265), and inputs numbered I or
above are not read (R125). -/
def State.operands (s : State) (base i0 : Nat) : State × List (Option (Int × Int)) :=
  if s.chipInputs ≤ i0 then (s, List.replicate 16 none)
  else
    let (s1, l) := s.engineRead (base + i0) 16
    (s1, l.map fun x =>
      let re := sext 4 (x.1.toNat / 16)
      let im := sext 4 (x.1.toNat % 16)
      if x.2 || re = -8 || im = -8 then none else some (re, im))

/-- The operand positions of cell `i` that fail their parity at its next fine sample. -/
def State.parityOf (s : State) (i : Nat) : List Nat := (s.parity.filter fun x => x.1 = i).map (·.2)

/-- The parity failures of a cell's fine sample are logged, with sub-tile `q`, and set `RGNn.ERRSTAT.PARITY` (R265, R270,
R271, R274). -/
def State.parityFailed (s : State) (i q : Nat) : State :=
  let t := (s.parityOf i).foldl (fun t p => (t.rgnErr (i / 384) 5).error 0 (cellLoc i q 0) 6 p) s
  { t with parity := t.parity.filter fun x => x.1 ≠ i }

/-- Operands of one time, those at the positions from `o` on that fail their parity flagged (R265). -/
def checkedOperands (bad : List Nat) (o : Nat) (l : List (Option (Int × Int))) : List (Option (Int × Int)) :=
  l.mapIdx fun k x => if bad.contains (o + k) then none else x

/-- One fine sample of a correlation run. -/
def State.runSample (s : State) (i buf q t : Nat) : State :=
  let base := regionBase (i / 384) + buf * (s.chipInputs * s.lenL) + t * s.chipInputs
  let sub := subOf q
  let (s1, rows) := s.operands base (sub.row 0)
  let (s2, cols) := s1.operands base (sub.col 0)
  let c := s2.cell i
  let x := c.get c.active
  let bad := s2.parityOf i
  let y := x.sample (checkedOperands bad 0 rows) (checkedOperands bad 16 cols)
  let s3 := (s2.setCell i (c.put c.active y)).parityFailed i q
  let s4 := if y.sat ≠ x.sat then s3.cellSat i else s3
  if y.mode = .x2 && y.phase = 0 then s4.spillSet i c.active else s4

/-- `n` fine samples of a correlation run from fine time `t` on. -/
def State.runSamples (s : State) (i buf q t n : Nat) : State :=
  match n with
  | 0 => s
  | n + 1 => (s.runSample i buf q t).runSamples i buf q (t + 1) n

/-- The accumulators of a set that was preloaded in the other mode move into or out of its X2 slot when CX.START gives it
its mode (R139). -/
def State.convertSet (s : State) (i : Nat) (phys : Bool) (mode : CellMode) : State :=
  let c := s.cell i
  let x := c.get phys
  let fresh := match (if phys then c.fill1 else c.fill0), (if phys then c.ran1 else c.ran0) with
    | some (.preload ..), [] => true
    | _, _ => false
  if mode = .x2 && x.mode ≠ .x2 && fresh then
    (s.saveSlot i phys x).setCell i (c.put phys { x with acc := [], res := [], sat := [], mode := mode })
  else if mode ≠ .x2 && x.mode = .x2 && fresh then
    let (s1, y) := s.loadSlot i phys
    s1.setCell i ((s1.cell i).put phys { x with acc := y.acc, res := y.res, sat := y.sat, mode := mode })
  else s.setCell i (c.put phys { x with mode := mode })

/-- CX.START reaches its end: the sets are exchanged, and the run begins (R127, R218, R220). -/
def State.beginRun (s : State) (i : Nat) (o : CellOp) (exchange : Bool) (mode : CellMode) (buf n : Nat) : State :=
  let c := s.cell i
  let s1 := if exchange then
      let t := (s.setCell i { c with active := !c.active }).convertSet i (!c.active) mode
      let d := t.cell i
      t.setCell i (d.put d.active { d.get d.active with cnt := [] })
    else s
  if n = 0 then s1
  else
    let d := s1.cell i
    let x := d.get d.active
    let d := d.put d.active { x with frame := some (s1.bufTag (i / 384) buf) }
    s1.setCell i { d.ranOn d.active o with run := some ⟨o, s1.cycle, 0⟩ }

/-- A correlation run goes on until it has added `upTo` samples. -/
def State.advanceRun (s : State) (i upTo : Nat) : State :=
  match (s.cell i).run with
  | some ⟨.start x m buf q co n t0 sn, since, done⟩ =>
    let k := min upTo n - done
    let s1 := s.runSamples i buf q (t0 + done) k
    s1.setCell i { s1.cell i with run := some ⟨.start x m buf q co n t0 sn, since, done + k⟩ }
  | _ => s

/-! ## Preloads (R133, R265, R266) -/

/-- The entry addresses of a running store (R132). -/
def flagAddr (rec : Record) (cOut q : Nat) : Nat := rec.fBase + (8448 * cOut + q) * 4

/-- The address of a value. -/
def valueAddr (rec : Record) (cOut idx : Nat) : Nat := rec.vBase + (2098176 * cOut + idx) * 8

/-- The address of a count. -/
def countAddr (rec : Record) (cOut idx : Nat) : Nat := rec.cBase + (2098176 * cOut + idx) * 2

/-- The baseline index of position `p` of sub-tile `q`. -/
def posIndex (q p : Nat) : Nat := let x := subOf q; visIndex (x.row (p / 16)) (x.col (p % 16))

/-- A loaded part takes its value and companion. -/
def CellSet.load (x : CellSet) (p : Nat) (v : Int) (r : Nat) : CellSet :=
  { x with acc := x.acc.put p v 0, res := x.res.put p r 0 }

/-- Positions of sub-tile `q`, in ascending order, gathered in runs whose indexes follow one another: the first index and
the positions of each. -/
def visRuns (q : Nat) (ps : List Nat) : List (Nat × List Nat) :=
  ps.foldr (fun p l =>
    let x := posIndex q p
    match l with
    | (y, r) :: t => if x + 1 = y then (x, p :: r) :: t else (x, [p]) :: (y, r) :: t
    | [] => [(x, [p])]) []

/-- CX.PRELOAD RUN has met a marked word or TERR: the next write-back or close of the entry starts it anew (R266). -/
def State.restartEntry (s : State) (a : Nat) : State := { s with restarts := insertKey s.restarts a }

/-- Block `blk` reads `n` bytes from `a` on for a cell; in DRAM they count as its tenancy's use (R44). -/
def State.cellRead (s : State) (blk a n : Nat) : State × List (Byte × Bool) :=
  (s.useDram (s.blockTen blk) a n).engineRead a n

/-- What CX.PRELOAD RUN finds: the values of the kept positions, or nothing where the entry cannot be used (R133, R266). -/
def State.loadRun (s : State) (blk : Nat) (rec : Record) (cOut q : Nat) (x : CellSet) : State × CellSet :=
  let a := flagAddr rec cOut q
  let (s1, f) := ({ s with restarts := s.restarts.filter fun k => k ≠ a } : State).cellRead blk a 4
  if badIn f 0 4 then (s1.restartEntry a, x)
  else if valIn f 0 4 / 256 = 0 then (s1, x)
  else
    let (s2, y, bad) := (visRuns q (keptPositions rec.shape q)).foldl (fun (z : State × CellSet × Bool) run =>
      let m := run.2.length
      let (t, l) := z.1.cellRead blk (valueAddr rec cOut run.1) (8 * m)
      let (t, c) := t.cellRead blk (countAddr rec cOut run.1) (2 * m)
      let y := (run.2.zip (List.range m)).foldl (fun (y : CellSet) pk =>
        let re := sext 32 (valIn l (8 * pk.2) 4)
        let im := sext 32 (valIn l (8 * pk.2 + 4) 4)
        (y.load (2 * pk.1) re (mod15 re)).load (2 * pk.1 + 1) im (mod15 im)) z.2.1
      (t, y, z.2.2 || l.any (·.2) || c.any (·.2))) (s1, x, false)
    if bad then (s2.restartEntry a, x) else (s2, y)

/-- What CX.PRELOAD ABS finds. -/
def State.loadAbs (s : State) (blk a : Nat) (x : CellSet) : State × CellSet :=
  let (s1, l) := s.cellRead blk a 2048
  let (s1, l) := s1.raceStores blk a l
  (s1, (List.range 512).foldl (fun (x : CellSet) p =>
    if badIn l (4 * p) 4 then x.load p 0 1
    else let v := sext 32 (valIn l (4 * p) 4); x.load p v (mod15 v)) x)

/-- A preload fills the standby set; in X2 its slot is loaded instead (R139). -/
def State.preload (s : State) (i : Nat) (o : CellOp) (src : PreSource) (rank q cOut : Nat) (rec : Option Record) : State :=
  let c := s.cell i
  let phys := !c.active
  let old := c.get phys
  let blank : CellSet := { tag := old.tag, mode := old.mode }
  let (s1, x) := match src, rec with
    | .run, some rec => s.loadRun (i / 32) rec cOut q blank
    | .abs, some rec => s.loadAbs (i / 32) (rec.vBase + 2048 * rank) blank
    | _, _ => (s, blank)
  let (s2, y) := if x.mode = .x2 then (s1.saveSlot i phys x, { x with acc := [], res := [] }) else (s1, x)
  s2.setCell i (((s2.cell i).put phys y).filled phys o)

/-! ## Dumps (R134 to R136, R138, R140 to R142, R391) -/

/-- A frame's LINKLOSS vector marks some input of a sub-tile, or the vector is no longer kept (R141, R391). -/
def State.subLost (s : State) (q : Nat) (frame : Option Nat) : Bool :=
  let f := frame.getD s.lastFrame
  let x := subOf q
  decide (64 < s.aheadFrame s.frame f)
    || (s.lossOf f &&& (inputMask (x.row 0) 16 ||| inputMask (x.col 0) 16)) ≠ 0

/-- What a dump takes from the standby set: in X2, after a spill, the 48-bit accumulators. -/
def State.dumpSet (s : State) (i : Nat) : State × CellSet :=
  let phys := !(s.cell i).active
  let s1 := s.spillSet i phys
  let x := (s1.cell i).get phys
  if x.mode = .x2 then
    let (s2, y) := s1.loadSlot i phys
    (s2, { x with acc := y.acc, res := y.res, sat := y.sat })
  else (s1, x)

/-- The old entry of a sub-tile: frames, flags, the count of each kept position, and whether a word of it was marked or
drew TERR (R265). An entry whose preload restarted counts as new (R266). -/
def State.oldEntry (s : State) (blk : Nat) (rec : Record) (cOut q : Nat) (ps : List Nat) : State × Nat × Nat × List Nat × Bool :=
  let a := flagAddr rec cOut q
  if s.restarts.contains a then
    ({ s with restarts := s.restarts.filter fun k => k ≠ a }, 0, 0, ps.map fun _ => 0, false)
  else
    let (s1, f) := s.cellRead blk a 4
    let e := valIn f 0 4
    if badIn f 0 4 then (s1, 0, 0, ps.map fun _ => 0, true)
    else if e / 256 = 0 then (s1, 0, e % 256, ps.map fun _ => 0, false)
    else
      let (s2, cs, bad) := (visRuns q ps).foldl (fun (z : State × List Nat × Bool) run =>
        let (t, l) := z.1.cellRead blk (countAddr rec cOut run.1) (2 * run.2.length)
        (t, z.2.1 ++ (List.range run.2.length).map (fun k => valIn l (2 * k) 2), z.2.2 || l.any (·.2))) (s1, [], false)
      if bad then (s2, 0, 0, ps.map fun _ => 0, true) else (s2, e / 256, e % 256, cs, false)

/-- A store by block `blk`, one piece a granule; in DRAM it counts as its tenancy's use (R44). -/
def State.putOut (s : State) (blk a : Nat) (d : List Byte) : State :=
  (pieces a d.length).foldl (fun t p =>
    let l := slice d (p - a) (2048 - p % 2048)
    ((t.useDram (s.blockTen blk) p l.length).engineWrite (s.seqWho blk) p (l.map fun b => (b, false))).1) s

/-- What runs of positions store, one list of bytes for each position in order. -/
def State.putRuns (s : State) (blk : Nat) (addr : Nat → Nat) (runs : List (Nat × List Nat)) (d : List (List Byte)) : State :=
  match runs with
  | [] => s
  | run :: r =>
    (s.putOut blk (addr run.1) (d.take run.2.length).flatten).putRuns blk addr r (d.drop run.2.length)

/-! ## Products of a close (R145, R149 to R152) -/

/-- m(V) of R149. -/
def rowMag (re im : Int) : Nat :=
  let a := re.natAbs
  let b := im.natAbs
  max a b + 3 * min a b / 8

/-- The sub-tiles whose closes make up row band `r` of tile `t`. -/
def bandSubs (t r : Nat) : List Nat :=
  let a := tileRow t
  let diag := t = tileStart a
  ((List.range 4).filter fun s => !diag || decide (r ≤ s)).map fun s => 16 * t + 4 * r + s

/-- The values of one close in visibility order; a position with an index that was not kept is 0 with count 0. -/
def Close.ordered (c : Close) : List (Int × Int × Nat) :=
  let x := subOf c.q
  ((List.range 256).filter x.indexed).map fun p =>
    match c.values.find? fun v => v.1 = p with
    | some v => v.2
    | none => (0, 0, 0)

/-- The smallest exponent for a group of parts (R152). -/
def groupExp (l : List Int) (e n : Nat) : Nat :=
  match n with
  | 0 => e
  | n + 1 => if l.all fun v => decide (-32767 ≤ roundC v e ∧ roundC v e ≤ 32767) then e else groupExp l (e + 1) n

/-- A list in groups of `k`. -/
def groupsOf {α : Type} (k : Nat) (l : List α) (fuel : Nat) : List (List α) :=
  match fuel, l with
  | 0, _ => []
  | _, [] => []
  | f + 1, l => l.take k :: groupsOf k (l.drop k) f

/-- The payload of a visibility band (R151, R152). -/
def visPayload (fmt : Nat) (l : List (Int × Int × Nat)) : List Byte :=
  if fmt = 1 then
    let gs := groupsOf 16 l l.length
    let es := gs.map fun g => groupExp (g.flatMap fun v => [v.1, v.2.1]) 0 32
    let pad := List.replicate ((8 - es.length % 8) % 8) (0 : Byte)
    es.map (BitVec.ofNat 8) ++ pad ++ (gs.zip es).flatMap fun ge =>
      ge.1.flatMap (fun v => leBytes 2 (toBits 16 (roundC v.1 ge.2)) ++ leBytes 2 (toBits 16 (roundC v.2.1 ge.2)))
        ++ List.replicate (4 * (16 - ge.1.length)) 0
  else l.flatMap fun v => leBytes 4 (toBits 32 v.1) ++ leBytes 4 (toBits 32 v.2.1)

/-- The payload of a count band (R151). -/
def countPayload (nInt vsh : Nat) (l : List (Int × Int × Nat)) : List Byte :=
  leBytes 4 nInt ++ [BitVec.ofNat 8 vsh, 0, 0, 0] ++ l.flatMap fun v => leBytes 2 v.2.2

/-- The record of tile row `i` from the closes of its band: MAX, COL, SUM (R149). -/
def rowRecord (cs : List Close) (i : Nat) : Nat × Nat × Nat :=
  let es := cs.flatMap fun c =>
    let x := subOf c.q
    c.values.filterMap fun v =>
      if x.row (v.1 / 16) = i ∧ x.col (v.1 % 16) ≠ i then some (rowMag v.2.1 v.2.2.1, x.col (v.1 % 16)) else none
  es.foldl (fun (m : Nat × Nat × Nat) e =>
    let best := m.2.1 = 0xFFFF || m.1 < e.1 || (m.1 = e.1 && e.2 < m.2.1)
    (if best then e.1 else m.1, if best then e.2 else m.2.1, m.2.2 + e.1)) (0, 0xFFFF, 0)

/-- The 16 bytes of a row record (R151). -/
def recordBytes (x : Nat × Nat × Nat) : List Byte := leBytes 4 x.1 ++ leBytes 2 x.2.1 ++ [0, 0] ++ leBytes 8 x.2.2

/-- A product waits for staging: a watch packet, of QoS 15, ahead of every product of a lower class (R169). -/
def State.addProduct (s : State) (p : Product) : State :=
  let isWatch := fun (x : Product) => decide (x.type = 0x20)
  { s with prods := if isWatch p then s.prods.filter isWatch ++ [p] ++ s.prods.filter fun x => !isWatch x else s.prods ++ [p] }

/-- The address of the row record of row `i` of tile `t` in region `r` (R219). -/
def rowAddr (r : Nat) (rec : Record) (cOut t i : Nat) : Nat :=
  regionBase r + rec.rowrec * 512 + ((cOut % 8 * 528 + t) * 64 + i % 64) * 16

/-- NC of a packet of product type `ty` (R151; log entry 116). -/
def packNc (ty : Nat) : Nat :=
  match ty with
  | 2 => 1 + Config.packNc 2 % 2
  | 3 => 1 + Config.packNc 3 % 4
  | 4 => 1 + Config.packNc 4 % 8
  | _ => 1

/-- The output channels of the packet of type `ty` that the output channel of `c` belongs to. -/
def State.packChans (s : State) (ty : Nat) (c : Close) : List Nat :=
  let nc := packNc ty
  ((List.range nc).map fun k => c.cOut / nc * nc + k).filter fun ch =>
    ch = c.cOut || decide (ch < 16 * s.chanP / (c.record.kM1 + 1))

/-- The closes of channel `ch` of the row band of `c` that have not left in a packet of kind `x`. -/
def State.bandCloses (s : State) (c : Close) (ch x : Nat) : List Close :=
  s.closes.filter fun y => y.q / 4 = c.q / 4 && y.cOut = ch && y.ten = c.ten && !y.sent.contains x

/-- The closes of channel `ch` of the tile of `c` that have not left in a packet of kind `x`. -/
def State.tileCloses (s : State) (c : Close) (ch x : Nat) : List Close :=
  s.closes.filter fun y => y.q / 16 = c.q / 16 && y.cOut = ch && y.ten = c.ten && !y.sent.contains x

/-- Closes leave in a packet of kind `x`; those that have left in each are dropped. -/
def State.markSent (s : State) (x : Nat) (l : List Close) : State :=
  { s with closes := (s.closes.map fun y => if l.contains y then { y with sent := y.sent ++ [x] } else y).filter fun y =>
      y.sent.length < 3 }

/-- The latest of some frames. -/
def State.latest (s : State) (l : List Nat) : Nat :=
  match l with
  | [] => 0
  | f :: r => r.foldl (fun a b => if 0 < s.aheadFrame b a then b else a) f

/-- A close that completes the last row band of a packet sends it: visibilities (`x` 0) or counts (`x` 1) of its output
channels (R145, R151). -/
def State.sendBand (s : State) (x : Nat) (c : Close) : State :=
  let t := c.q / 16
  let r := c.q / 4 % 4
  let ty := if x = 1 then 3 else if c.record.fmt = 1 then 2 else 1
  let chans := s.packChans ty c
  let subs := bandSubs t r
  if chans.any fun ch => decide ((s.bandCloses c ch x).length < subs.length) then s
  else
    let cs := chans.flatMap fun ch => s.bandCloses c ch x
    let part := fun (ch : Nat) =>
      let l := s.bandCloses c ch x
      let ordered := subs.flatMap fun q => match l.find? fun y => y.q = q with | some y => y.ordered | none => []
      let rec' := (l.headD c).record
      if x = 1 then countPayload rec'.nInt rec'.vsh ordered else visPayload c.record.fmt ordered
    let s0 := s.markSent x cs
    match nth c.record.flows x none with
    | some f => s0.addProduct
        { ten := c.ten, type := ty, flow := f, region := c.region, flags := cs.foldl (fun a y => a ||| y.flags) 0
          frame := s.latest (cs.map (·.frame)), chan0 := chans.headD c.cOut, nchan := chans.length, block := 4 * t + r
          payload := chans.flatMap part }
    | none => s0

/-- The records of some output channels of tile `t` as the pool of region `r` holds them, each byte with whether its word was
bad. -/
def State.poolRecords (s : State) (r : Nat) (rec : Record) (t : Nat) (chans : List Nat) : State × List (Byte × Bool) :=
  chans.foldl (fun (a : State × List (Byte × Bool)) ch =>
    let (u, l) := a.1.engineRead (rowAddr r rec ch t 0) 1024
    (u, a.2 ++ l)) (s, [])

/-- A close merges its rows into the records of its region's pool; when every record of the last output channel of a
row-record packet is complete, the packet copies the pool's records (R131, R149, R219). -/
def State.sendRows (s : State) (blk : Nat) (c : Close) : State :=
  let t := c.q / 16
  let band := (s.bandCloses c c.cOut 2).filter fun x => x.region = c.region
  let rows := (List.range 16).map fun u => (subOf c.q).row u
  let s1 := rows.foldl (fun a i => a.putOut blk (rowAddr c.region c.record c.cOut t i) (recordBytes (rowRecord band i))) s
  let chans := s.packChans 4 c
  let done := s.tileCloses c (chans.getLastD c.cOut) 2
  let need := (List.range 4).flatMap (bandSubs t)
  if need.all fun q => done.any fun x => x.q = q then
    let cs := chans.flatMap fun ch => s.tileCloses c ch 2
    let s2 := s1.markSent 2 cs
    match nth c.record.flows 2 none with
    | some f =>
      let (s3, l) := s2.poolRecords c.region c.record t chans
      s3.addProduct
        { ten := c.ten, type := 4, flow := f, region := c.region, flags := cs.foldl (fun a x => a ||| x.flags) 0
          frame := s.latest (cs.map (·.frame)), chan0 := chans.headD c.cOut, nchan := chans.length, block := 4 * t
          payload := l.map (·.1), crcBad := l.any (·.2) }
    | none => s2
  else s1

/-- A close of a DIAG sub-tile writes its autocorrelations to the normalisation vector, which is sent when every DIAG
sub-tile of the channel has closed (R150). -/
def State.sendNorm (s : State) (blk : Nat) (c : Close) : State :=
  let x := subOf c.q
  if x.a ≠ x.b || x.r ≠ x.s || shapeOf c.record.shape c.q = 3 then s
  else
    let base := c.record.norm + 8192 * c.cOut
    let autos := (List.range 16).map fun u => match c.values.find? fun v => v.1 = 17 * u with | some v => v.2.1 | none => 0
    let s1 := s.putOut blk (base + 4 * x.row 0) (autos.flatMap fun v => leBytes 4 (toBits 32 v))
    let old := (s1.norms.find? fun n => n.ten = c.ten && n.cOut = c.cOut).getD ⟨c.ten, c.cOut, 0, 0, c.frame⟩
    let new : Norm := ⟨c.ten, c.cOut, old.done ||| 2 ^ (x.row 0 / 16), old.flags ||| c.flags, s1.latest [old.frame, c.frame]⟩
    let s2 := { s1 with norms := s1.norms.filter fun n => !(n.ten = c.ten && n.cOut = c.cOut) }
    if new.done = 2 ^ (s1.chipInputs / 16) - 1 then
      match nth c.record.flows 3 none with
      | some f =>
        let (s3, l) := s2.cellRead blk base (4 * s2.chipInputs)
        s3.addProduct
          { ten := c.ten, type := 5, flow := f, region := c.region, flags := new.flags, frame := new.frame
            chan0 := c.cOut, nchan := 1
            payload := l.map (·.1) ++ List.replicate (8192 - 4 * s2.chipInputs) 0, crcBad := l.any (·.2) }
      | none => s2
    else { s2 with norms := s2.norms ++ [new] }

/-- A closing dump's product parts are gathered, and whatever they complete is sent. A close of a sub-tile replaces an older
one. -/
def State.stageClose (s : State) (blk : Nat) (c : Close) : State :=
  if !(bandSubs (c.q / 16) (c.q / 4 % 4)).contains c.q then s
  else
    let kept := s.closes.filter fun x => !(x.q = c.q && x.cOut = c.cOut && x.ten = c.ten)
    let s1 := { s with closes := kept ++ [c] }
    ((((s1.sendBand 0 c).sendBand 1 c).sendNorm blk c).sendRows blk c)

/-- The flags a set gives the entry it is dumped to: its sticky word, with SATURATED when a kept part saturated (R145). -/
def CellSet.entryFlags (x : CellSet) (ps : List Nat) : Nat :=
  (x.sticky.toNat % 256 &&& 0xFD) ||| (if ps.any fun p => x.sat.at (2 * p) false || x.sat.at (2 * p + 1) false then 2 else 0)

/-- Parts of a physical set of cell `i` that were clamped at write-back: their saturation bits, the sticky SATURATED bit and
the cell's bit in CELLSAT (R138). -/
def State.clampParts (s : State) (i : Nat) (phys : Bool) (l : List Nat) : State :=
  if l.isEmpty then s
  else
    let c := s.cell i
    let x := c.get phys
    (s.setCell i (c.put phys { x with
      sat := l.foldl (fun m k => Sparse.put m k true false) x.sat, sticky := x.sticky ||| 2 })).cellSat i

/-- A set is written back, or closed, as sub-tile `q` of output channel `cOut`; `extra` flags are added (R134, R135,
R140, R141, R145). NF holds at 0xFFFFFF (log entry 117). -/
def State.commitDump (s : State) (i : Nat) (phys close : Bool) (q cOut : Nat) (rec : Record) (x : CellSet) (extra : Nat) :
    State :=
  let blk := i / 32
  let ps := keptPositions rec.shape q
  let (s1, nf, oldFlags, counts, oldBad) := s.oldEntry blk rec cOut q ps
  let vals := ps.map fun p => (clampInt (-(lim 32) - 1) (lim 32) (x.acc.at (2 * p) 0),
    clampInt (-(lim 32) - 1) (lim 32) (x.acc.at (2 * p + 1) 0))
  let past := (ps.flatMap fun p => [2 * p, 2 * p + 1]).filter fun k =>
    decide (x.acc.at k 0 < -(lim 32) - 1 ∨ lim 32 < x.acc.at k 0)
  let beyond := !past.isEmpty
  let s2 := s1.clampParts i phys past
  let cnts := (ps.zip counts).map fun pc => min 65535 (pc.2 + (roundC (x.cnt.at pc.1 0) rec.vsh).toNat)
  let flags := oldFlags ||| x.entryFlags ps ||| extra ||| (if oldBad then 4 else 0) ||| (if beyond then 2 else 0)
    ||| (if s2.subLost q x.frame then 8 else 0)
  let runs := visRuns q ps
  let s3 := s2.putRuns blk (countAddr rec cOut) runs (cnts.map (leBytes 2))
  if close then
    let flags := flags ||| (if nf + 1 < rec.nInt then 1 else 0)
    let c : Close := ⟨blk / 12, s3.blockTen blk, q, cOut, rec, flags, x.frame.getD s3.lastFrame,
      (ps.zip (vals.zip cnts)).map (fun e => (e.1, e.2.1.1, e.2.1.2, e.2.2)), []⟩
    (s3.stageClose blk c).putOut blk (flagAddr rec cOut q) (leBytes 4 0)
  else
    (s3.putRuns blk (valueAddr rec cOut) runs
      (vals.map fun v => leBytes 4 (toBits 32 v.1) ++ leBytes 4 (toBits 32 v.2))).putOut blk
      (flagAddr rec cOut q) (leBytes 4 (min (nf + 1) 0xFFFFFF * 256 + flags))

/-- The sum of two parts of a split (R146). -/
def CellSet.merge (x y : CellSet) : CellSet :=
  let z := (List.range 512).foldl (fun (z : CellSet) p =>
    z.grow p (y.acc.at p 0) (y.res.at p 0) (-(lim 48) - 1) (lim 48)) x
  { z with
    cnt := (List.range 256).foldl (fun l p => Sparse.put l p (min 65535 (x.cnt.at p 0 + y.cnt.at p 0)) 0) []
    sat := (List.range 512).foldl (fun l p => if y.sat.at p false then Sparse.put l p true false else l) z.sat
    sticky := z.sticky ||| y.sticky
    frame := y.frame.orElse fun _ => x.frame }

/-- A dump's result goes to its merge slot, or is written (R146). Split is a close's: a write-back reads no QLOG2. -/
def State.finishDump (s : State) (i : Nat) (phys close : Bool) (rank q cOut : Nat) (rec : Record) (x : CellSet) (extra : Nat) :
    State :=
  if !close || rec.qlog2 = 0 then s.commitDump i phys close q cOut rec x extra
  else
    let x := { x with sticky := x.sticky ||| BitVec.ofNat 16 extra }
    let a := blockBase (i / 384) (i / 32 % 12) + (rec.merge + rank) * 4096
    let m : Merge := (s.merges.find? fun m => m.addr = a).getD ⟨a, 0, {}⟩
    let sum := m.set.merge x
    let s1 := { s with merges := s.merges.filter fun m => m.addr ≠ a }
    let s2 := if sum.sat ≠ m.set.sat then s1.cellSat i else s1
    if m.parts + 1 = 2 ^ rec.qlog2 then s2.commitDump i phys close q cOut rec sum 0x40
    else { s2 with merges := s2.merges ++ [⟨a, m.parts + 1, sum⟩] }

/-! ## Redo (R143) -/

/-- What the budget must cover for a redo: L·k samples and 300 cycles. -/
def State.redoCost (s : State) (rec : Record) : Nat := s.lenL * (rec.kM1 + 1) + 300

/-- The cycles of a correlation run of `n` samples: one sample a cycle in X, two in X2 (R126). -/
def runCycles (mode : CellMode) (n : Nat) : Nat := match mode with | .x2 => (n + 1) / 2 | _ => n

/-- The cycles a redo uses: its runs, and 300 for its preload and dump. -/
def Redo.cycles (d : Redo) : Nat :=
  (d.runs.map fun o => match o with | .start _ _ _ _ _ n _ _ => runCycles d.orig.mode n | _ => 0).sum + 300

/-- A cell is retired: in fuses, or by software from the FT on (R144). -/
def State.cellRetired (s : State) (blk c : Nat) : Bool :=
  bit (s.get blkFusedMask (blk / 12) (blk % 12)) c || bit (s.retired.at blk 0).toNat c

/-- Spare `x` of a block stands in for a retired cell (R144). -/
def State.standsIn (s : State) (blk x : Nat) : Bool :=
  s.stand.any fun e => e.1 / 32 = blk && e.2 = x + 1 && s.cellRetired blk (e.1 % 32)

/-- The declared spares of a block that are idle: nothing queued or running, in no redo, standing in for no cell. -/
def State.idleSpares (s : State) (blk : Nat) : List Nat :=
  (List.range 32).filter fun c =>
    bit (s.get blkSpareMask (blk / 12) (blk % 12)) c && !s.cellRetired blk c && (s.cell (32 * blk + c)).idle
      && !s.standsIn blk c && !s.redos.any fun d => d.blk = blk && d.spare = some c

/-- The record of a dump. -/
def CellOp.record (o : CellOp) : Option Record :=
  match o with
  | .dump _ _ _ _ rec => some rec
  | _ => none

/-- What withheld dumps may still take from the budget. -/
def State.redoClaims (s : State) (blk : Nat) : Nat :=
  ((s.redos.filter fun d => d.blk = blk).map fun d => match d.dump.record with | some r => s.redoCost r | none => 0).sum

/-- The withheld dumps of a block that wait for a spare. -/
def State.waitingRedos (s : State) (blk : Nat) : List Redo := s.redos.filter fun d => d.blk = blk && d.spare.isNone

/-- A redo of this dump may be promised: an idle spare is left, and the budget covers it. -/
def State.redoPossible (s : State) (blk : Nat) (rec : Record) : Bool :=
  decide ((s.waitingRedos blk).length < (s.idleSpares blk).length
    ∧ s.redoClaims blk + s.redoCost rec ≤ s.get blkRedoBudgetCycles (blk / 12) (blk % 12))

/-- A mismatch is written with RESIDUE: REDO.FAILED and its event. -/
def State.redoFailed (s : State) (blk : Nat) : State :=
  (s.count blkRedoFailed 1 (blk / 12) (blk % 12)).rgnRaise (blk / 12) 3

/-- The addresses a dump touches are all served. -/
def State.dumpServed (s : State) (close : Bool) (q cOut : Nat) (rec : Record) : Bool :=
  let ps := keptPositions rec.shape q
  !s.rangeHeld (flagAddr rec cOut q) 4 && ps.all fun p =>
    !s.rangeHeld (countAddr rec cOut (posIndex q p)) 2 && (close || !s.rangeHeld (valueAddr rec cOut (posIndex q p)) 8)

/-- A dump at the head of a cell's queue ends: checked, then written, closed or withheld. -/
def State.dumpDone (s : State) (i : Nat) : State :=
  let c := s.cell i
  match c.queue with
  | .dump close rank q cOut rec :: rest =>
    if !s.dumpServed close q cOut rec then s
    else
      let phys := !c.active
      let (s1, x) := s.dumpSet i
      let kept := keptPositions rec.shape q
      let (s2, bad) := s1.checkSet i q (fun p => kept.contains p) x
      let s3 := s2.setCell i { s2.cell i with queue := rest }
      if !bad then s3.finishDump i phys close rank q cOut rec x 0
      else if s3.redoPossible (i / 32) rec then
        { s3 with redos := s3.redos ++ [⟨i / 32, i % 32, phys, none, .dump close rank q cOut rec,
            if phys then c.fill1 else c.fill0, if phys then c.ran1 else c.ran0, x⟩] }
      else (s3.redoFailed (i / 32)).finishDump i phys close rank q cOut rec x 4
  | _ => s

/-- CELL_DUMP_DONE (R142). -/
def execCellDumpDone (r : Fin 4) (b : Fin 12) (c : Fin 32) (s : State) : Result :=
  .next (s.dumpDone (384 * r + 32 * b + c))

/-- REDO_START (R143): the oldest withheld dump of the block takes its lowest idle spare. -/
def execRedoStart (r : Fin 4) (b : Fin 12) (s : State) : Result :=
  let blk := 12 * r.val + b.val
  .next <|
    match s.waitingRedos blk, s.idleSpares blk with
    | d :: _, c :: _ => { s with redos := s.redos.map fun x => if x = d then { d with spare := some c } else x }
    | _, _ => s

/-- The runs of a redo on its spare. -/
def State.redoRuns (s : State) (i : Nat) (l : List CellOp) : State :=
  match l with
  | [] => s
  | o :: r =>
    let t := match o with
      | .start _ _ buf q _ n t0 _ => s.runSamples i buf q t0 n
      | _ => s
    t.redoRuns i r

/-- The mode a set's runs gave it. -/
def redoMode (l : List CellOp) (m : CellMode) : CellMode :=
  match l with
  | .start true mode _ _ _ _ _ _ :: _ => mode
  | _ => m

/-- Context memory and addresses of an operation are the original cell's; the source of a redo is filled again. -/
def State.refill (s : State) (i : Nat) (fill : CellOp) : State :=
  match fill with
  | .preload src rank q cOut rec => s.preload i fill src rank q cOut rec
  | .restore a =>
    let (s1, l) := s.cellRead (i / 32) a 2944
    let c := s1.cell i
    s1.setCell i (c.put (!c.active) (imageSet l))
  | _ =>
    let c := s.cell i
    s.setCell i (c.put (!c.active) {})

/-- The spare repeats what the set went through; what its set then holds. -/
def State.redoSet (s : State) (d : Redo) (spare : Nat) : State × CellSet :=
  match d.fill with
  | none => (s, d.orig)
  | some fill =>
    let i := 32 * d.blk + spare
    let s1 := (s.setCell i {}).refill i fill
    let c := s1.cell i
    let s2 := (s1.setCell i ({ c with active := true }.filled true fill)).convertSet i true (redoMode d.runs d.orig.mode)
    let s3 := (s2.setCell i { s2.cell i with ran1 := d.runs }).redoRuns i d.runs
    let s4 := s3.setCell i { s3.cell i with active := false }
    let (s5, x) := s4.dumpSet i
    (s5, { x with frame := d.orig.frame })

/-- REDO_END (R143): the cycles used are deducted from the budget, and the result is written. -/
def execRedoEnd (r : Fin 4) (b : Fin 12) (s : State) : Result :=
  let blk := 12 * r.val + b.val
  .next <|
    match s.redos.find? fun d => d.blk = blk && d.spare.isSome with
    | none => s
    | some d =>
      match d.dump, d.spare with
      | .dump close rank q cOut rec, some c =>
        if !s.dumpServed close q cOut rec then s
        else
          let (s1, x) := s.redoSet d c
          let kept := keptPositions rec.shape q
          let (s2, bad) := s1.checkSet (32 * blk + c) q (fun p => kept.contains p) x
          let s3 := ({ (s2.set blkRedoBudgetCycles (s2.get blkRedoBudgetCycles r b - d.cycles) r b) with
            redos := s2.redos.erase d }).count blkRedoDone 1 r b
          let s4 := if bad then s3.redoFailed blk else s3
          s4.finishDump (32 * blk + d.cell) d.phys close rank q cOut rec x (32 + if bad then 4 else 0)
      | _, _ => s

/-- At an FT a block's withheld dumps are written with RESIDUE (R143). -/
def State.flushRedos (s : State) (blk : Nat) : State :=
  let ds := s.redos.filter fun d => d.blk = blk
  ds.foldl (fun t d =>
    match d.dump with
    | .dump close rank q cOut rec => (t.redoFailed blk).finishDump (32 * blk + d.cell) d.phys close rank q cOut rec d.orig 4
    | _ => t) { s with redos := s.redos.filter fun d => d.blk ≠ blk }

/-! ## The operation queue (R191, R218, R220) -/

/-- The set a save or clear names. -/
def Cell.named (c : Cell) (active : Bool) : Bool := if active then c.active else !c.active

/-- CX.SAVE (R148): a spill first in X2, the check of R142, then the image. -/
def State.saveImage (s : State) (i : Nat) (active : Bool) (a : Nat) : State :=
  let phys := (s.cell i).named active
  let s1 := s.spillSet i phys
  let c := s1.cell i
  let x := c.get phys
  let (q, kept) := c.keeps phys
  let (s2, bad) := s1.checkSet i q kept x
  let y := if bad then { x with sticky := x.sticky ||| 4 } else x
  (s2.setCell i ((s2.cell i).put phys y)).putOut (i / 32) a y.image

/-- CX.CLEAR (R218): every accumulator, counter, residue and saturation bit of a physical set and its sticky word are 0, those
of its X2 slot among them in X2 (R221). -/
def State.clearSet (s : State) (i : Nat) (phys : Bool) (o : CellOp) : State :=
  let x := (s.cell i).get phys
  let s1 := if x.mode = .x2 then s.saveSlot i phys {} else s
  s1.setCell i (((s1.cell i).put phys
    { x with acc := [], cnt := [], res := [], sat := [], sticky := 0, frame := none }).filled phys o)

/-- What an operation at the head of a queue does when it ends. -/
def State.applyOp (s : State) (i : Nat) (o : CellOp) : State :=
  let c := s.cell i
  match o with
  | .start exchange mode buf _ _ n _ _ => s.beginRun i o exchange mode buf n
  | .beam _ nch _ _ n _ => if nch = 0 || n = 0 then s else s.setCell i { c with run := some ⟨o, s.cycle, 0⟩ }
  | .preload src rank q cOut rec => s.preload i o src rank q cOut rec
  | .save active a => s.saveImage i active a
  | .restore a =>
    let (s1, l) := s.cellRead (i / 32) a 2944
    let (s1, l) := s1.raceStores (i / 32) a l
    let c := s1.cell i
    s1.setCell i ((c.put (!c.active) (imageSet l)).filled (!c.active) o)
  | .clear active => s.clearSet i (c.named active) o
  | .spill phys => s.spillSet i phys
  | .dump .. => s

/-- The operation waits for the cell's run to end (R220). -/
def CellOp.waits (o : CellOp) : Bool :=
  match o with
  | .start .. | .beam .. => true
  | .save a _ => a
  | .clear a => a
  | _ => false

/-- The memory an operation needs is served. -/
def State.opServed (s : State) (o : CellOp) : Bool :=
  match o with
  | .preload .run _ q cOut (some rec) =>
    !s.rangeHeld (flagAddr rec cOut q) 4 && (keptPositions rec.shape q).all fun p =>
      !s.rangeHeld (valueAddr rec cOut (posIndex q p)) 8 && !s.rangeHeld (countAddr rec cOut (posIndex q p)) 2
  | .preload .abs rank _ _ (some rec) => !s.rangeHeld (rec.vBase + 2048 * rank) 2048
  | .save _ a => !s.rangeHeld a 2944
  | .restore a => !s.rangeHeld a 2944
  | _ => true

/-- The head of a cell's queue ends and the next operation starts; dumps end by CELL_DUMP_DONE. -/
def State.operationEnd (s : State) (i : Nat) : State :=
  let c := s.cell i
  match c.queue with
  | [] => s
  | o :: rest =>
    match o with
    | .dump .. => s
    | _ =>
      if (o.waits && c.run.isSome) || !s.opServed o then s
      else (s.setCell i { c with queue := rest }).applyOp i o

/-- CELL_OPERATION_END (R191). -/
def execCellOperationEnd (r : Fin 4) (b : Fin 12) (c : Fin 32) (s : State) : Result :=
  .next (s.operationEnd (384 * r + 32 * b + c))

/-- X2_FORCED_SPILL (R139): an X2 run reaches its next 256 samples. -/
def execX2ForcedSpill (r : Fin 4) (b : Fin 12) (c : Fin 32) (s : State) : Result :=
  let i := 384 * r.val + 32 * b.val + c.val
  .next <|
    match (s.cell i).run with
    | some ⟨.start _ _ _ _ _ n _ _, _, done⟩ =>
      let x := (s.cell i).get (s.cell i).active
      let more := 256 - x.phase.toNat
      if x.mode = .x2 && done + more ≤ n then s.advanceRun i (done + more) else s
    | _ => s

/-! ## At an FT (R30, R31, R144, R146) -/

/-- A run stops at an FT with the samples its cycles have added: one a cycle in X, two in X2. -/
def State.cutRun (s : State) (i : Nat) : State :=
  match (s.cell i).run with
  | some ⟨.start _ _ _ _ _ n _ _, since, _⟩ =>
    let x := (s.cell i).get (s.cell i).active
    let per := if x.mode = .x2 then 2 else 1
    let s1 := s.advanceRun i (min n (per * (s.cycle - since)))
    s1.setCell i { s1.cell i with run := none }
  | some _ => s.setCell i { s.cell i with run := none }
  | none => s

/-- A started operation at the head of a queue runs to its end (R31). -/
def State.finishHead (s : State) (i : Nat) : State :=
  match (s.cell i).queue with
  | .dump .. :: _ => s.dumpDone i
  | _ :: _ => s.operationEnd i
  | [] => s

/-- An overrun block's cells at an FT: queued operations cancelled, started ones finished, runs stopped (R30, R31). -/
def State.overrunCells (s : State) (blk : Nat) : State :=
  let s1 := (s.cancelBlock blk)
  (s1.cells.filter fun e => e.1 / 32 = blk).foldl (fun t e => (t.finishHead e.1).cutRun e.1) s1

/-- What an FT does to block `blk` besides its sequencer: overrun, redos, merge slots, RETIRE in effect. -/
def State.tickBlock (s : State) (blk : Nat) : State :=
  let s1 := if s.overran blk then s.overrunCells blk else s
  let s2 := s1.flushRedos blk
  let base := blockBase (blk / 12) (blk % 12)
  { s2 with
    merges := s2.merges.filter fun m => !(decide (base ≤ m.addr ∧ m.addr < base + 0x200000))
    retired := s2.retired.put blk (BitVec.ofNat 32 (s2.get blkRetireMask (blk / 12) (blk % 12))) 0 }

end Sys2Proof.Machine
end

