-- ==== Sys2Proof/Machine/Gate.lean ====
section
/-! DEFINITION. The release gate of the channel buffers (R229 to R232). -/

namespace Sys2Proof.Machine

/-- The gate acts. -/
def State.gateOn (s : State) : Bool := s.on gateIssuerEn

/-- The issuer's block number. -/
def State.gateIssuerBlk (s : State) : Nat := 12 * s.get gateIssuerRegion + s.get gateIssuerBlock

/-- Block `blk` is a member; a block retired by software is none (R273). -/
def State.gateMember (s : State) (blk : Nat) : Bool := bit (s.get gateMembersMask) blk && !s.blockRetired blk

/-- The mask of the members. -/
def State.gateMask (s : State) : Nat :=
  (List.range 48).foldl (fun a i => a + b2n (s.gateMember i) * 2 ^ i) 0

/-- A write of `GATE.MEMBERS` (R229). -/
def State.writeGateMembers (s : State) (w : Who) (v : Nat) : State :=
  s.guarded0 w (gateMembers.key 0 0) fun s =>
    if s.on tickCtrlRun then s.reject w (gateMembers.key 0 0) else s.set gateMembersMask v

/-- A write of `GATE.ISSUER`. -/
def State.writeGateIssuer (s : State) (w : Who) (v : Nat) : State :=
  s.guarded0 w (gateIssuer.key 0 0) fun s =>
    if s.on tickCtrlRun || 12 ≤ bits v 3 0 then s.reject w (gateIssuer.key 0 0)
    else s.writeFieldsOf gateIssuer 0 0 v

/-- The issuer announces that buffer `x` is filled (R230). -/
def State.gateFill (s : State) (blk x : Nat) : State :=
  if !s.gateOn || blk ≠ s.gateIssuerBlk then s
  else
    let s1 := if s.get gatePendMask x ≠ 0 then (s.setW1c gateStatusEarly).raise 423 else s
    let s2 := s1.set gatePendMask s1.gateMask x
    (List.range 48).foldl (fun t i => if s.gateMember i then t.setLine i (12 + x) else t) s2

/-- A member releases buffer `x` (R231): recorded at once. -/
def State.gateRelease (s : State) (blk x : Nat) : State :=
  if !s.gateOn || !s.gateMember blk then s
  else { s with releases := s.releases ++ [⟨blk, x, (s.seq blk).starts⟩] }

/-- A run on buffer `x` issued before CX.START number `serial`. -/
def CellOp.uses (o : CellOp) (x serial : Nat) : Bool :=
  match o with
  | .start _ _ buf _ _ _ _ n => buf = x && decide (n < serial)
  | _ => false

/-- Cell `c` still has to run on the buffer. -/
def Cell.uses (c : Cell) (x serial : Nat) : Bool :=
  c.queue.any (·.uses x serial) || (match c.run with | some r => r.op.uses x serial | none => false)

/-- Every run a release waits for has ended, and every redo of what such a run fed. -/
def State.releaseDue (s : State) (r : Release) : Bool :=
  (s.cells.all fun e => e.1 / 32 ≠ r.blk || (match e.2 with | none => true | some c => !c.uses r.x r.serial))
    && s.redos.all fun d => d.blk ≠ r.blk || !d.runs.any (·.uses r.x r.serial)

/-- A release takes effect while the gate is on: the member's bit clears, and the last one sets line 14 + x in the issuer
(R229, R231). -/
def State.releaseEffect (s : State) (r : Release) : State :=
  let s1 := { s with releases := s.releases.erase r }
  let m := s1.get gatePendMask r.x
  if !s.gateOn || !bit m r.blk then s1
  else
    let s2 := s1.set gatePendMask (m - 2 ^ r.blk) r.x
    if m = 2 ^ r.blk then s2.setLine s2.gateIssuerBlk (14 + r.x) else s2

/-- GATE_RELEASE (R231). -/
def execGateRelease (r : Fin 4) (b : Fin 12) (x : Fin 2) (s : State) : Result := .next (s.gateRelease (12 * r + b) x)

/-- GATE_RELEASE_EFFECT (R231): the oldest release of the block for this buffer. -/
def execGateReleaseEffect (r : Fin 4) (b : Fin 12) (x : Fin 2) (s : State) : Result :=
  .next <|
    match s.releases.find? fun e => e.blk = 12 * r.val + b.val && e.x = x.val with
    | some e => if s.releaseDue e then s.releaseEffect e else s
    | none => s

/-- GATE_FILL (R230). -/
def execGateFill (r : Fin 4) (b : Fin 12) (x : Fin 2) (s : State) : Result := .next (s.gateFill (12 * r + b) x)

/-- A block's program writes `BUFREL` (R229); fills act before releases. -/
def State.writeBufrel (s : State) (blk v : Nat) : State :=
  let s := if bit v 2 then s.gateFill blk 0 else s
  let s := if bit v 3 then s.gateFill blk 1 else s
  let s := if bit v 0 then s.gateRelease blk 0 else s
  if bit v 1 then s.gateRelease blk 1 else s

/-- What an FT does to the gate (R232). -/
def State.tickGate (s : State) : State :=
  { (s.set gatePendMask 0 0).set gatePendMask 0 1 with releases := [] }

end Sys2Proof.Machine
end

