-- ==== Sys2Proof/Machine/Commit.lean ====
section
/-! DEFINITION. The tick unit's registers: commits (R34 to R37), `TICK.CTRL` and `TICK.EPOCH` (R26), the seal point
(R33), and the reservations of tenancies (R45). -/

namespace Sys2Proof.Machine

/-- A write of `TICK.COMMIT` (R37): the bits the writer's tenancy may use act; the others raise the rejected-write
event. -/
def State.writeCommit (s : State) (w : Who) (v : Nat) : State :=
  s.guarded w (tickCommit.key 0 0) true fun s =>
    let s1 := s.commitBits w.fn v
    if (bit v 0 || bit v 1) && w.fn.val ≠ 0 then s1.reject w (tickCommit.key 0 0) else s1

/-- COMMIT_EQ (R34, R37). -/
def execCommitEq (w : Who) (s : State) : Result := .next (s.writeCommit w 1)

/-- COMMIT_DLY (R34, R37). -/
def execCommitDly (w : Who) (s : State) : Result := .next (s.writeCommit w 2)

/-- COMMIT_BW (R34, R37). -/
def execCommitBw (w : Who) (s : State) : Result := .next (s.writeCommit w 4)

/-- COMMIT_WT (R34, R37). -/
def execCommitWt (w : Who) (s : State) : Result := .next (s.writeCommit w 8)

/-- What `TICK.COMMIT_ST` shows of one table (R34). -/
def State.commitField (s : State) (t : Table) : Nat :=
  b2n (s.tick.swapNext.contains t) + 2 * b2n (s.tick.swapThen.contains t)

/-- `TICK.COMMIT_ST` as function `f` reads it. -/
def State.commitSt (s : State) (f : Nat) : Nat :=
  s.commitField .eq + 4 * s.commitField .dly + 16 * s.commitField (.bw f) + 64 * s.commitField (.wt f)

/-! ## Where an FT falls -/

/-- The core cycle at which the frame in hand would be ended by coasting, measured on the timebase (R23): one nominal
frame after the latest FT, and `TICK.SKEW.MAX` later unless the chip coasts already. -/
def State.coastAt (s : State) : Nat :=
  let u := (160 * s.frameLen + (if s.on tickStatusCoasting then 0 else s.skewMax)) * 800000000000000
  (4 * ((s.cycle / 4 : Nat) + s.cyclesFor ((u : Int) - s.tick.passed))).toNat

/-- The arrivals, by port, of the boundary of frame `f` at the ports that are UP. -/
def State.arrivals (s : State) (f : Nat) : List (Nat × Nat) :=
  s.upPorts.filterMap fun n => ((s.port n).bounds.find? fun x => x.1 = f).map fun x => (n, x.2)

/-- The earliest of some arrivals. -/
def earliest (l : List (Nat × Nat)) : Option Nat := (l.map (·.2)).min?

/-- The latest of some arrivals. -/
def latestOf (l : List (Nat × Nat)) : Option Nat := (l.map (·.2)).max?

/-- The arrivals that count towards the next FT: while coasting none before the first whose tick lies within SKEW.MAX of
the coasted one; otherwise all, once one came by the coast deadline (R21 to R23). -/
def State.counted (s : State) : List (Nat × Nat) :=
  let l := s.arrivals s.frame
  if s.on tickStatusCoasting then
    match earliest (l.filter fun x => s.skewOk x.2 s.coastAt) with
    | some a => l.filter fun x => decide (a ≤ x.2)
    | none => []
  else if l.any fun x => decide (x.2 ≤ s.coastAt) then l else []

/-- The arrivals R22 does not cut off: within SKEW.MAX of the earliest. -/
def State.inSkew (s : State) : List (Nat × Nat) :=
  match earliest s.counted with
  | some a => s.counted.filter fun x => decide (x.2 ≤ a + s.skewMax)
  | none => []

/-- The seal point of the frame in hand, 4 µs before the earliest of the ticks it goes by (R33): the one the boundary
places once every port that is UP has delivered it, the one R22 would force, and the coasted one while COAST_EN is 1. -/
def State.sealAt (s : State) : Option Nat :=
  let l := s.counted
  let placed := if l.length = s.upPorts.length then (latestOf l).map s.tickFrom else none
  let forced := (earliest l).map fun a => s.tickFrom (a + s.skewMax)
  let coasted := if s.on tickCtrlCoastEn then some s.coastAt else none
  ([placed, forced, coasted].filterMap fun x => x.map fun c => c - 5000).min?

/-- Drains still pending when ticking stops take effect at once (R67; log entry 22). -/
def State.drainPending (s : State) : State :=
  (s.upPorts.filter fun n => s.on ingPstateDrainPend n).foldl State.drainUp s

/-- RUN is set or cleared (R23, R26). Once no tick is derived, no seal point stands, the writes it held land, and drains
take effect at once; what a seal point has chosen or deferred for the rings is void (R33, R114). -/
def State.setRun (s : State) (v : Bool) : State :=
  if v = s.on tickCtrlRun then s
  else
    let s1 := { s.set tickCtrlRun (b2n v) with
      tick := { s.tick with seen := false, first := none }, formed := [], hold := [], released := 0
      mire := { s.mire with
        choice := .undecided, late := false
        keepPend := s.mire.keepPend.map fun (e : Nat × Option (Bool × Bool)) => (e.1, e.2.map fun x => (x.1, false)) } }
    if v then s1 else (((s1.set tickStatusSealed 0).set tickStatusCoasting 0).landHeld).drainPending

/-- A write of `TICK.CTRL` (R26). While RUN is 1, a write that changes L_SEL counts as a write to it and is refused whole;
one that leaves L_SEL as it is acts on the other fields (log entry 104). -/
def State.writeTickCtrl (s : State) (w : Who) (v : Nat) : State :=
  s.guarded0 w (tickCtrl.key 0 0) fun s =>
    if s.on tickCtrlRun && bits v 5 4 ≠ s.get tickCtrlLSel then s.reject w (tickCtrl.key 0 0)
    else
      let s1 := ((s.set tickCtrlCoastEn (bits v 8 8)).set tickCtrlLSel (bits v 5 4)).set tickCtrlEpochAuto (bits v 1 1)
      (if bits v 5 4 = s.get tickCtrlLSel then s1 else s1.renumber).setRun (bit v 0)

/-- TICK_CTRL_WRITE (R26). -/
def execTickCtrlWrite (w : Who) (v : Word) (s : State) : Result := .next (s.writeTickCtrl w v.toNat)

/-- A write of `TICK.EPOCH` (R26): refused while RUN is 1. -/
def State.writeEpoch (s : State) (w : Who) (v : Nat) : State :=
  s.guarded0 w (tickEpoch.key 0 0) fun s =>
    if s.on tickCtrlRun then s.reject w (tickEpoch.key 0 0) else (s.set tickEpochEpoch v).renumber

/-- The sum of a reservation field over the tenancies, with `v` in tenancy `t`. -/
def State.reserved (s : State) (f : RField) (t v : Nat) : Nat :=
  ((List.range 4).map fun u => if u = t then v else s.get f u).sum

/-- A write of `TENt.RESERVE` (R45). -/
def State.writeReserve (s : State) (w : Who) (t v : Nat) : State :=
  s.guarded0 w (tenReserve.key t 0) fun s =>
    if 1024 < s.reserved tenReserveEgr t (bits v 25 15) || 128 < s.reserved tenReserveDram t (bits v 7 0)
        || bits v 25 15 < bits v 31 26 then s.reject w (tenReserve.key t 0)
    else s.writeFieldsOf tenReserve t 0 v

/-- TEN_RESERVE_WRITE (R45). -/
def execTenReserveWrite (w : Who) (t : Fin 4) (v : Word) (s : State) : Result := .next (s.writeReserve w t v.toNat)

/-- SEAL_POINT (R33): commits wait from now on, and the ring's choice for the coming frame is made (R114). The frame in
hand has none before the first FT, nor with COAST_EN = 0 while no boundary has arrived. -/
def execSealPoint (s : State) : Result :=
  .next <|
    if !s.ticking || s.on tickStatusSealed then s
    else
      match s.sealAt with
      | some c => (((s.elapseTo (c - 1)).set tickStatusSealed 1).elapseTo c).losing State.mireChoice
      | none => s

end Sys2Proof.Machine
end

