-- ==== Sys2Proof/Machine/Beams.lean ====
section
/-! DEFINITION. Beams (R153 to R171): configuration, B-mode partials and the pool's sums, and what is formed from them:
voltage packets, power and Stokes periods, watch spectra and alerts. -/

namespace Sys2Proof.Machine

/-! ## Configuration (R157, R160, R161, R163, R164, R166, R167) -/

/-- Value `v` of `BEAMβ.CFG` pairs polarisations. -/
def cfgPaired (v : Nat) : Bool := bits v 25 24 = 1 || bits v 25 24 = 2

/-- The voltage beams value `v` counts for (R161). -/
def cfgVolts (v : Nat) : Nat := if bit v 29 then (if cfgPaired v then 2 else 1) else 0

/-- CAVG of value `v`; 5 to 7 act as 4. -/
def cfgCavg (v : Nat) : Nat := min 4 (bits v 13 11)

/-- An enabled block, not retired, names beam `β`. -/
def State.beamNamed (s : State) (β : Nat) : Bool :=
  (List.range 48).any fun i =>
    let r := i / 12
    let b := i % 12
    s.on blkBeamEn r b && !s.blockRetired i && s.get blkBeamB0 r b ≤ β && β ≤ s.get blkBeamB0 r b + s.get blkBeamNbm1 r b

/-- A value of `BEAMβ.CFG` that must be refused (R161, R163, R167, and TEN under an enabled block). -/
def State.beamCfgRefused (s : State) (β v : Nat) : Bool :=
  let others := (List.range 256).filter fun x => x ≠ β
  (bits v 31 30 ≠ s.get beamCfgTen β && s.beamNamed β)
    || decide (15 < bits v 17 14 + cfgCavg v)
    || (bit v 29 && decide (32 < cfgVolts v + (others.map fun x => cfgVolts (s.reg beamCfg x 0)).sum))
    || (bit v 27 && others.any fun x =>
          s.on beamCfgWatch x && s.get beamCfgTen x = bits v 31 30 && s.get beamCfgWslot x = bits v 9 4)

/-- A write of `BEAMβ.CFG`, or of `BEAMβ.OUT`; it acts at the next FT (R166). TEN takes a write of function 0 only. -/
def State.writeBeam (s : State) (w : Who) (β : Nat) (out : Bool) (v : Nat) : State :=
  let r := if out then beamOut else beamCfg
  s.guarded w (r.key β 0) (w.fn = 0 || w.fn.val = s.get beamCfgTen β) fun s =>
    if out then s.writeFieldsOf beamOut β 0 v
    else
      let x := writeFields beamCfg.fields (s.reg beamCfg β 0) (if w.fn = 0 then v else setBits v 31 30 (s.get beamCfgTen β))
      if s.beamCfgRefused β x then s.reject w (r.key β 0) else s.setReg beamCfg β 0 x

/-- BEAM_CFG_WRITE (R166). -/
def execBeamCfgWrite (w : Who) (beam : BitVec 8) (out : Bool) (v : Word) (s : State) : Result :=
  .next (s.writeBeam w beam.toNat out v.toNat)

/-- What R157 refuses of value `v` of `RGNr.BLKb.BEAM`. -/
def State.blockBeamRefused (s : State) (r b v : Nat) : Bool :=
  let b0 := bits v 7 0
  let nb := bits v 15 8 + 1
  let g0 := bits v 23 21
  let ng := bits v 20 18 + 1
  let wdiv := 2 ^ min 8 (bits v 27 24)
  let meets := fun (a n c m : Nat) => decide (a < c + m ∧ c < a + n)
  (s.seq (12 * r + b)).st.owning
    || decide (1048576 < nb * (s.portInputs * ng) * max 1 (4 * s.chanP / wdiv) * 2)
    || decide (256 < b0 + nb)
    || ((List.range nb).any fun i => s.get beamCfgTen (b0 + i) ≠ s.blockTen (12 * r + b))
    || ((List.range 12).any fun c => c ≠ b && s.on blkBeamEn r c && !s.blockRetired (12 * r + c)
          && meets b0 nb (s.get blkBeamB0 r c) (s.get blkBeamNbm1 r c + 1)
          && meets g0 ng (s.get blkBeamG0 r c) (s.get blkBeamNgm1 r c + 1))

/-- A write of `RGNr.BLKb.BEAM` (R157). -/
def State.writeBlockBeam (s : State) (w : Who) (r b v : Nat) : State :=
  s.guarded0 w (blkBeam.key r b) fun s =>
    if s.blockBeamRefused r b v then s.reject w (blkBeam.key r b)
    else s.writeFieldsOf blkBeam r b v

/-- BLOCK_BEAM_WRITE (R157). -/
def execBlockBeamWrite (w : Who) (r : Fin 4) (b : Fin 12) (v : Word) (s : State) : Result :=
  .next (s.writeBlockBeam w r b v.toNat)

/-- A write of `BEAM.CMD`: CLRCNT clears every `BEAMβ.CLAMP`. -/
def State.writeBeamCmd (s : State) (w : Who) (v : Nat) : State :=
  s.guarded0 w (beamCmd.key 0 0) fun s =>
    if bit v 0 then (List.range 256).foldl (fun t β => t.setReg beamClamp β 0 0) s else s

/-- BEAM_CLRCNT (R160). -/
def execBeamClrcnt (w : Who) (s : State) : Result := .next (s.writeBeamCmd w 1)

/-- The configuration of beam `β` in effect (R166). -/
def State.beamC (s : State) (β : Nat) : Nat := (s.beamActive.at (2 * β) none).getD (beamCfg.reset β 0)

/-- The output configuration of beam `β` in effect. -/
def State.beamO (s : State) (β : Nat) : Nat := (s.beamActive.at (2 * β + 1) none).getD (beamOut.reset β 0)

/-- PSHIFT in effect; 25 to 31 act as 24. -/
def State.pshift (s : State) (β : Nat) : Nat := min 24 (bits (s.beamO β) 22 18)

/-- The flow of output `x` of a beam: 0 voltage, 1 power, 2 watch. -/
def State.beamFlow (s : State) (β x : Nat) : Nat := (bits (s.beamO β) 17 0 + x) % 2 ^ 18

/-! ## B-mode runs (R153 to R156, R164, R265) -/

/-- The key of a beam sum. -/
def beamKey (β c t pol : Nat) : Nat := ((β * 4096 + c) * 8192 + t) * 2 + pol

/-- The sum of beam `β`, chip fine channel `c`, fine time `t`, pair member `pol`. -/
def State.beamSum (s : State) (β c t pol : Nat) : BeamSum := s.beams.at (beamKey β c t pol) {}

/-- `s` with another beam sum. -/
def State.setBeamSum (s : State) (β c t pol : Nat) (x : BeamSum) : State :=
  { s with beams := s.beams.put (beamKey β c t pol) x {} }

/-- The pair member that chip input `i` belongs to under PAIR of value `v` (R164). -/
def State.pairMember (s : State) (v i : Nat) : Nat :=
  match bits v 25 24 with
  | 1 => i % 2
  | 2 => b2n (decide (s.portInputs / 2 ≤ i % s.portInputs))
  | _ => 0

/-- The staged fine sample of chip input `i` in channel `c` at time `t` of the frame in hand. -/
def State.staged (s : State) (i c t : Nat) : Option Byte :=
  let size := if s.wide then 32 else 64
  let n := i / s.portInputs
  let g := i % s.portInputs / size
  (s.staging.find? fun e => e.port = n && e.g = g && e.frame = s.frame && e.t = t && e.c = c).map fun e =>
    nth e.bytes (i % size) 0x88

/-- One input's contribution to one beam sample: the weight is read, a bad one, or one whose operand fails its parity
(`badW`), spoils the sample; a sample whose operand fails its parity (`badX`) is flagged (R265). -/
def State.beamInput (s : State) (wa : Nat) (x : Byte) (badW badX : Bool) (m : BeamSum) : State × BeamSum :=
  let (s1, l) := s.engineRead wa 2
  let wr := sext 8 (valIn l 0 1)
  let wi := sext 8 (valIn l 1 1)
  let re := sext 4 (x.toNat / 16)
  let im := sext 4 (x.toNat % 16)
  if badW || badIn l 0 2 then (s1, { m with spoiled := true })
  else if badX || decide (re = -8 ∨ im = -8) then (s1, m)
  else (s1, { m with
    re := m.re + (re * wr - im * wi), im := m.im + (re * wi + im * wr), any := m.any || decide (wr ≠ 0 ∨ wi ≠ 0)
    resRe := (m.resRe + mod15 (re * wr - im * wi)) % 15, resIm := (m.resIm + mod15 (re * wi + im * wr)) % 15 })

/-- A run's part of one beam sample: the inputs of its chunks, for local beam `lb`; weights are the rows of the operands, data
the columns (R126). -/
def State.beamPart (s : State) (r b lb chan t i0 n : Nat) (bad : List Nat) : State :=
  let β := s.get blkBeamB0 r b + lb
  let ni := s.beamInputs r b
  let nb := s.get blkBeamNbm1 r b + 1
  let c := 4 * s.chanP * r + chan
  let wch := chan / s.beamWdiv r b
  let v := s.beamC β
  let (s1, x, y) := (List.range n).foldl (fun (a : State × BeamSum × BeamSum) o =>
    let li := i0 + o
    let i := s.portInputs * s.get blkBeamG0 r b + li
    let wa := weightAddr r b (s.liveWeights (12 * r + b)) (((wch * ni + li) * nb + lb) * 2)
    let smp := (s.staged i c t).getD 0x88
    if s.pairMember v i = 1 then
      let (st, m) := a.1.beamInput wa smp (bad.contains (o % 16)) (bad.contains (16 + o % 16)) a.2.2
      (st, a.2.1, m)
    else
      let (st, m) := a.1.beamInput wa smp (bad.contains (o % 16)) (bad.contains (16 + o % 16)) a.2.1
      (st, m, a.2.2)) (s, s.beamSum β c t 0, s.beamSum β c t 1)
  (s1.setBeamSum β c t 0 { x with parts := x.parts + n / 16 }).setBeamSum β c t 1 { y with parts := y.parts + n / 16 }

/-- Every input of chip fine channel `4 P r + chan` that a B-mode run takes at fine time `t` has been staged. -/
def State.timeStaged (s : State) (r b chan nch ch0 t : Nat) : Bool :=
  (List.range (nch * 16)).all fun o =>
    let i := s.portInputs * s.get blkBeamG0 r b + 16 * ch0 + o
    decide (s.chipInputs ≤ i) || (s.staged i (4 * s.chanP * r + chan) t).isSome

/-- A B-mode run goes on, fine time by fine time, until it has added `n` of them or meets one not staged. -/
def State.beamTimes (s : State) (i chan nch ch0 b0 t n : Nat) : State × Nat :=
  match n with
  | 0 => (s, 0)
  | n + 1 =>
    let r := i / 384
    let b := i / 32 % 12
    if !s.timeStaged r b chan nch ch0 t then (s, 0)
    else
      let beams := (List.range 16).filter fun x => b0 + x ≤ s.get blkBeamNbm1 r b
      let bad := s.parityOf i
      let s1 := (beams.foldl (fun t' x => t'.beamPart r b (b0 + x) chan t (16 * ch0) (16 * nch) bad) s).parityFailed i 0
      let (s2, k) := s1.beamTimes i chan nch ch0 b0 (t + 1) n
      (s2, k + 1)

/-- A B-mode run goes on until it has added `upTo` fine times, as far as they are staged; a block that forms no beams and a
channel beyond the region's 4P add nothing (R154). -/
def State.advanceBeam (s : State) (i upTo : Nat) : State :=
  match (s.cell i).run with
  | some ⟨.beam chan nch ch0 b0 n t0, since, done⟩ =>
    if !s.on blkBeamEn (i / 384) (i / 32 % 12) || 4 * s.chanP ≤ chan then
      s.setCell i { s.cell i with run := some ⟨.beam chan nch ch0 b0 n t0, since, max done (min upTo n)⟩ }
    else
      let (s1, k) := s.beamTimes i chan nch ch0 b0 (t0 + done) (min upTo n - done)
      s1.setCell i { s1.cell i with run := some ⟨.beam chan nch ch0 b0 n t0, since, done + k⟩ }
  | _ => s

/-- CELL_RUN_END (R220): a run adds what it has still to add and ends; a B-mode run waits for samples not yet staged. -/
def State.runEnd (s : State) (i : Nat) : State :=
  match (s.cell i).run with
  | some ⟨.start _ _ _ _ _ n _ _, _, _⟩ =>
    let s1 := s.advanceRun i n
    s1.setCell i { s1.cell i with run := none }
  | some ⟨.beam _ _ _ _ n _, _, _⟩ =>
    let s1 := s.advanceBeam i n
    match (s1.cell i).run with
    | some x => if n ≤ x.done then s1.setCell i { s1.cell i with run := none } else s1
    | none => s1
  | _ => s

/-- CELL_RUN_END (R220). -/
def execCellRunEnd (r : Fin 4) (b : Fin 12) (c : Fin 32) (s : State) : Result :=
  .next (s.runEnd (384 * r + 32 * b + c))

/-! ## Beam samples (R155, R160) -/

/-- The chunks of 16 inputs that make up a sample of beam `β` in region `r` (R155): those of its enabled blocks. -/
def State.chunksDue (s : State) (β r : Nat) : Nat :=
  ((List.range 12).map fun b =>
    if s.on blkBeamEn r b && !s.blockRetired (12 * r + b) && s.get blkBeamB0 r b ≤ β
        && β ≤ s.get blkBeamB0 r b + s.get blkBeamNbm1 r b then s.beamInputs r b / 16 else 0).sum

/-- A beam sample has been formed (R32). -/
def State.formedSum (s : State) (β r c t pol : Nat) : Bool :=
  let x := s.beamSum β c t pol
  !x.spoiled && decide (s.chunksDue β r ≤ x.parts)

/-- A sample as the formatter leaves it: its parts, and how many of them were clamped; none when it is flagged (R160). -/
def State.formatted (s : State) (β r c t pol shift : Nat) (limit : Int) : Option (Int × Int) × Nat :=
  let x := s.beamSum β c t pol
  if !s.formedSum β r c t pol || !x.any then (none, 0)
  else
    let re := roundC x.re shift
    let im := roundC x.im shift
    let a := clampInt (-limit) limit re
    let b := clampInt (-limit) limit im
    (some (a, b), b2n (decide (a ≠ re)) + b2n (decide (b ≠ im)))

/-- The formatter reads pool sums of region `r`, each value with its companion: a mismatch is logged, at a location the spec
does not give, and sets `RGNn.ERRSTAT.POOL_RES` (R261, R270, R271). The second result tells whether there was one. -/
def State.checkSums (s : State) (r : Nat) (l : List (Int × Nat)) : State × Bool :=
  let bad := l.filter fun x => mod15 x.1 ≠ x.2
  (bad.foldl (fun t x =>
    ((t.rgnErr r 6).error 2 (Config.freeNat t.fresh 0 % 2 ^ 48) 10 (x.2 % 16 * 16 + mod15 x.1)).drawn) s, !bad.isEmpty)

/-- The parts of a beam sum with their companions, when the formatter reads it. -/
def State.sumParts (s : State) (β c t pol : Nat) : List (Int × Nat) :=
  let x := s.beamSum β c t pol
  [(x.re, x.resRe), (x.im, x.resIm)]

/-- Clamps are counted in `BEAMβ.CLAMP`. -/
def State.addClamps (s : State) (β n : Nat) : State := if n = 0 then s else s.count beamClampCount n β

/-- LINKLOSS for a product of the frames given (R63). -/
def State.lossFlag (s : State) (frames : List Nat) : Nat := if frames.any fun f => s.lossOf f ≠ 0 then 8 else 0

/-! ## Voltage (R161, R162) -/

/-- NC of a voltage packet. -/
def State.voltNc (s : State) : Nat := min (4 * s.chanP) 256

/-- Bytes a sample takes under CFG value `v`, both pair members together. -/
def voltZ (v : Nat) : Nat := (if bit v 23 then 2 else 1) * (if cfgPaired v then 2 else 1)

/-- NT of a voltage packet. -/
def State.voltNt (s : State) (v : Nat) : Nat := 8192 / (s.voltNc * voltZ v)

/-- The samples of a voltage packet in payload order: channel, time and pair member. -/
def State.voltSamples (s : State) (v r c0 t0 : Nat) : List (Nat × Nat × Nat) :=
  (List.range (s.voltNt v)).flatMap fun dt => (List.range s.voltNc).flatMap fun dc =>
    (List.range (if cfgPaired v then 2 else 1)).map fun pol => (4 * s.chanP * r + c0 + dc, t0 + dt, pol)

/-- The bytes of a formatted voltage sample (R161, R162). -/
def voltBytes (wide : Bool) (x : Option (Int × Int)) : List Byte :=
  match x, wide with
  | none, false => [0x88]
  | none, true => [0x80, 0x80]
  | some (re, im), false => [BitVec.ofNat 8 (toBits 4 re * 16 + toBits 4 im)]
  | some (re, im), true => [BitVec.ofNat 8 (toBits 8 re), BitVec.ofNat 8 (toBits 8 im)]

/-- The key of a voltage packet among those of its frame. -/
def voltKey (β r c0 t0 : Nat) : Nat := ((β * 4 + r) * 1024 + c0) * 8192 + t0

/-- A voltage packet is handed to egress; samples not formed leave flagged, with PARTIAL (R32, R161). -/
def State.sendVolt (s : State) (β r c0 t0 : Nat) : State :=
  let v := s.beamC β
  let smp := s.voltSamples v r c0 t0
  let outs := smp.map fun x => s.formatted β r x.1 x.2.1 x.2.2 (min 24 (bits v 22 18)) (if bit v 23 then 127 else 7)
  let whole := smp.all fun x => s.formedSum β r x.1 x.2.1 x.2.2
  let (s0, failed) := s.checkSums r (smp.flatMap fun x => s.sumParts β x.1 x.2.1 x.2.2)
  let p : Product :=
    { ten := bits v 31 30, type := 0x10, flow := s.beamFlow β 0, region := r
      flags := b2n (!whole) + 4 * b2n failed + s.lossFlag [s.frame], frame := s.frame
      chan0 := 4 * s.chanP * r + c0, nchan := s.voltNc, block := β * 2 ^ 24 + t0
      payload := outs.flatMap fun o => voltBytes (bit v 23) o.1 }
  let s1 := (s0.addClamps β ((outs.map (·.2)).sum)).addProduct p
  { s1 with emitted := insertKey s1.emitted (voltKey β r c0 t0) }

/-- VOLTAGE_PACKET (R162): when every sample of the packet has been formed. -/
def execVoltagePacket (beam : BitVec 8) (r : Fin 4) (c0 : BitVec 10) (t0 : BitVec 13) (s : State) : Result :=
  let β := beam.toNat
  let c := c0.toNat
  let t := t0.toNat
  let v := s.beamC β
  .next <|
    if s.ticking && bit v 29 && c % s.voltNc = 0 && c < 4 * s.chanP && t % s.voltNt v = 0 && t < s.lenL
        && !s.emitted.contains (voltKey β r c t)
        && (s.voltSamples v r c t).all fun x => s.formedSum β r x.1 x.2.1 x.2.2 then s.sendVolt β r c t
    else s

/-! ## Power and Stokes (R163 to R165) -/

/-- N of a power period. -/
def cfgN (v : Nat) : Nat := 2 ^ bits v 17 14

/-- The period of beam `β` in region `r`. -/
def State.period (s : State) (β r : Nat) : Period := s.periods.at (4 * β + r) {}

/-- `s` with another period. -/
def State.setPeriod (s : State) (β r : Nat) (p : Period) : State := { s with periods := s.periods.put (4 * β + r) p {} }

/-- One sample's four sums and whether it counts (R163, R164), with the clamps that acted. -/
def State.powerSample (s : State) (β r c t : Nat) : Option (Int × Int × Int × Int) × Nat :=
  let (x, m) := s.formatted β r c t 0 (s.pshift β) 127
  if cfgPaired (s.beamC β) then
    let (y, n) := s.formatted β r c t 1 (s.pshift β) 127
    match x, y with
    | some (a, b), some (d, e) =>
      let px := a * a + b * b
      let py := d * d + e * e
      (some (px + py, px - py, 2 * (a * d + b * e), 2 * (a * e - b * d)), m + n)
    | _, _ => (none, m + n)
  else match x with
    | some (a, b) => (some (a * a + b * b, 0, 0, 0), m)
    | none => (none, m)

/-- A sample of a power sum or watch spectrum has been formed: both members when paired. -/
def State.powerFormed (s : State) (β r c t : Nat) : Bool :=
  s.formedSum β r c t 0 && (!cfgPaired (s.beamC β) || s.formedSum β r c t 1)

/-- Fine samples `t0` to `t0 + n − 1` of the frame in hand enter a period (R163). -/
def State.foldPower (s : State) (β r t0 n : Nat) : State :=
  let av := cfgCavg (s.beamC β)
  let pols := if cfgPaired (s.beamC β) then [0, 1] else [0]
  let (s, failed) := (List.range (4 * s.chanP)).foldl (fun (a : State × List Nat) ch =>
    let (t, bad) := a.1.checkSums r ((List.range n).flatMap fun dt =>
      pols.flatMap fun pol => a.1.sumParts β (4 * s.chanP * r + ch) (t0 + dt) pol)
    (t, if bad then insertKey a.2 (ch / 2 ^ av) else a.2)) (s, (s.period β r).failed)
  let p := s.period β r
  let (sums, clamps, cut) := (List.range (4 * s.chanP)).foldl (fun a ch =>
    (List.range n).foldl (fun (a : Sparse (Int × Int × Int × Int × Nat) × Nat × Bool) dt =>
      let c := 4 * s.chanP * r + ch
      let (v, m) := s.powerSample β r c (t0 + dt)
      let cut := a.2.2 || !s.powerFormed β r c (t0 + dt)
      match v with
      | none => (a.1, a.2.1 + m, cut)
      | some (i, q, u, w) =>
        let o := a.1.at (ch / 2 ^ av) (0, 0, 0, 0, 0)
        (a.1.put (ch / 2 ^ av) (o.1 + i, o.2.1 + q, o.2.2.1 + u, o.2.2.2.1 + w, o.2.2.2.2 + 1) (0, 0, 0, 0, 0),
          a.2.1 + m, cut)) a) (p.sums, 0, p.cutShort)
  let grown := fun (o : Nat) =>
    let a := p.sums.at o (0, 0, 0, 0, 0)
    let b := sums.at o (0, 0, 0, 0, 0)
    let c := p.res.at o (0, 0, 0, 0)
    ((c.1 + mod15 (b.1 - a.1)) % 15, (c.2.1 + mod15 (b.2.1 - a.2.1)) % 15, (c.2.2.1 + mod15 (b.2.2.1 - a.2.2.1)) % 15,
      (c.2.2.2 + mod15 (b.2.2.2.1 - a.2.2.2.1)) % 15)
  let res := (List.range (4 * s.chanP / 2 ^ av)).foldl (fun (l : Sparse (Nat × Nat × Nat × Nat)) o =>
    l.put o (grown o) (0, 0, 0, 0)) p.res
  (s.setPeriod β r { p with sums := sums, res := res, failed := failed, cutShort := cut }).addClamps β clamps

/-- A period closes at the frame in hand: its packets, big-endian (R6, R165), each with RESIDUE if a sum in it fails its check
(R261). -/
def State.sendPower (s : State) (β r : Nat) : State :=
  let v := s.beamC β
  let p := s.period β r
  let paired := cfgPaired v
  let nOut := 4 * s.chanP / 2 ^ cfgCavg v
  let first := if cfgN v < s.lenL then p.start else 0
  let frames := if cfgN v < s.lenL then [s.frame]
    else (List.range (cfgN v / s.lenL)).map fun i => (s.frame + s.frameMod - i) % s.frameMod
  let flags := b2n p.cutShort + s.lossFlag frames
  let outs := (List.range nOut).map fun o => p.sums.at o (0, 0, 0, 0, 0)
  let quad := fun (x : Int × Int × Int × Int × Nat) => if paired then [x.1, x.2.1, x.2.2.1, x.2.2.2.1] else [x.1]
  let pairs := fun (o : Nat) =>
    let c := p.res.at o (0, 0, 0, 0)
    (quad (nth outs o (0, 0, 0, 0, 0))).zip [c.1, c.2.1, c.2.2.1, c.2.2.2]
  (List.range ((nOut + 255) / 256)).foldl (fun t k =>
    let part := slice outs (256 * k) 256
    let here := (List.range part.length).map fun o => 256 * k + o
    let (t1, bad) := t.checkSums r (here.flatMap pairs)
    t1.addProduct
      { ten := bits v 31 30, type := if paired then 0x12 else 0x11, flow := s.beamFlow β 1, region := r
        flags := flags + 4 * b2n (bad || here.any p.failed.contains), frame := s.frame
        chan0 := 4 * s.chanP * r + 256 * k * 2 ^ cfgCavg v, nchan := part.length, block := β * 2 ^ 24 + first
        payload := (part.flatMap fun x => (quad x).flatMap fun y => beBytes 4 (toBits 32 y))
          ++ part.flatMap fun x => beBytes 2 x.2.2.2.2 }) s

/-- What a period becomes once it has closed. -/
def State.nextPeriod (s : State) (β r : Nat) : State :=
  let p := s.period β r
  let v := s.beamC β
  s.setPeriod β r { frame := s.frame, start := if cfgN v < s.lenL then p.start + cfgN v else s.lenL }

/-- The current period ends in the frame in hand (R163). -/
def State.periodDue (s : State) (β r : Nat) : Bool :=
  let n := cfgN (s.beamC β)
  decide ((s.period β r).start < s.lenL) && (decide (n < s.lenL) || (s.frame + 1) % (n / s.lenL) = 0)

/-- The fine samples of the frame in hand that the current period still takes. -/
def State.periodSpan (s : State) (β : Nat) : Nat := min (cfgN (s.beamC β)) s.lenL

/-- A period takes its samples of the frame in hand and closes. -/
def State.closePeriod (s : State) (β r : Nat) : State :=
  ((s.foldPower β r (s.period β r).start (s.periodSpan β)).sendPower β r).nextPeriod β r

/-- POWER_PERIOD_CLOSE (R163): when every sample the period still takes has been formed. -/
def execPowerPeriodClose (beam : BitVec 8) (r : Fin 4) (s : State) : Result :=
  let β := beam.toNat
  .next <|
    if s.ticking && bit (s.beamC β) 28 && s.periodDue β r
        && (List.range (4 * s.chanP)).all fun ch => (List.range (s.periodSpan β)).all fun dt =>
            s.powerFormed β r (4 * s.chanP * r + ch) ((s.period β r).start + dt) then s.closePeriod β r
    else s

/-- Close period after period to the end of the frame, formed or not. -/
def State.closePeriods (s : State) (β r n : Nat) : State :=
  match n with
  | 0 => s
  | n + 1 => if s.periodDue β r then (s.closePeriod β r).closePeriods β r n else s

/-- At an FT the power beams end their frame: periods due close, longer ones take the frame in. -/
def State.tickPower (s : State) (β r : Nat) : State :=
  if !bit (s.beamC β) 28 then s
  else
    let s1 := s.closePeriods β r s.lenL
    if (s1.period β r).start < s1.lenL then s1.foldPower β r (s1.period β r).start s1.lenL else s1

/-! ## Watch (R167 to R171) -/

/-- One channel of a watch spectrum: its value, and whether it exceeded; none when it is not complete (R32); and the clamps
that acted on its samples (R160). -/
def State.watchChannel (s : State) (β t c : Nat) : Option (Nat × Bool) × Nat :=
  let r := c / (4 * s.chanP)
  let (sum, clamps) := (List.range s.lenL).foldl (fun (a : Int × Nat) x =>
    let (v, m) := s.powerSample β r c x
    (a.1 + (match v with | some y => y.1 | none => 0), a.2 + m)) (0, 0)
  let v := sum.toNat
  let th := s.threshold (s.liveBank (.wt t)) r t (bits (s.beamC β) 9 4 * 1024 + c % (4 * s.chanP))
  (if (List.range s.lenL).all fun x => s.powerFormed β r c x then some (v, decide (th < v ∧ th ≠ 0xFFFFFFFF)) else none,
    clamps)

/-- The merged summary of R168. -/
structure WatchSum where
  max      : Nat := 0
  maxCh    : Nat := 0xFFFF
  sum      : Nat := 0
  nexc     : Nat := 0
  firstExc : Nat := 0xFFFF
  deriving DecidableEq, Repr

/-- A channel enters the summary; channels come in rising order. -/
def WatchSum.add (x : WatchSum) (c : Nat) (v : Option (Nat × Bool)) : WatchSum :=
  match v with
  | none => x
  | some (y, e) =>
    { max := Nat.max x.max y
      maxCh := if x.maxCh = 0xFFFF ∨ x.max < y then c else x.maxCh
      sum := x.sum + y
      nexc := if e then min 65535 (x.nexc + 1) else x.nexc
      firstExc := if e ∧ x.firstExc = 0xFFFF then c else x.firstExc }

/-- The alert note (R170). -/
def alertNote (pri t slot k : Nat) (x : WatchSum) : Note :=
  ⟨pri, 2, [BitVec.ofNat 32 (x.nexc * 65536 + t * 64 + slot), BitVec.ofNat 32 k,
    BitVec.ofNat 32 (x.firstExc * 65536 + k / 2 ^ 32 % 4), BitVec.ofNat 32 x.max, BitVec.ofNat 32 x.maxCh,
    BitVec.ofNat 32 x.sum, BitVec.ofNat 32 (x.sum / 2 ^ 32)]⟩

/-- NW of a watch packet (R171). -/
def State.watchNw (s : State) (t : Nat) : Nat := min (2 ^ min 11 (max 8 (s.get watchCfgNclog2 t))) (4 * s.chanP)

/-- The payload of a watch packet. -/
def watchPayload (slot alert : Nat) (x : WatchSum) (vs : List (Option (Nat × Bool))) : List Byte :=
  let hit := fun (v : Option (Nat × Bool)) => match v with | some (_, e) => e | none => false
  leBytes 4 x.max ++ leBytes 2 x.maxCh ++ leBytes 2 x.nexc ++ leBytes 8 x.sum ++ leBytes 2 x.firstExc
    ++ [BitVec.ofNat 8 slot, BitVec.ofNat 8 alert] ++ List.replicate 12 0
    ++ vs.flatMap (fun v => leBytes 4 (match v with | some (y, _) => y | none => 0))
    ++ (List.range (vs.length / 8)).map fun b =>
      BitVec.ofNat 8 (((List.range 8).map fun k => b2n (hit (nth vs (8 * b + k) none)) * 2 ^ k).sum)

/-- The summary of a spectrum. -/
def watchSum (vals : List (Option (Nat × Bool))) : WatchSum :=
  (vals.mapIdx fun c v => (c, v)).foldl (fun (a : WatchSum) e => a.add e.1 e.2) {}

/-- The payload of the watch packet that some regional results give (R262): channels that read back poisoned are
incomplete. The second result tells whether every channel is complete. -/
def Regional.payload (x : Regional) : List Byte × Bool :=
  let vals := x.chans.mapIdx fun c v => if x.bad.contains c then none else v
  (watchPayload x.slot x.alert (watchSum vals) (slice vals x.c0 x.nw), vals.all Option.isSome)

/-- One watch beam's results are released. -/
def State.releaseWatch (s : State) (β : Nat) : State :=
  let v := s.beamC β
  let t := bits v 31 30
  let slot := bits v 9 4
  let k := s.frame
  let chans := (List.range (16 * s.chanP)).map fun c => s.watchChannel β t c
  let vals := chans.map (·.1)
  let x := watchSum vals
  let (s, failed) := (List.range (16 * s.chanP)).foldl (fun (a : State × Bool) c =>
    let (t, bad) := a.1.checkSums (c / (4 * s.chanP)) ((List.range s.lenL).flatMap fun t =>
      (if cfgPaired v then [0, 1] else [0]).flatMap fun pol => s.sumParts β c t pol)
    (t, a.2 || bad)) (s, false)
  let held := match s.alerts.at β none with
    | none => false
    | some f => decide (0 < s.aheadFrame k f ∧ s.aheadFrame k f ≤ s.get watchCfgHoldoff t)
  let want := decide (0 < x.nexc) && s.on watchCfgAlertEn t
  let alert := want && !held
  let s1 := if bit v 28 then s else s.addClamps β ((chans.map (·.2)).sum)
  let flags := b2n (vals.any (·.isNone)) + 4 * b2n failed + s.lossFlag [k]
  let nw := s.watchNw t
  let s2 := (List.range (16 * s.chanP / nw)).foldl (fun a p =>
    let y : Regional := ⟨slot, b2n alert + 2 * b2n (want && held), p * nw, nw, vals, []⟩
    a.addProduct
      { ten := t, type := 0x20, flow := s.beamFlow β 2, region := p * nw / (4 * s.chanP), flags := flags, frame := k
        chan0 := p * nw, nchan := nw, block := slot, payload := y.payload.1, kept := some y }) s1
  if alert then
    let s3 := (s2.postNote t (alertNote (s.get watchCfgPri t) t slot k x)).count watchAlertsCount 1 t
    let s4 := ((s3.set watchLastWslot slot t).set watchLastFrame k t).raise (136 + t)
    { s4 with alerts := s4.alerts.put β (some k) none }
  else s2

/-- The watch beams in effect of tenancy `t`. -/
def State.watchBeams (s : State) (t : Nat) : List Nat :=
  (List.range 256).filter fun β => bit (s.beamC β) 27 && bits (s.beamC β) 31 30 = t

/-- The watch results of the frame in hand are released (R169, R170): packets, alerts, and one freeze request of a
tenancy in which a beam with FRZ alerted. -/
def State.watchRelease (s : State) : State :=
  let s1 := (List.range 4).foldl (fun a t =>
    let beams := a.watchBeams t
    let b := beams.foldl State.releaseWatch a
    let frz := beams.any fun β => bit (s.beamC β) 26 && b.alerts.at β none = some s.frame
    if frz then b.mireAsk t false else b) s
  { s1 with watchDone := true }

/-- WATCH_RELEASE (R169): once the seal point of the frame has passed. -/
def execWatchRelease (s : State) : Result :=
  .next (if s.ticking && s.on tickStatusSealed && !s.watchDone then s.watchRelease else s)

/-! ## At an FT (R32, R154, R166) -/

/-- The voltage packets of a beam that the frame still owes leave. -/
def State.tickVolt (s : State) (β r : Nat) : State :=
  let v := s.beamC β
  if !bit v 29 then s
  else (List.range (4 * s.chanP / s.voltNc)).foldl (fun a i => (List.range (s.lenL / s.voltNt v)).foldl (fun a j =>
    let c0 := i * s.voltNc
    let t0 := j * s.voltNt v
    if a.emitted.contains (voltKey β r c0 t0) then a else a.sendVolt β r c0 t0) a) s

/-- B-mode runs under way at an FT have added the fine times that their cycles cover, 2·NCH each (R31, R218; log entry
118). -/
def State.formBeams (s : State) : State :=
  s.cells.foldl (fun t e =>
    match (t.cell e.1).run with
    | some ⟨.beam _ nch _ _ _ _, since, _⟩ => t.advanceBeam e.1 ((t.cycle - since) / (2 * nch))
    | _ => t) s

/-- The frame in hand ends for the beams: whatever it still owes leaves, incomplete where work was cut off (R32). -/
def State.closeBeams (s : State) : State :=
  let s1 := (List.range 256).foldl (fun a β => (List.range 4).foldl (fun a r => (a.tickVolt β r).tickPower β r) a) s
  if s1.watchDone then s1 else s1.watchRelease

/-- The configuration of beam `β` for frame `k` (R166): a longer period that a change cuts short closes with PARTIAL,
and a new one starts, which is not whole unless frame `k` begins one. At the first FT no period is in progress. -/
def State.newBeam (s : State) (β k : Nat) : State :=
  let old := s.beamC β
  let new := s.reg beamCfg β 0
  let out := s.reg beamOut β 0
  let changed := !s.tick.seen || new ≠ old || out ≠ s.beamO β
  let s1 := (List.range 4).foldl (fun a r =>
    if changed && s.tick.seen && bit old 28 && decide ((a.period β r).start < a.lenL) then
      (a.setPeriod β r { a.period β r with cutShort := true }).sendPower β r
    else a) s
  let begins := decide (cfgN new < s.lenL) || k % (cfgN new / s.lenL) = 0
  let s2 := (List.range 4).foldl (fun a r =>
    if changed then a.setPeriod β r { frame := k, cutShort := !begins }
    else if begins then a.setPeriod β r { frame := k } else a) s1
  { s2 with beamActive := (s2.beamActive.put (2 * β) (some new) none).put (2 * β + 1) (some out) none }

/-- At the FT that starts frame `k`: sums of the ended frame and its staged samples are dropped, and written
configurations act. -/
def State.tickBeams (s : State) (k : Nat) : State :=
  let s1 := (List.range 256).foldl (fun a β => a.newBeam β k) s
  { s1 with
    beams := [], emitted := [], watchDone := false
    staging := s1.staging.filter fun e => decide (0 ≤ s1.aheadFrame e.frame k) }

end Sys2Proof.Machine
end

