-- ==== Sys2Proof/Machine/Gmac.lean ====
section
/-! DEFINITION. AES-GMAC (R288 names NIST SP 800-38D; AES itself is FIPS 197): the tag of authenticated data alone. -/

namespace Sys2Proof.Machine

/-- Twice an element of the AES field, GF(2^8) modulo x^8 + x^4 + x^3 + x + 1. -/
def gfDouble (x : Nat) : Nat := if 128 ≤ x then 2 * x ^^^ 0x11B else 2 * x

/-- The product of two elements of the AES field. -/
def gfMul (x y : Nat) : Nat :=
  (List.range 8).foldl (fun acc i => gfDouble acc ^^^ (if bit y (7 - i) then x else 0)) 0

/-- The inverse, x^254; 0 for 0. -/
def gfInv (x : Nat) : Nat :=
  ((List.range 7).foldl (fun (a : Nat × Nat) _ => let p := gfMul a.2 a.2; (gfMul a.1 p, p)) (1, x)).1

/-- A byte rotated left by `k`. -/
def rotByte (x k : Nat) : Nat := (x <<< k ||| x >>> (8 - k)) % 256

/-- The AES substitution of a byte. -/
def subByte (x : Nat) : Nat :=
  let b := gfInv x
  b ^^^ rotByte b 1 ^^^ rotByte b 2 ^^^ rotByte b 3 ^^^ rotByte b 4 ^^^ 0x63

/-- Byte by byte exclusive or. -/
def xorBytes (a b : List Nat) : List Nat := List.zipWith (· ^^^ ·) a b

/-- The next word of the AES key schedule after the words in hand, for a key of `nk` words. -/
def keyWord (nk : Nat) (ws : List (List Nat)) : List Nat :=
  let i := ws.length
  let last := nth ws (i - 1) []
  let t :=
    if i % nk = 0 then
      xorBytes ((last.drop 1 ++ last.take 1).map subByte) [(List.range (i / nk - 1)).foldl (fun a _ => gfDouble a) 1, 0, 0, 0]
    else if 6 < nk && i % nk = 4 then last.map subByte
    else last
  xorBytes (nth ws (i - nk) []) t

/-- The AES key schedule: nk + 7 round keys of 16 bytes each. -/
def roundKeys (key : List Nat) : List (List Nat) :=
  let nk := key.length / 4
  let ws := (List.range (4 * (nk + 7) - nk)).foldl (fun ws _ => ws ++ [keyWord nk ws])
    ((List.range nk).map fun i => slice key (4 * i) 4)
  (List.range (nk + 7)).map fun r => (slice ws (4 * r) 4).flatten

/-- SubBytes and ShiftRows; byte 4c + r of a state is row r of column c. -/
def subShift (st : List Nat) : List Nat := (List.range 16).map fun i => subByte (nth st ((i + 4 * (i % 4)) % 16) 0)

/-- MixColumns. -/
def mixColumns (st : List Nat) : List Nat :=
  (List.range 16).map fun i =>
    let a := fun k => nth st (i / 4 * 4 + (i + k) % 4) 0
    gfDouble (a 0) ^^^ gfDouble (a 1) ^^^ a 1 ^^^ a 2 ^^^ a 3

/-- One block through AES under the round keys. -/
def aesBlock (ks : List (List Nat)) (block : List Nat) : List Nat :=
  let st := (ks.drop 1).dropLast.foldl (fun st k => xorBytes (mixColumns (subShift st)) k) (xorBytes block (nth ks 0 []))
  xorBytes (subShift st) (nth ks (ks.length - 1) [])

/-- The product of GCM's field of 128-bit blocks, bit 0 leftmost. -/
def ghashMul (x h : Nat) : Nat :=
  ((List.range 128).foldl (fun (a : Nat × Nat) i =>
    (if bit x (127 - i) then a.1 ^^^ a.2 else a.1,
      if bit a.2 0 then a.2 / 2 ^^^ 0xE1 * 2 ^ 120 else a.2 / 2)) (0, h)).1

/-- The 128-bit AES-GMAC tag of `aad`, under a key of 16 bytes, or 32 if `long`, and a 96-bit IV. The key's byte 0 is bits
[7:0] of its word 0 (R6, R275: DEDUCED, log entry 62). -/
def aesGmac (key : BitVec 256) (long : Bool) (iv aad : List Byte) : Nat :=
  let ks := roundKeys ((List.range (if long then 32 else 16)).map fun i => bits key.toNat (8 * i + 7) (8 * i))
  let enc := fun b => beVal ((aesBlock ks b).map fun x => BitVec.ofNat 8 x)
  let h := enc (List.replicate 16 0)
  let padded := aad ++ List.replicate ((16 - aad.length % 16) % 16) 0
  let s := (List.range (padded.length / 16)).foldl (fun s i => ghashMul (s ^^^ beVal (slice padded (16 * i) 16)) h) 0
  ghashMul (s ^^^ 8 * aad.length * 2 ^ 64) h ^^^ enc (iv.map (·.toNat) ++ [0, 0, 0, 1])

end Sys2Proof.Machine
end

