-- ==== Sys2Proof/Machine/Fabric.lean ====
section
/-! DEFINITION. The chip matrix (R233 to R247): requests, hold-back, arbitration by segments, responses, starvation and
throttling; and the 128 memory controllers with their refresh, training, self-refresh and page retirement
(R248 to R256). -/

namespace Sys2Proof.Machine

/-! ## Ports and requests (R233, R235, R238, R239, R389) -/

/-- The target port an address reaches; down-links of a region are spread by 2 KB granules. -/
def fabricTarget (a : Nat) : Option Nat :=
  match memKind a with
  | .dram pc => some (44 + pc / 2)
  | .pool r | .thresholds _ r _ _ => some (12 + 8 * r + a / 2048 % 8)
  | .block r _ | .context r _ _ | .imem r _ | .weights _ r _ _ => some (12 + 8 * r + a / 2048 % 8)
  | .table n _ | .stream n => some (3 + n)
  | .flows | .templates | .send _ => some 11
  | .cndInstr | .cndData => some 1
  | .host => some 2
  | .state _ | .limits | .none => none

/-- A path R239 closes. -/
def forbiddenPath (init target : Nat) : Bool :=
  (init = 0 && target = 2) || (init = 1 && target = 1) || (34 ≤ init && 12 ≤ target && target ≤ 43)

/-- The bytes of an access. -/
def accLen (x : Access) : Nat :=
  match x with
  | .read n => n
  | .write d => d.length

/-- The QoS a request is arbitrated with (R38, R39, R244). -/
def State.arbQos (s : State) (init qos ten : Nat) : Nat :=
  if init = 0 then (let q := s.get fabHostqosQos; if 13 ≤ q then 12 else if q = 9 then 8 else q)
  else if qos = 15 then (if s.get tenReserveWatch ten = 0 then 12 else 15)
  else if 13 ≤ qos then 12
  else if qos = 9 then 8
  else qos

/-- A memory controller. -/
def State.ctl (s : State) (p : Nat) : Ctl := s.ctls.at p {}

/-- `s` with another controller `p`, whose occupancy shows in `MCp.OCC`. -/
def State.setCtl (s : State) (p : Nat) (c : Ctl) : State :=
  let n := c.queue.length + c.held.length
  (({ s with ctls := s.ctls.put p c {} }).set mcOccCount n p).peak mcOccPeak n p

/-- Every request the fabric holds, hold-back buffers aside. -/
def State.accepted (s : State) : List Req :=
  s.targets.flatMap (·.2) ++ s.inFlight ++ s.ctls.flatMap fun e => e.2.queue ++ e.2.held

/-- The hold-back buffer of an initiator port. -/
def State.heldBack (s : State) (init : Nat) : List Req := s.holdback.at init []

/-- A queue of `size` entries, `spare` of them for QoS 15 only, has room for a request (R241). -/
def roomFor (l : List Req) (qos size spare : Nat) : Bool :=
  let w := (l.filter fun r => r.qos = 15).length
  let o := (l.filter fun r => r.qos ≠ 15).length
  if qos = 15 then decide (w + o < size) else decide (o + max spare w < size)

/-- The queue of a port: target ports are 0 to 107, the ports of region n's switch 108 + 21n + u (R13, R243). -/
def State.target (s : State) (t : Nat) : List Req := s.targets.at t []

/-- The port of a region switch: unit `u` 0 to 11 a block, 12 the pool, 13 + j up-link j. -/
def switchPort (n u : Nat) : Nat := 108 + 21 * n + u

/-- The port at which a request first waits: an up-link's region switch, or its target. -/
def firstPort (init target : Nat) : Nat :=
  if 34 ≤ init ∧ init ≤ 65 then switchPort ((init - 34) / 8) (13 + (init - 34) % 8) else target

/-- The port of the region switch that a request for a region's memory passes behind its down-link. -/
def unitPort (a : Nat) : Option Nat :=
  match memKind a with
  | .pool r | .thresholds _ r _ _ => some (switchPort r 12)
  | .block r b | .context r b _ | .imem r b | .weights _ r b _ => some (switchPort r b)
  | _ => none

/-- The segments of a request (R244). -/
def segments (x : Access) : Nat := (accLen x + 511) / 512

/-- A request enters the queue of port `t`, all its segments still to move. -/
def State.enqueueAt (s : State) (r : Req) (t : Nat) : State :=
  { s with
    targets := s.targets.put t (s.target t ++ [{ r with port := t, no := s.reqNo, left := segments r.acc, promoted := false }]) []
    reqNo := s.reqNo + 1 }

/-- A request enters the queue where it first waits. -/
def State.enqueue (s : State) (r : Req) : State := s.enqueueAt r (firstPort r.init r.target)

/-- The port where a request enters has room for it; the ports of region switches have no limit in R247. -/
def State.enterRoom (s : State) (r : Req) : Bool :=
  let t := firstPort r.init r.target
  decide (108 ≤ t) || roomFor (s.target t) r.qos 64 2

/-- The clock-gated unit (R324) behind an initiator port (R233): region, ingest engine, egress engine. -/
def initUnit (init : Nat) : Option Nat :=
  if 34 ≤ init ∧ init ≤ 65 then some (48 + (init - 34) / 8)
  else if 2 ≤ init ∧ init ≤ 9 then some (50 + init)
  else if 30 ≤ init ∧ init ≤ 33 then some (60 + (init - 30) / 2)
  else none

/-- A response goes back to its initiator; one that returns to a gated unit is discarded (R325). -/
def State.respond (s : State) (r : Req) (st : RespStatus) (d : List Byte) : State :=
  if (initUnit r.init).any (fun u => bit (s.get clkGatedMask) u) then s
  else { s with responses := s.responses ++ [⟨r.init, r.id, st, d⟩] }

/-- A request is answered with DECERR: bit `b` of `FAB.STATUS`, and the capture (R235, R239). -/
def State.decerr (s : State) (r : Req) (b : Nat) : State :=
  let s1 := s.fabFlag b
  let s2 := if s1.on fabErrsrcValid then s1
    else (((s1.setW1c fabErrsrcValid).set fabErrsrcInit r.init).set fabErrsrcId r.id).set fabErraddrAddr r.addr
  s2.respond r .decerr []

/-- The bit of `FAB.STATUS` that a request answered with DECERR sets: no target, or a path R239 closes. -/
def Req.refused (r : Req) : Option Nat :=
  match fabricTarget r.addr with
  | none => some 0
  | some t => if forbiddenPath r.init t then some 1 else none

/-- A request is served or answered next: DECERR, or the queue where it first waits. -/
def State.goOn (s : State) (r : Req) : State :=
  match r.refused with
  | some b => s.decerr r b
  | none => s.enqueue r

/-- A request of `init` is accepted at its port: of legal length, one segment when an engine asks for QoS 15 (R244), and with
room (R235, R236, R247). -/
def State.admits (s : State) (init qos addr : Nat) (acc : Access) : Bool :=
  let n := accLen acc
  let hb := s.heldBack init
  !(n = 0 || 4096 < n || addr / 4096 ≠ (addr + n - 1) / 4096 || 16 ≤ hb.length
    || 512 ≤ (s.accepted.filter fun r => r.init = init).length + hb.length
    || (2 ≤ init && init ≤ 33 && qos = 15 && 512 < n))

/-- A request arrives at its initiator port (R235, R236, R238, R239, R247). One that the port or target has no room for
is not accepted; one with the ID of an earlier request to another target, or of a held one, is held back, an answer of
DECERR too. -/
def State.request (s : State) (init id qos ten addr : Nat) (acc : Access) : State :=
  let hb := s.heldBack init
  if !s.admits init qos addr acc then s
  else
    let t := (fabricTarget addr).getD 1000
    let r : Req := { init := init, id := id, qos := s.arbQos init qos ten, ten := ten, addr := addr, target := t, acc := acc
                     since := s.cycle, left := segments acc }
    if hb.any (fun x => x.id = id)
        || s.accepted.any (fun x => x.init = init && x.id = id && (x.target ≠ t || r.refused.isSome)) then
      let s1 := { s with holdback := s.holdback.put init (hb ++ [r]) [] }
      if hb.length + 1 = 16 then s1.fabFlag 2 else s1
    else if r.refused.isSome || s.enterRoom r then s.goOn r
    else s

/-- FABRIC_REQUEST (R235); a unit whose clock is gated, or whose gate is pending, makes none (R324). -/
def execFabricRequest (init : Fin 66) (id : BitVec 10) (qos : BitVec 4) (ten : Fin 4) (addr : BitVec 48) (acc : Access)
    (s : State) : Result :=
  let off := (initUnit init).any fun u => bit (s.get clkGatedMask) u || s.gating = some u
  .next (if s.power.inReset || off then s else s.request init id.toNat qos.toNat ten addr.toNat acc)

/-- Held-back requests of an initiator go on once every earlier request with their ID has been answered (R236). -/
def State.releaseHeld (s : State) (init : Nat) (l kept : List Req) : State :=
  match l with
  | [] => { s with holdback := s.holdback.put init kept [] }
  | r :: rest =>
    if (kept.any fun x => x.id = r.id) || (s.accepted.any fun x => x.init = init && x.id = r.id)
        || !(r.refused.isSome || s.enterRoom r) then s.releaseHeld init rest (kept ++ [r])
    else (s.goOn r).releaseHeld init rest kept

/-- A posted write of the host is under way (R242). -/
def State.postedOut (s : State) : Bool :=
  (s.heldBack 0).any (fun r => r.id = 0) || s.accepted.any fun r => r.init = 0 && r.id = 0

/-- Host reads go on once no posted write is ahead of them (R242). -/
def State.releaseReads (s : State) (l : List (Nat × Nat × Nat)) : State :=
  match l with
  | [] => { s with hostReads := [] }
  | x :: r =>
    if s.admits 0 0 x.2.1 (.read x.2.2) then (s.request 0 1 0 x.1 x.2.1 (.read x.2.2)).releaseReads r
    else { s with hostReads := x :: r }

/-- After a grant or a response every initiator port goes on with what it holds back. -/
def State.releaseAll (s : State) : State :=
  let t := s.holdback.foldl (fun a e => a.releaseHeld e.1 e.2 []) s
  if t.hostReads.isEmpty || t.postedOut then t else t.releaseReads t.hostReads

/-! ## Arbitration (R44, R243, R244) -/

/-- Two requests touch a common byte. -/
def Req.meets (x y : Req) : Bool := decide (x.addr < y.addr + accLen y.acc ∧ y.addr < x.addr + accLen x.acc)

/-- Request `x` goes before `y` wherever it waits: accepted earlier, and of the same initiator port and ID or touching a
common byte (R236, R237). -/
def Req.precedes (x y : Req) : Bool := decide (x.no < y.no) && ((x.init = y.init && x.id = y.id) || x.meets y)

/-- The requests of `l` that none of `all` precedes. -/
def eligible (all l : List Req) : List Req := l.filter fun r => !all.any fun x => x.precedes r

/-- The QoS of a request from its promotion on (R243). -/
def Req.arb (r : Req) : Nat := if r.promoted then 12 else r.qos

/-- Request `x` goes before `y` at port `p` (R243); requests of a tenancy throttled at that port come last (R44). -/
def State.before (s : State) (p : Nat) (x y : Req) : Bool :=
  let low := fun (r : Req) => decide (r.arb < 15) && s.throttled.contains (4 * p + r.ten)
  if low x ≠ low y then !low x
  else if x.arb ≠ y.arb then decide (y.arb < x.arb)
  else if x.since ≠ y.since then decide (x.since < y.since)
  else decide (x.init < y.init)

/-- The first of some requests under an order. -/
def firstBy (before : Req → Req → Bool) (l : List Req) : Option Req :=
  match l with
  | [] => none
  | r :: rest => some (rest.foldl (fun a b => if before b a then b else a) r)

/-- The bytes a tenancy's DRAM reservation allows in a frame: 1/128 of 4.8 TB/s each (R44). -/
def State.dramBudget (s : State) (t : Nat) : Nat := s.get tenReserveDram t * 4800 * s.frameLen

/-- Tenancy `t` is throttled under key `4 k + t` for the rest of the frame; source 132 + t once a frame (R44). -/
def State.throttle (s : State) (k t : Nat) : State :=
  let b := { s with throttled := s.throttled ++ [4 * k + t] }
  if s.throttled.any (fun x => x % 4 = t) then b else b.raise (132 + t)

/-- Tenancies over their reservation while another's requests wait at this target are throttled there for the frame
(R44). -/
def State.meter (s : State) (p : Nat) (l : List Req) : State :=
  (List.range 4).foldl (fun a t =>
    if l.any (fun r => r.ten = t) && l.any (fun r => r.ten ≠ t) && decide (a.dramBudget t < a.used.at t 0)
        && !a.throttled.contains (4 * p + t) then a.throttle p t
    else a) s

/-- A request reaches the memory behind its target: a controller, which holds it unless it is READY, or the wait for the
target's response. One that meets an UNTRAINED pseudo-channel will be answered with TERR (R247, R252, R255). -/
def State.handOver (s : State) (r : Req) : State :=
  match memKind r.addr with
  | .dram pc =>
    let n := accLen r.acc
    if s.rangeTerr r.addr n then
      let t := s.untrained r.addr n
      { t with inFlight := t.inFlight ++ [{ r with terr := true }] }
    else
      let c := s.ctl pc
      let r := { r with came := s.cycle }
      if s.get mcStatState pc = 2 then s.setCtl pc { c with queue := c.queue ++ [r] }
      else s.setCtl pc { c with held := c.held ++ [r] }
  | _ => { s with inFlight := s.inFlight ++ [r] }

/-- Where a request goes once a port has moved all of it: from a region's up-link to its target, from a down-link to its
unit's port, and then to the memory. -/
def nextPort (p : Nat) (r : Req) : Option Nat :=
  if p < 108 then (if 12 ≤ p ∧ p ≤ 43 then unitPort r.addr else none)
  else if 13 ≤ (p - 108) % 21 then some r.target else none

/-- A request has moved all its segments through port `p`. -/
def State.moveOn (s : State) (p : Nat) (r : Req) : State :=
  match nextPort p r with
  | some t => s.enqueueAt r t
  | none => s.handOver { r with left := 0 }

/-- What lies behind port `p` has room for a request. -/
def State.nextRoom (s : State) (p : Nat) (r : Req) : Bool :=
  match nextPort p r with
  | some t => decide (108 ≤ t) || roomFor (s.target t) r.qos 64 2
  | none =>
    match memKind r.addr with
    | .dram pc => s.rangeTerr r.addr (accLen r.acc) || roomFor ((s.ctl pc).queue ++ (s.ctl pc).held) r.qos 128 4
    | _ => true

/-- SEGMENT_GRANT (R243, R244): the first eligible request at a port moves one segment. -/
def execSegmentGrant (port : Fin 192) (s : State) : Result :=
  let p := port.val
  let l := s.target p
  let dram := decide (44 ≤ p ∧ p < 108)
  let s1 := if dram then s.meter p l else s
  .next <|
    match firstBy (s1.before p) ((eligible l l).filter (s1.nextRoom p)) with
    | none => s
    | some r =>
      let seg := min 512 (accLen r.acc - (segments r.acc - r.left) * 512)
      let s2 := if dram then { s1 with used := s1.used.put r.ten (s1.used.at r.ten 0 + seg) 0 } else s1
      if r.left ≤ 1 then
        (({ s2 with targets := s2.targets.put p (l.filter fun x => x.no ≠ r.no) [] }).moveOn p r).releaseAll
      else
        { s2 with targets := s2.targets.put p (l.map fun x => if x.no = r.no then { r with left := r.left - 1 } else x) [] }

/-- STARVE_PROMOTION (R243): the oldest request of the port not yet promoted is arbitrated as 12 from then on. -/
def execStarvePromotion (port : Fin 192) (s : State) : Result :=
  let p := port.val
  let l := s.target p
  .next <|
    if s.get fabStarveLimit = 0 then s
    else match l.find? fun r => !r.promoted with
      | none => s
      | some r =>
        let m := l.map fun x => if x.no = r.no then { r with promoted := true } else x
        ({ s with targets := s.targets.put p m [] }).fabFlag 3

/-! ## Access to memory (R183, R184, R235, R237, R279) -/

/-- A write of tenancy `t` at an address that its memory refuses: a program in use, a header template, a send window or
stream (R112, R183, R184, R279, R286). -/
def State.writeRefused (s : State) (t a : Nat) : Bool :=
  match memKind a with
  | .imem r b => !(s.seq (12 * r + b)).st.idle
  | .cndInstr =>
    (match s.cndOwner true (a - 0x01A000000000) with
      | some c => !(s.seq (48 + c)).st.idle || (t ≠ 0 && t ≠ c)
      | none => t ≠ 0)
  | .templates => t ≠ 0
  | .send _ | .stream _ => true
  | _ => false

/-- A read of `n` bytes: their status and the bytes; a window that is only written gives free bytes. -/
def State.readAccess (s : State) (a n : Nat) : State × RespStatus × List Byte :=
  if s.rangeTerr a n then (s.untrained a n, .terr, [])
  else match memKind a with
    | .send _ | .stream _ =>
      (s.drawn, .ok, (List.range n).map fun i => BitVec.ofNat 8 (Config.freeNat s.fresh i))
    | _ =>
      let (s1, l) := s.readBytes a n
      (s1, if l.any (·.2) then .poison else .ok, l.map (·.1))

/-- A write of some bytes by `w`, refused writes raising their event (R366). -/
def State.writeAccess (s : State) (w : Who) (a : Nat) (d : List Byte) : State × RespStatus :=
  if s.rangeTerr a d.length then (s.untrained a d.length, .terr)
  else if s.writeRefused w.fn a then (s.reject w a, .ok)
  else ((s.engineWrite w a (d.map fun b => (b, false))).1, .ok)

/-- Who a request of an initiator port counts as. -/
def initWho (init ten : Nat) : Who :=
  ⟨if init = 0 then .bar2 else if init = 1 then .conductor else .engine, Fin.ofNat 4 ten⟩

/-- A request is served and answered (R235); one that met an UNTRAINED pseudo-channel with TERR (R252). -/
def State.serve (s : State) (r : Req) : State :=
  if r.terr then s.respond r .terr []
  else match r.acc with
  | .read n =>
    let (s1, st, d) := s.readAccess r.addr n
    s1.respond r st d
  | .write d =>
    let (s1, st) := s.writeAccess (initWho r.init r.ten) r.addr d
    s1.respond r st []

/-- FABRIC_RESPONSE (R235): the oldest request handed to the target that no other precedes is served and answered. A write
held by back-pressure is not yet visible, so its response waits (R35). -/
def execFabricResponse (target : Fin 108) (s : State) : Result :=
  .next <|
    match (eligible s.accepted s.inFlight).find? fun r => r.target = target.val with
    | none => s
    | some r =>
      let waits := match r.acc with | .write _ => s.blocked r.addr | .read _ => false
      if waits then s
      else
        (({ s with inFlight := s.inFlight.filter fun x => x.no ≠ r.no }).serve r).releaseAll

/-! ## DRAM commands (R248 to R251) -/

/-- The bank of a local granule. -/
def granuleBank (g : Nat) : Nat := g % 48

/-- The entry of the retirement list of controller `p` that names granule `g` (R256). -/
def State.retEntry (s : State) (p g : Nat) : Option Nat :=
  (List.range 64).find? fun e => s.on mcRetValid p e && s.get mcRetG p e = g

/-- The row that serves a granule: its own, or a spare. -/
def State.granuleRow (s : State) (p g : Nat) : Nat :=
  match s.retEntry p g with
  | some e => 12288 + s.get mcRetSpare p e
  | none => g / 48

/-- A request of controller `p` hits an open row. -/
def State.rowHit (s : State) (p : Nat) (r : Req) : Bool :=
  let g := dramGranule r.addr
  (s.ctl p).rows.at (granuleBank g) 0 = s.granuleRow p g + 1

/-- The rank R250 gives a request: 0 watch, 1 over the age cap, 2 open row, 3 other. -/
def State.dramRank (s : State) (p : Nat) (r : Req) : Nat :=
  let cap := 125 * max 1 (s.get memSchedAgecap)
  if r.arb = 15 then 0 else if cap < s.cycle - r.came then 1 else if s.rowHit p r then 2 else 3

/-- Request `x` goes before `y` at controller `p` (R250). -/
def State.dramBefore (s : State) (p : Nat) (x y : Req) : Bool :=
  let a := s.dramRank p x
  let b := s.dramRank p y
  if a ≠ b then decide (a < b)
  else if 2 ≤ a && x.arb ≠ y.arb then decide (y.arb < x.arb)
  else decide (x.came < y.came)

/-- A request touches pseudo-channel `p`. -/
def Req.touches (r : Req) (p : Nat) : Bool := (pieces r.addr (accLen r.acc)).any fun a => memKind a = .dram p

/-- Self-refresh entry is issued once every request the controller accepted has been answered: banks closed,
`MCp.SRCNT.ENTRIES` (R255). -/
def State.srIssue (s : State) (p : Nat) : State :=
  let c := s.ctl p
  if s.get mcStatState p = 3 && !c.entry && c.queue.isEmpty && !s.inFlight.any fun r => memKind r.addr = .dram p then
    (s.setCtl p { c with rows := [], entry := true }).count mcSrcntEntries 1 p
  else s

/-- One per-bank refresh of the next bank due, which is closed; the last of a round pays for it, and ends it if it was forced
(R251). -/
def State.refreshBank (s : State) (p : Nat) : State :=
  let c := s.ctl p
  let last := decide (c.refBank = 47)
  let s1 := s.setCtl p { c with
    rows := c.rows.put c.refBank 0 0, refBank := (c.refBank + 1) % 48, forced := c.forced && !last }
  if last then s1.setInt mcRefOwed (s1.getInt mcRefOwed p - 1) p else s1

/-- The next bank due has no queued request (R251). -/
def State.bankFree (s : State) (p : Nat) : Bool :=
  let c := s.ctl p
  c.queue.all fun r => granuleBank (dramGranule r.addr) ≠ c.refBank

/-- Every granule of a request at controller `p` is served: in its own pseudo-channel unless it is being copied, in another as
that one's state lays down (R252, R255, R256). -/
def State.piecesServed (s : State) (p : Nat) (r : Req) : Bool :=
  (pieces r.addr (accLen r.acc)).all fun a =>
    if memKind a = .dram p then
      (match (s.ctl p).copy with
        | some (g, _) => dramGranule a ≠ g
        | none => true)
    else s.service a = .served

/-- DRAM_COMMAND (R250, R251): a forced round refreshes its next bank; otherwise a controller that serves requests opens the
row of its first eligible one and hands it on, refreshing the bank due beside it when a round is owed and no request waits for
that bank; with nothing to serve a controller refreshes the next bank due if it is free, at most 8 rounds ahead (log entry
119). -/
def execDramCommand (p : Fin 128) (s : State) : Result :=
  let c := s.ctl p
  let st := s.get mcStatState p
  let ok := (eligible s.accepted c.queue).filter (s.piecesServed p)
  .next <|
    if st = 4 ∨ st = 5 then s
    else if c.forced then s.refreshBank p
    else match firstBy (s.dramBefore p) (if st = 2 ∨ st = 3 then ok else []) with
      | some r =>
        let g := dramGranule r.addr
        let s0 := if st = 2 && s.bankFree p && decide (0 < s.getInt mcRefOwed p) then s.refreshBank p else s
        let d := s0.ctl p
        let s1 := s0.setCtl p { d with
          queue := d.queue.filter fun x => x.no ≠ r.no, rows := d.rows.put (granuleBank g) (s.granuleRow p g + 1) 0 }
        { s1 with inFlight := s1.inFlight ++ [r] }
      | none =>
        if st = 3 then s.srIssue p
        else if s.bankFree p && decide (-8 < s.getInt mcRefOwed p) then s.refreshBank p
        else s

/-- REFRESH_DUE (R251): one more round is owed, unless the pseudo-channel refreshes itself; at 8 the controller forces the
round. -/
def execRefreshDue (p : Fin 128) (s : State) : Result :=
  let st := s.get mcStatState p
  let owed := s.getInt mcRefOwed p
  .next <|
    if st = 4 || decide (8 ≤ owed) then s
    else if owed + 1 < 8 then s.setInt mcRefOwed (owed + 1) p
    else (((s.setInt mcRefOwed 8 p).setCtl p { s.ctl p with forced := true }).count mcRefForced 1 p).raise 405

/-! ## Self-refresh (R255) -/

/-- Self-refresh entry starts in every READY controller. -/
def State.enterSelfRefresh (s : State) : State :=
  (List.range 128).foldl (fun a p => if a.get mcStatState p = 2 then (a.set mcStatState 3 p).srIssue p else a) s

/-- Self-refresh exit starts in every controller that is in self-refresh. -/
def State.exitSelfRefresh (s : State) : State :=
  (List.range 128).foldl (fun a p => if a.get mcStatState p = 4 then a.set mcStatState 5 p else a) s

/-- A controller becomes READY: what it held is queued. -/
def State.ctlReady (s : State) (p : Nat) : State :=
  let c := s.ctl p
  (s.set mcStatState 2 p).setCtl p { c with queue := c.queue ++ c.held, held := [], entry := false }

/-- A move engine's descriptor waits for pseudo-channel `p`. -/
def State.jobWaits (s : State) (p : Nat) : Bool :=
  s.engines.any fun e => e.2.jobs.any fun j =>
    let d := parseDesc j.desc
    let hits := fun (a n : Nat) => (pieces a n).any fun x => memKind x = .dram p
    j.code.isNone && !j.stream && (List.range d.total).any fun n =>
      ((d.dstPieces n).any fun q => (s.dstBases j.frame d).any fun b => hits (addrOf (b + q.1)) q.2)
      || (match s.srcBase j d with
          | .missing => false
          | .at b => (d.srcPieces n).any fun q => hits (addrOf (b + q.1)) q.2)

/-- SELF_REFRESH_RESIDENCY (R255): 15 ns after the entry the clocks stop, or a waiting request ends the entry. -/
def execSelfRefreshResidency (p : Fin 128) (s : State) : Result :=
  let c := s.ctl p
  .next <|
    if s.get mcStatState p ≠ 3 || !c.entry then s
    else if (s.accepted.any fun r => r.touches p) || s.jobWaits p then (s.set mcStatState 5 p).count mcSrcntAborted 1 p
    else s.set mcStatState 4 p

/-- SELF_REFRESH_EXIT_DONE (R255): tXS has passed. -/
def execSelfRefreshExitDone (p : Fin 128) (s : State) : Result :=
  .next (if s.get mcStatState p = 5 then s.ctlReady p else s)

/-! ## Training (R252 to R254) -/

/-- TOWER_INIT (R253): every pseudo-channel enters TRAINING, the written bits of the DRAM are cleared (R267), and no
tower's temperature is compared until its next DONE (R254). -/
def State.towerInit (s : State) : State :=
  let s1 := (List.range 128).foldl (fun a p =>
    let c := a.ctl p
    (a.set mcStatState 1 p).setCtl p { c with
      queue := [], held := c.queue ++ c.held, rows := [], refBank := 0, forced := false, entry := false }) s
  let s2 := (List.range 4).foldl (fun a h => a.set memTempTrained 0 h) s1
  { s2.lose (fun a => decide (a < dramEnd)) with trainArmed := 0 }

/-- A write of `MEM.CMD`. -/
def State.writeMemCmd (s : State) (w : Who) (v : Nat) : State :=
  s.guarded0 w (memCmd.key 0 0) fun s =>
    let s := if bit v 2 then s.towerInit else s
    let s := if bit v 1 then s.exitSelfRefresh else s
    if bit v 0 then s.enterSelfRefresh else s

/-- TOWER_INIT (R253). -/
def execTowerInit (w : Who) (s : State) : Result := .next (s.writeMemCmd w 4)

/-- SELF_REFRESH_ENTER (R255). -/
def execSelfRefreshEnter (w : Who) (s : State) : Result := .next (s.writeMemCmd w 1)

/-- SELF_REFRESH_EXIT (R255). -/
def execSelfRefreshExit (w : Who) (s : State) : Result := .next (s.writeMemCmd w 2)

/-- MEM_PLL_LOCK (R320). -/
def execMemPllLock (h : Fin 4) (s : State) : Result :=
  .next (s.set memStatPll (s.get memStatPll ||| 2 ^ h.val))

/-- DONE (R252, R254): a pseudo-channel in TRAINING becomes READY; the tower's temperature is recorded, and its
comparison acts again. -/
def State.memtrDone (s : State) (w : Who) (p : Nat) : State :=
  let h := p / 32
  let record := fun (t : State) =>
    { t.set memTempTrained (t.get memTempNow h) h with trainArmed := t.trainArmed ||| (1#4 <<< h) }
  match s.get mcStatState p with
  | 0 => s.reject w (memtrCmd.key 0 0)
  | 1 => record (s.ctlReady p)
  | 2 => record s
  | _ => s

/-- A write of `MEMTR.CMD` (R253): ignored while an operation is under way. -/
def State.writeMemtrCmd (s : State) (w : Who) (v : Nat) : State :=
  s.guarded0 w (memtrCmd.key 0 0) fun s =>
    let op := bits v 2 0
    let p := s.get memtrSelPc
    let st := s.get mcStatState p
    if op = 0 || s.on memtrStatBusy then s
    else if op = 6 then s.memtrDone w p
    else if op = 7 then (if st = 2 then s.set mcStatState 1 p else s.reject w (memtrCmd.key 0 0))
    else if st ≠ (if bit v 8 then 2 else 1) then s.reject w (memtrCmd.key 0 0)
    else { s.set memtrStatBusy 1 with training := some (8 * p + op) }

/-- MEMTR_PATW (R253). -/
def execMemtrPatw (w : Who) (live : Bool) (s : State) : Result := .next (s.writeMemtrCmd w (256 * b2n live + 1))

/-- MEMTR_PATR (R253). -/
def execMemtrPatr (w : Who) (live : Bool) (s : State) : Result := .next (s.writeMemtrCmd w (256 * b2n live + 2))

/-- MEMTR_SWEEPR (R253). -/
def execMemtrSweepr (w : Who) (live : Bool) (s : State) : Result := .next (s.writeMemtrCmd w (256 * b2n live + 3))

/-- MEMTR_SWEEPW (R253). -/
def execMemtrSweepw (w : Who) (live : Bool) (s : State) : Result := .next (s.writeMemtrCmd w (256 * b2n live + 4))

/-- MEMTR_APPLY (R253). -/
def execMemtrApply (w : Who) (live : Bool) (s : State) : Result := .next (s.writeMemtrCmd w (256 * b2n live + 5))

/-- MEMTR_DONE (R252). -/
def execMemtrDone (w : Who) (s : State) : Result := .next (s.writeMemtrCmd w 6)

/-- MEMTR_TRAIN (R253). -/
def execMemtrTrain (w : Who) (s : State) : Result := .next (s.writeMemtrCmd w 7)

/-- The key of a delay: pseudo-channel, direction (0 read, 1 write), lane. -/
def delayKey (p dir k : Nat) : Nat := 72 * p + 36 * dir + k

/-- The delay in force of a lane. -/
def State.delay (s : State) (p dir k : Nat) : Nat := s.delays.at (delayKey p dir k) 64

/-- A lane's window is wide enough: at least 24 passing delays (R253). -/
def wideWindow (w : Option (BitVec 7 × BitVec 7)) : Bool :=
  match w with
  | none => false
  | some (l, r) => decide (l.toNat + 24 ≤ r.toNat + 1)

/-- A sweep's windows are recorded; a narrow one sets FAIL, source 404. -/
def State.recordSweep (s : State) (dir : Nat) (ws : List (Option (BitVec 7 × BitVec 7))) : State :=
  let s1 := (List.range 36).foldl (fun a k =>
    match nth ws k none with
    | none => ((a.set memtrWinValid 0 dir k).set memtrWinLeft 0 dir k).set memtrWinRight 0 dir k
    | some (l, r) => ((a.set memtrWinValid 1 dir k).set memtrWinLeft l.toNat dir k).set memtrWinRight r.toNat dir k) s
  if (List.range 36).all fun k => wideWindow (nth ws k none) then s1 else (s1.setW1c memtrStatFail).raise 404

/-- APPLY: every lane takes the middle of its window. -/
def State.applyDelays (s : State) (p : Nat) : State :=
  (List.range 72).foldl (fun a x =>
    let dir := x / 36
    let k := x % 36
    { a with delays := a.delays.put (delayKey p dir k) ((a.get memtrWinLeft dir k + a.get memtrWinRight dir k) / 2) 64 }) s

/-- MEMTR_OP_DONE (R253): the operation under way ends with what it measured. -/
def execMemtrOpDone (res : TrainResult) (s : State) : Result :=
  .next <|
    match s.training with
    | none => s
    | some x =>
      let s1 := { s.set memtrStatBusy 0 with training := none }
      match x % 8 with
      | 2 => s1.set memtrCmpLanes res.failed.toNat
      | 3 => s1.recordSweep 0 res.windows
      | 4 => s1.recordSweep 1 res.windows
      | 5 => s1.applyDelays (x / 8)
      | _ => s1

/-- Tower `h` reads `temp` (R254): a difference of 10 °C from TRAINED raises source 400 + h once. -/
def State.towerTemp (s : State) (h : Nat) (temp : Nat) : State :=
  let s1 := s.set memTempNow temp h
  let d := s1.getInt memTempNow h - s1.getInt memTempTrained h
  if bit s1.trainArmed.toNat h && decide (10 ≤ d ∨ d ≤ -10) then
    ({ s1 with trainArmed := s1.trainArmed &&& ~~~(1#4 <<< h) }).raise (400 + h)
  else s1

/-- MEM_RETRAIN (R254). -/
def execMemRetrain (h : Fin 4) (temp : Byte) (s : State) : Result := .next (s.towerTemp h temp.toNat)

/-! ## Page retirement (R256) -/

/-- A write of `MCp.RETCMD`. -/
def State.writeRetcmd (s : State) (w : Who) (p v : Nat) : State :=
  s.guarded0 w (mcRetcmd.key p 0) fun s =>
    if !bit v 31 then s
    else if s.on mcRetstatBusy p then s.reject w (mcRetcmd.key p 0)
    else (s.set mcRetstatBusy 1 p).setCtl p { s.ctl p with copy := some (bits v 19 0, 0, bit v 30) }

/-- PAGE_RETIRE (R256). -/
def execPageRetire (w : Who) (p : Fin 128) (granule : BitVec 20) (noCopy : Bool) (s : State) : Result :=
  .next (s.writeRetcmd w p (2 ^ 31 + b2n noCopy * 2 ^ 30 + granule.toNat))

/-- The first address of local granule `g` of pseudo-channel `p` (R249). -/
def granuleAddr (p g : Nat) : Nat := (128 * g + ((p ^^^ (g % 128)) ^^^ (g / 128 % 128))) * 2048

/-- A copied granule: corrected words clean, uncorrectable ones poisoned. -/
def State.copyGranule (s : State) (a : Nat) : State :=
  (List.range 256).foldl (fun t i =>
    match t.mark (a + 8 * i) with
    | .correctable => t.setMark (a / 8 + i) .clean
    | .uncorrectable => t.setMark (a / 8 + i) .poison
    | _ => t) s

/-- PAGE_RETIRE_DONE (R256): the result of the retirement under way. -/
def execPageRetireDone (p : Fin 128) (s : State) : Result :=
  let p := p.val
  let c := s.ctl p
  .next <|
    match c.copy with
    | none => s
    | some (g, _, noCopy) =>
      let s1 := (s.set mcRetstatBusy 0 p).setCtl p { c with copy := none }
      let used := (List.range 64).filter fun e => s1.on mcRetValid p e
      let bankUsed := used.filter fun e => granuleBank (s1.get mcRetG p e) = granuleBank g
      let spares := bankUsed.map fun e => s1.get mcRetSpare p e
      let fin := fun (t : State) (r : Nat) => (t.set mcRetstatResult r p).raise 406
      if 589823 < g then fin s1 3
      else if (s1.retEntry p g).isSome then fin s1 0
      else if used.length = 64 then fin s1 2
      else if spares.contains 0 && spares.contains 1 then fin s1 1
      else
        let e := used.length
        let sp := if spares.contains 0 then 1 else 0
        let s2 := (((s1.set mcRetValid 1 p e).set mcRetSpare sp p e).set mcRetG g p e).set mcRetstatCount (e + 1) p
        let a := granuleAddr p g
        fin (if noCopy then s2.lose fun x => decide (a ≤ x ∧ x < a + 2048) else s2.copyGranule a) 0

/-! ## Descriptors on the fabric (R38, R100, R101, R106, R237, R240) -/

/-- The initiator port through which engine `e` reaches an address (R233). -/
def enginePort (e a : Nat) : Nat :=
  if e < 8 then 2 + e else if e < 12 then 10 + 4 * (e - 8) + a / 2048 % 4 else 14 + e

/-- What a descriptor in progress asks of the fabric: a read or a write for each piece of each element. -/
def State.jobPieces (s : State) (j : Job) (d : Desc) : List (Nat × Nat) :=
  (List.range d.total).flatMap fun n =>
    ((d.dstPieces n).flatMap fun p => (s.dstBases j.frame d).map fun b => (addrOf (b + p.1), p.2))
    ++ (match s.srcBase j d with
        | .missing => []
        | .at b => (d.srcPieces n).map fun p => (addrOf (b + p.1), p.2))

/-- A piece of a descriptor as a request at its port. -/
def State.jobReq (s : State) (e : Nat) (j : Job) (d : Desc) (x : Nat × Nat) : Req :=
  let init := enginePort e x.1
  let limit := s.get fabStarveLimit
  { init := init, id := 0, qos := s.arbQos init d.qos j.ten, ten := j.ten, addr := x.1, target := (fabricTarget x.1).getD 1000
    acc := .read x.2, since := j.since, left := 1
    promoted := decide (limit ≠ 0 ∧ 125 * limit < s.cycle - j.since), no := s.reqNo }

/-- A request of a descriptor waits: one at its target or its unit's port goes before it under R243, one accepted earlier
touches its bytes (R237), or a down-link that its multicast needs has no room (R240). -/
def State.jobBehind (s : State) (e : Nat) (j : Job) (d : Desc) (x : Nat × Nat) : Bool :=
  let r := s.jobReq e j d x
  let ports := r.target :: (unitPort x.1).toList
  (ports.any fun p => (s.target p).any fun y => s.before p y r)
    || (s.accepted.any fun y => y.meets r)
    || (d.mcast ≠ 0 && decide (12 ≤ r.target ∧ r.target ≤ 43) && !roomFor (s.target r.target) r.qos 64 2)

/-- A job may complete: its code is settled, its stream is through, or the fabric and the memories serve all its
requests. -/
def State.jobReady (s : State) (e : Nat) (j : Job) : Bool :=
  let d := parseDesc j.desc
  !s.rangeHeld (j.addr + 56) 8 &&
    (j.code.isSome || (if j.stream then d.total ≤ j.taken
      else !s.moveHeld j d d.total && !(s.jobPieces j d).any (s.jobBehind e j d)))

/-- The fetch of a descriptor at `a` waits: memory holds its request, or an earlier request touches the descriptor. -/
def State.fetchHeld (s : State) (e a : Nat) : Bool :=
  let r : Req := { init := enginePort e a, id := 0, qos := 0, ten := 0, addr := a, target := 0, acc := .read 64
                   since := 0, left := 1 }
  engineReaches e a && (s.rangeHeld a 64 || s.accepted.any fun y => y.meets r)

/-- DESCRIPTOR_FETCH (R101, R210). -/
def execDescriptorFetch (e : Fin 16) (s : State) : Result :=
  .next <|
    match s.nextSubmission e with
    | none => s
    | some src => if s.fetchHeld e (s.descAddr e src) then s else s.fetchDesc e

/-- DESCRIPTOR_COMPLETE (R106). -/
def execDescriptorComplete (e : Fin 16) (moved : Nat) (s : State) : Result :=
  .next <|
    match (s.engine e).jobs with
    | [] => s
    | j :: _ =>
      if s.jobReady e j then
        { ({ s with hostCut := j.cut }).losing (fun t => t.finishJob e j moved) with hostCut := false }
      else s

end Sys2Proof.Machine
end

