-- ==== Sys2Proof/Machine/Integrity.lean ====
section
/-! DEFINITION. Integrity (R257 to R275): scrubbing, write-back of corrections, the logs' commands, retirement of SRAM
banks, and the evidence keys. -/

namespace Sys2Proof.Machine

/-! ## Corrections (R259) -/

/-- CORRECTION_WRITEBACK (R259): a corrected word is written back; a write accepted first has made it clean already. -/
def execCorrectionWriteback (addr : BitVec 48) (s : State) : Result :=
  let w := (s.behind addr.toNat).getD addr.toNat / 8 * 8
  .next <|
    if s.corrections.contains w then
      let s1 := { s with corrections := s.corrections.filter fun x => x ≠ w }
      if s1.mark w = .correctable then s1.setMark (w / 8) .clean else s1
    else s

/-! ## Scrubbing (R269) -/

/-- The scrub unit of the memory an address lies in. -/
def scrubUnit (a : Nat) : Option Nat :=
  match memKind a with
  | .pool r => some r
  | .block r b => some (4 + 12 * r + b)
  | .context r b _ => some (52 + 12 * r + b)
  | .state n => some (100 + n)
  | .flows => some 108
  | .cndInstr | .cndData => some 109
  | .dram p => some (110 + p)
  | _ => none

/-- A scrub unit besides its registers. -/
def State.scrub (s : State) (u : Nat) : Scrub := s.scrubs.at u {}

/-- `s` with another scrub unit. -/
def State.setScrub (s : State) (u : Nat) (x : Scrub) : State := { s with scrubs := s.scrubs.put u x {} }

/-- The first address that a written bit covers, and the words it covers (R267). -/
def lineWords (k : Nat) : Nat × Nat := if k < dramEnd then (2048 * k, 256) else (64 * (k - dramEnd), 8)

/-- The ranges of addresses of unit `u`'s memory that the N2048 itself has written (R268): weight banks and front-end tables
once they are filled (R98, R159), and the state of the chains. -/
def State.filled (s : State) (u : Nat) : List (Nat × Nat) :=
  if 4 ≤ u ∧ u < 52 then
    let b := blockBase ((u - 4) / 12) ((u - 4) % 12)
    if bit s.weighted.toNat ((u - 4) / 12) then [(b + 0x100000, b + 0x200000)] else []
  else if 52 ≤ u ∧ u < 100 then
    let b := blockBase ((u - 52) / 12) ((u - 52) % 12)
    if bit s.weighted.toNat ((u - 52) / 12) then [(b + 0x800000, b + 0x900000)] else []
  else if 100 ≤ u ∧ u < 108 then
    let b := stateBase (u - 100)
    let tables := [(b, b + 0x2000), (b + 0x1000000, b + 0x1400000), (b + 0x2000000, b + 0x2400000),
      (b + 0x3000000, b + 0x3002000), (b + 0x3800000, b + 0x3802000)]
    (if s.on feStatusInitDone then tables else []) ++ [(b + 0x40000000, b + 0x40008000)]
  else []

/-- The least of some numbers. -/
def least (l : List Nat) : Option Nat :=
  match l with
  | [] => none
  | x :: r => some (r.foldl min x)

/-- The next word, by address / 8, that unit `u` reads from word `w` on. -/
def State.nextScrub (s : State) (u w : Nat) : Option Nat :=
  let line := (s.lines.filter fun k => scrubUnit (lineWords k).1 = some u).find? fun k =>
    decide (w < (lineWords k).1 / 8 + (lineWords k).2)
  least ((line.map fun k => max w ((lineWords k).1 / 8)).toList
    ++ (s.filled u).filterMap fun r => if w < r.2 / 8 then some (max w (r.1 / 8)) else none)

/-- One word is scrubbed: corrected, or made to carry POISON and logged once with the scrubber bit; marks stay. -/
def State.scrubWord (s : State) (w : Nat) : State :=
  match s.mark (8 * w) with
  | .correctable => s.correctableAt (8 * w)
  | .uncorrectable =>
    let k := memKind (8 * w)
    (((s.eccFlag k 1).error (memLevel k) (s.locOf (8 * w)) 2 (Config.freeSyndrome s.fresh).toNat true).drawn).setMark w .poison
  | _ => s

/-- A lap ends: LAST, MIN and MAX in ms, and the next begins. -/
def State.endLap (s : State) (u : Nat) : State :=
  let ms := min 0xFFFFFFFF ((s.cycle - (s.scrub u).since) / 1250000)
  let s1 := s.set scrubLapMs ms u 0
  let s2 := s1.set scrubLapMs (min (s.get scrubLapMs u 1) ms) u 1
  let s3 := s2.set scrubLapMs (max (s.get scrubLapMs u 2) ms) u 2
  s3.setScrub u { s.scrub u with word := 0, since := s.cycle, slow := false }

/-- SCRUB_WORD (R269): the next written word, or the end of the lap. -/
def execScrubWord (u : Fin 238) (s : State) : Result :=
  .next <|
    if !s.on scrubCtrlEn u then s
    else match s.nextScrub u (s.scrub u).word with
      | some w => (s.scrubWord w).setScrub u { s.scrub u with word := w + 1 }
      | none => s.endLap u

/-- SCRUB_SLOW (R269): the current lap passes LIMIT, once for that lap. -/
def execScrubSlow (u : Fin 238) (s : State) : Result :=
  .next <|
    if s.get scrubCtrlLimit u = 0 || (s.scrub u).slow then s
    else (s.setScrub u { s.scrub u with slow := true }).chipErr 8

/-! ## Logs (R271, R272) -/

/-- Byte `i` of log entry `e` of log `l` (R271). -/
def State.logByte (s : State) (l e i : Nat) : Byte :=
  match s.logs.at (256 * l + e) none with
  | none => 0
  | some x =>
    let v := leBytes 6 x.loc ++ [BitVec.ofNat 8 x.kind, BitVec.ofNat 8 x.syn] ++ leBytes 2 x.count
      ++ [BitVec.ofNat 8 (128 + b2n x.scrub), 0] ++ leBytes 4 x.frame ++ leBytes 8 x.first.toNat ++ leBytes 8 x.last.toNat
    nth v i 0

/-- A write of `INT.LOGl.CMD` (R272). -/
def State.writeLogCmd (s : State) (w : Who) (l v : Nat) : State :=
  s.guarded0 w (intLogCmd.key l 0) fun s =>
    if bit v 0 then
      { s.setReg intLogStat l 0 0 with logs := Sparse.drop s.logs fun k => k / 256 = l }
    else s

/-- LOG_CLR (R272). -/
def execLogClr (w : Who) (l : Fin 4) (s : State) : Result := .next (s.writeLogCmd w l 1)

/-! ## Retirement of SRAM banks and blocks (R273) -/

/-- The 64 KB banks of the memory of unit `u`, where it has a spare. -/
def sretBanks (u : Nat) : Option Nat :=
  if u < 4 then some 512
  else if u < 52 then some 32
  else if 100 ≤ u ∧ u < 108 then some 24
  else if u = 108 then some 64
  else none

/-- The bank of its memory that word `w` lies in. -/
def sretBank (u w : Nat) : Nat :=
  if u < 4 then (8 * w - regionBase u) / 65536
  else if u < 52 then (8 * w - blockBase ((u - 4) / 12) ((u - 4) % 12)) / 65536
  else if u < 108 then Config.stateBank (w - stateBase (u - 100) / 8)
  else (8 * w - 0x019000000000) / 65536

/-- A bank command is accepted now. -/
def State.sretAccepted (s : State) (u : Nat) : Bool :=
  if u < 4 || u = 108 then !s.on tickCtrlRun
  else if u < 52 then (s.seq (u - 4)).st.idle
  else s.pstate (u - 100) = 0

/-- A write of `SRETu.CMD`. -/
def State.writeSret (s : State) (w : Who) (u v : Nat) : State :=
  s.guarded0 w (sretCmd.key u 0) fun s =>
    if (sretBanks u).isNone || !bit v 31 then s
    else if s.on sretStatBusy u || !s.sretAccepted u then s.reject w (sretCmd.key u 0)
    else (s.set sretStatBusy 1 u).setScrub u { s.scrub u with copy := some (bits v 8 0) }

/-- SRAM_BANK_RETIRE (R273). -/
def execSramBankRetire (w : Who) (u : Fin 238) (bank : BitVec 9) (s : State) : Result :=
  .next (s.writeSret w u (2 ^ 31 + bank.toNat))

/-- The words of a bank are copied: corrected words clean, uncorrectable ones poisoned (R256, R273). -/
def State.copyBank (s : State) (u bank : Nat) : State :=
  { s with marks := s.marks.map fun (e : Nat × Option Mark) =>
      if scrubUnit (8 * e.1) = some u && sretBank u e.1 = bank then
        match e.2 with
        | some .correctable => (e.1, some .clean)
        | some .uncorrectable => (e.1, some .poison)
        | _ => e
      else e }

/-- SRAM_BANK_RETIRE_DONE (R273): one spare, then NOSPARE; RANGE for a bank the memory does not have. -/
def execSramBankRetireDone (u : Fin 238) (s : State) : Result :=
  let u := u.val
  .next <|
    match (s.scrub u).copy, sretBanks u with
    | some bank, some n =>
      let s1 := (s.set sretStatBusy 0 u).setScrub u { s.scrub u with copy := none }
      if n ≤ bank then s1.set sretStatResult 3 u
      else if s1.on sretUsedUsed u then s1.set sretStatResult 1 u
      else (((s1.copyBank u bank).set sretStatResult 0 u).set sretStatBank bank u).set sretUsedUsed 1 u
    | _, _ => s

/-- A write of `RGNn.BLKRET` (R273): a block whose bit changes must be in OFF. -/
def State.writeBlkret (s : State) (w : Who) (r v : Nat) : State :=
  s.guarded0 w (rgnBlkret.key r 0) fun s =>
    let old := s.get rgnBlkretMask r
    if (List.range 12).any fun b => bit v b ≠ bit old b && (s.seq (12 * r + b)).st ≠ .off then s.reject w (rgnBlkret.key r 0)
    else s.set rgnBlkretMask v r

/-! ## Evidence keys (R275) -/

/-- A write to the SEAL registers has effect only on a part with the option fuse. -/
def State.sealed (s : State) (w : Who) (off : Nat) (f : State → State) : State :=
  s.guarded w off true fun s => if Config.sealFused then f s else s.reject w off

/-- A write of `SEAL.KEYDATAw`. -/
def State.writeKeydata (s : State) (w : Who) (i v : Nat) : State :=
  s.sealed w (sealKeydata.key i 0) fun s => { s with keyStage := s.keyStage.put i (BitVec.ofNat 32 v) 0 }

/-- The staged key. -/
def State.stagedKey (s : State) (long : Bool) : BitVec 256 :=
  BitVec.ofNat 256 (((List.range (if long then 8 else 4)).map fun i => (s.keyStage.at i 0).toNat * 2 ^ (32 * i)).sum)

/-- The key of a slot is erased. -/
def State.eraseKey (s : State) (slot : Nat) : State :=
  { (s.set sealSlotValid 0 slot).set sealSlotLen 0 slot with keys := s.keys.put slot none none }

/-- A write of `SEAL.KEYCMD`: another function than 0 loads and erases only slots of its tenancy, and sets no TEN. -/
def State.writeKeycmd (s : State) (w : Who) (v : Nat) : State :=
  s.sealed w (sealKeycmd.key 0 0) fun s =>
    let slot := bits v 5 0
    if !bit v 31 && !bit v 30 then s
    else if w.fn ≠ 0 && w.fn.val ≠ s.get sealSlotTen slot then s.reject w (sealKeycmd.key 0 0)
    else
      let t := if w.fn = 0 && bit v 31 then s.set sealSlotTen (bits v 17 16) slot else s
      let t := if bit v 31 then
          ({ (t.set sealSlotValid 1 slot).set sealSlotLen (bits v 24 24) slot with
              keys := t.keys.put slot (some (t.stagedKey (bit v 24))) none }).count sealSlotLoads 1 slot else t
      let t := if bit v 30 then t.eraseKey slot else t
      { t with keyStage := [] }

/-- KEY_LOAD (R275). -/
def execKeyLoad (w : Who) (slot : Fin 64) (long : Bool) (ten : Fin 4) (s : State) : Result :=
  .next (s.writeKeycmd w (2 ^ 31 + b2n long * 2 ^ 24 + ten.val * 2 ^ 16 + slot.val))

/-- KEY_ERASE (R275). -/
def execKeyErase (w : Who) (slot : Fin 64) (s : State) : Result := .next (s.writeKeycmd w (2 ^ 30 + slot.val))

end Sys2Proof.Machine
end

