-- ==== Sys2Proof/Machine/Egress.lean ====
section
/-! DEFINITION. Egress (R276 to R302): the check and staging of a product, headers, seals and stamps, the Sluice, the
flow table, what a port receives, the time of day, and the note queues as they are read. -/

namespace Sys2Proof.Machine

/-! ## Ports (R278) -/

/-- An egress port besides its registers. -/
def State.egr (s : State) (p : Nat) : EgrPort := s.egress.at p {}

/-- `s` with another egress port. -/
def State.setEgr (s : State) (p : Nat) (x : EgrPort) : State := { s with egress := s.egress.put p x {} }

/-- Port `p` is UP. -/
def State.egrUp (s : State) (p : Nat) : Bool := s.get egrpStatState p = 2

/-- The state of a port follows ENABLE, its link and its lane PLL; a change sets LINK (R278, R321). While a local fault is
detected an enabled port sends remote fault (R276). -/
def State.settleEgr (s : State) (p : Nat) : State :=
  let s := s.setEgr p { s.egr p with rfSent := s.on egrpCtrlEnable p && s.on egrpStatLf p }
  let st :=
    if !s.on egrpCtrlEnable p then 0
    else if s.on egrpStatAligned p && s.on egrpStatFecLock p && !s.on egrpStatLf p && !s.on egrpStatRf p
        && !bit (s.get clkMonstatFail) (5 + p) then 2
    else 1
  if st = s.get egrpStatState p then s else (s.set egrpStatState st p).egrpFlag p 0

/-- EGRESS_LINK_CHANGE (R278). -/
def execEgressLinkChange (p : Fin 2) (aligned fecLock localFault remoteFault : Bool) (s : State) : Result :=
  .next ((((((s.set egrpStatAligned (b2n aligned) p).set egrpStatFecLock (b2n fecLock) p).set egrpStatLf (b2n localFault) p).set
    egrpStatRf (b2n remoteFault) p)).settleEgr p)

/-- The bucket of a port fills up to now (R293): 40 bytes a core cycle at the full rate. -/
def State.fillBucket (s : State) (p : Nat) : State :=
  let e := s.egr p
  let n := (s.cycle - e.since) * 40 * max 1 (s.get egrpCtrlCap p)
  s.setEgr p { e with bucket := min 18915328 (e.bucket + n), since := s.cycle }

/-- A write of `EGRp.CTRL` (R278); the bucket has filled at the old CAP until now (R293). -/
def State.writeEgrpCtrl (s : State) (w : Who) (p v : Nat) : State :=
  s.guarded0 w (egrpCtrl.key p 0) fun s =>
    ((s.fillBucket p).writeFieldsOf egrpCtrl p 0 v).settleEgr p

/-! ## Flow contexts (R280, R281) -/

/-- The fields of a flow context. -/
structure Flow where
  seq    : Nat
  tmpl   : Nat
  dport  : Nat
  qos    : Nat
  ten    : Nat
  port   : Nat
  sealed : Bool
  slot   : Nat
  launch : Nat
  raw    : Bool
  tsreq  : Bool
  en     : Bool
  offset : Nat
  deriving DecidableEq, Repr

/-- The fields of 16 bytes of context (R280). -/
def parseFlow (c : List Byte) : Flow :=
  let f := fun a n => leVal (slice c a n)
  { seq := f 0 4, tmpl := f 4 2 % 4096, dport := f 6 2, qos := f 8 1 % 16, ten := f 8 1 / 16 % 4, port := f 8 1 / 64
    sealed := bit (f 9 1) 7, slot := f 9 1 % 64, launch := f 10 1 % 4, raw := bit (f 10 1) 2, tsreq := bit (f 10 1) 3
    en := bit (f 10 1) 7, offset := f 12 4 }

/-- FLOW_CONTEXT_WRITE (R280, R281): bytes of one context, within the writer's flow range. -/
def execFlowContextWrite (w : Who) (f : BitVec 18) (start : Fin 16) (data : List Byte) (s : State) : Result :=
  let a := flowAddr f.toNat + start.val
  .next <|
    if s.power.inReset then s
    else if !s.owns w.fn a then s.reject w a
    else s.flowWrite a ((data.take (16 - start.val)).map fun b => (b, false))

/-! ## Templates (R279) -/

/-- A header template: its LEN, KIND and header bytes. -/
structure Template where
  len  : Nat
  kind : Nat
  hdr  : List Byte
  deriving DecidableEq, Repr

/-- The template that 128 bytes hold. -/
def parseTemplate (t : List Byte) : Template :=
  let n := leVal (slice t 0 2)
  ⟨n, leVal (slice t 2 1), slice t 16 n⟩

/-- The address of template `x`. -/
def tmplAddr (x : Nat) : Nat := 0x019000400000 + 128 * x

/-- The 128 bytes of template `x` are read; one with a bad word reads as zeros, which is no valid template (log entry 122). -/
def State.readTemplate (s : State) (x : Nat) : State × List Byte :=
  let (s1, bad) := s.readWords (tmplAddr x) 128
  (s1, if bad.isEmpty then s1.bytes (tmplAddr x) 128 else List.replicate 128 0)

/-- VLAN tags of a KIND. -/
def kindTags (k : Nat) : Nat := k / 4 % 4

/-- KIND and LEN agree (R279). -/
def Template.valid (t : Template) : Bool :=
  let extra := match t.kind % 4 with | 1 => 28 | 2 => 48 | _ => 0
  t.kind % 4 ≠ 3 && decide (kindTags t.kind ≤ 2) && t.kind / 32 = 0 && t.len = 14 + 4 * kindTags t.kind + extra

/-! ## Staging (R282, R283) -/

/-- The time of day in ns. -/
def State.nowNs (s : State) : Nat := s.tb.sec * 10 ^ 9 + s.todNs

/-- A stamp in the layout of `TICK.FT_TOD`, in ns. -/
def stampNs (x : Nat) : Nat := x / 2 ^ 30 * 10 ^ 9 + x % 2 ^ 30

/-- A time in ns in that layout. -/
def nsStamp (n : Nat) : Nat := n / 10 ^ 9 % 2 ^ 34 * 2 ^ 30 + n % 10 ^ 9

/-- MAXFRAME as it acts. -/
def State.maxFrame (s : State) : Nat := min 9216 (max 1518 (s.get egrCfgMaxframe))

/-- The prefix of a packet of a RAW flow that came through a send window (R286; log entry 123). -/
def Product.head (p : Product) (f : Flow) : Option (List Byte) :=
  if f.raw && p.type = 0x30 then some (p.payload.take 16) else none

/-- The payload that is sent: without the prefix. -/
def Product.sent (p : Product) (f : Flow) : List Byte := if (p.head f).isSome then p.payload.drop 16 else p.payload

/-- The AT_TOD launch time of a packet: that of its prefix. -/
def Product.launch (p : Product) (f : Flow) : Option Nat :=
  if f.launch = 3 then (p.head f).map fun l => stampNs (leVal (slice l 8 8)) else none

/-- The bytes that a packet adds to its template: header and tag unless RAW (R286), payload, and FCS. -/
def Product.size (p : Product) (f : Flow) : Nat :=
  (p.sent f).length + 4 + if f.raw then 0 else 64 + if f.sealed then 16 else 0

/-- The first check of R282 that a product fails under template `t`: 0 for EN, or the fault code. -/
def State.stageFault (s : State) (p : Product) (f : Flow) (t : Template) : Option Nat :=
  if !f.en then some 0
  else if f.ten ≠ p.ten then some 1
  else if f.port = 3 || !t.valid then some 2
  else if f.launch = 3 && !f.raw then some 3
  else if s.maxFrame < t.len + p.size f then some 4
  else match p.launch f with
    | some x => if s.nowNs + 10 ^ 9 < x then some 5 else none
    | none => none

/-- A fault of R282 is recorded. -/
def State.flowFault (s : State) (f code : Nat) : State :=
  let s1 := (s.count egrCntCount 1 0).egrFlag 0
  if s1.on egrFaultValid then s1 else ((s1.setW1c egrFaultValid).set egrFaultCode code).set egrFaultFlow f

/-- A product passes: SEQ advances, and its packet is queued on the port chosen now (R278, R283). -/
def State.queueProduct (s : State) (p : Product) (ctx tmpl : List Byte) (f : Flow) : State :=
  let port := if f.port = 2 then (if s.egrUp 0 then 0 else 1) else f.port
  let q : Queued :=
    ⟨p, ctx, tmpl, f.seq, s.stagedNo, p.launch f, BitVec.ofNat 32 (crc32c (p.sent f)), s.arbQos 30 f.qos f.ten⟩
  let s1 := s.store (flowAddr p.flow) (leBytes 4 (f.seq + 1))
  { s1.setEgr port { s1.egr port with queue := (s1.egr port).queue ++ [q] } with stagedNo := s.stagedNo + 1 }

/-- PRODUCT_STAGE (R282): the first product waiting meets its flow and its template. A context with a bad word has EN = 0
(R267). -/
def execProductStage (s : State) : Result :=
  .next <|
    match s.prods with
    | [] => s
    | p :: rest =>
      let (s1, bad) := ({ s with prods := rest }).readWords (flowAddr p.flow) 16
      let ctx := s1.bytes (flowAddr p.flow) 16
      let f := parseFlow ctx
      let f := if bad.isEmpty then f else { f with en := false }
      if !f.en then s1.count egrCntCount 1 2
      else
        let (s2, tmpl) := s1.readTemplate f.tmpl
        match s2.stageFault p f (parseTemplate tmpl) with
        | some c => s2.flowFault p.flow c
        | none => s2.queueProduct p ctx tmpl f

/-! ## Building a frame (R279, R284, R288) -/

/-- Bytes of a list replaced from offset `o` on. -/
def patch (l : List Byte) (o : Nat) (d : List Byte) : List Byte := l.take o ++ d ++ l.drop (o + d.length)

/-- The sum of big-endian 16-bit words, an odd byte padded with 0. -/
def wordSum (l : List Byte) : Nat :=
  match l with
  | [] => 0
  | [a] => a.toNat * 256
  | a :: b :: r => a.toNat * 256 + b.toNat + wordSum r

/-- The internet checksum of a sum. -/
def inetSum (n : Nat) : Nat :=
  let a := n % 65536 + n / 65536
  let b := a % 65536 + a / 65536
  let c := b % 65536 + b / 65536
  65535 - c

/-- A UDP checksum as sent: 0 is sent as 0xFFFF. -/
def udpSum (n : Nat) : Nat := let c := inetSum n; if c = 0 then 65535 else c

/-- The template's header with the fields that every packet fills in, over the UDP payload `body` (R279). -/
def fillHeader (t : Template) (dport seq : Nat) (body : List Byte) : List Byte :=
  let o := 14 + 4 * kindTags t.kind
  let len := body.length
  match t.kind % 4 with
  | 1 =>
    let h := patch (patch (patch t.hdr (o + 2) (beBytes 2 (28 + len))) (o + 4) (beBytes 2 seq)) (o + 10) [0, 0]
    let h := patch h (o + 10) (beBytes 2 (inetSum (wordSum (slice h o 20))))
    let h := if dport = 0 then h else patch h (o + 22) (beBytes 2 dport)
    let h := patch (patch h (o + 24) (beBytes 2 (8 + len))) (o + 26) [0, 0]
    if bit t.kind 4 then
      patch h (o + 26) (beBytes 2 (udpSum (wordSum (slice h (o + 12) 8) + 17 + (8 + len) + wordSum (slice h (o + 20) 8) + wordSum body)))
    else h
  | 2 =>
    let h := patch t.hdr (o + 4) (beBytes 2 (8 + len))
    let h := if dport = 0 then h else patch h (o + 42) (beBytes 2 dport)
    let h := patch (patch h (o + 44) (beBytes 2 (8 + len))) (o + 46) [0, 0]
    patch h (o + 46) (beBytes 2 (udpSum (wordSum (slice h (o + 8) 32) + 17 + (8 + len) + wordSum (slice h (o + 40) 8) + wordSum body)))
  | _ => t.hdr

/-- The product header (R284); `mark` is its byte 14. -/
def productHeader (p : Product) (f : Flow) (q : Queued) (port flags mark stamp : Nat) : List Byte :=
  beBytes 2 0xB6F5 ++ [1, BitVec.ofNat 8 p.type] ++ beBytes 4 p.flow ++ beBytes 4 q.seq
    ++ [BitVec.ofNat 8 (f.ten * 64 + port * 16 + p.region), BitVec.ofNat 8 flags, BitVec.ofNat 8 mark, 0]
    ++ beBytes 5 p.frame ++ [0] ++ beBytes 2 p.chan0 ++ beBytes 2 p.nchan ++ [0, 0] ++ beBytes 4 p.block
    ++ beBytes 4 p.payload.length ++ beBytes 4 q.pcrc.toNat ++ beBytes 6 (stamp / 10 ^ 9) ++ beBytes 4 (stamp % 10 ^ 9)
    ++ List.replicate 14 0

/-- Why a flow that asks for a seal goes without (R289): 1 fused off, 2 no key, 3 wrong tenancy. -/
def State.sealFault (s : State) (f : Flow) : Option Nat :=
  if !Config.sealFused then some 1
  else if (s.keys.at f.slot none).isNone then some 2
  else if s.get sealSlotTen f.slot ≠ f.ten then some 3
  else none

/-- The 16-byte tag of R288. -/
def State.sealTag (s : State) (f : Flow) (flow seq : Nat) (aad : List Byte) : List Byte :=
  match s.keys.at f.slot none with
  | none => []
  | some key =>
    let iv := beBytes 4 flow ++ beBytes 4 seq ++ beBytes 2 (s.get sealSlotLoads f.slot) ++ [0, 0]
    beBytes 16 (aesGmac key (s.on sealSlotLen f.slot) iv aad)

/-- The bytes of a frame with `flags` in its header, padded to the 60 that make 64 with the FCS at its end (R276). -/
def State.frameBytes (s : State) (p : Nat) (q : Queued) (flags stamp : Nat) : List Byte :=
  let f := parseFlow q.ctx
  let t := parseTemplate q.tmpl
  let body :=
    if f.raw then q.prod.sent f
    else
      let fault := s.sealFault f
      let byte := (if f.sealed then (if fault.isNone then 128 else 64) else 0) + f.slot
      let h := productHeader q.prod f q p flags byte stamp
      let tag := if f.sealed && fault.isNone then s.sealTag f q.prod.flow q.seq (h ++ q.prod.payload) else []
      h ++ q.prod.payload ++ tag
  let l := fillHeader t f.dport q.seq body ++ body
  let l := l ++ List.replicate (60 - l.length) 0
  l ++ leBytes 4 (ethernetFcs l)

/-! ## The Sluice (R290 to R293) -/

/-- The class of an arbitrated QoS: 0 watch, 1 beam, 2 bulk, 3 housekeeping (R38). -/
def qosClass (q : Nat) : Nat := if q = 15 then 0 else if 10 ≤ q then 1 else if 4 ≤ q then 2 else 3

/-- The wire time of a queued packet in bytes, with preamble and gap (R293). -/
def State.wireBytes (s : State) (p : Nat) (q : Queued) : Nat := (s.frameBytes p q 0 0).length + 20

/-- The packet's time has come, and nothing of its flow is ahead of it (R283, R292). -/
def State.timeCome (s : State) (q : Queued) : Bool :=
  let f := parseFlow q.ctx
  let first := (List.range 2).all fun p => (s.egr p).queue.all fun x => x.prod.flow ≠ q.prod.flow || decide (q.order ≤ x.order)
  first && (match f.launch with
    | 0 => true
    | 2 => (match s.flowStart.at q.prod.flow none with
        | none => true
        | some t => decide (t + f.offset ≤ s.nowNs))
    | 1 => (match q.launch with | none => false | some t => decide (t ≤ s.nowNs))
    | _ => q.launch.all fun t => decide (t ≤ s.nowNs))

/-- The launch time of a TICKED or AT_TOD packet. -/
def Queued.timed (q : Queued) : Option Nat := if (parseFlow q.ctx).launch % 2 = 1 then q.launch else none

/-- A packet may start on port `p` now: its time has come, the bucket allows it, and it would be off the wire before a
timed packet of a higher class (R290, R293). -/
def State.mayStart (s : State) (p : Nat) (q : Queued) : Bool :=
  let e := s.egr p
  s.timeCome q && (qosClass q.qos = 0 || decide (0 ≤ e.bucket))
    && e.queue.all fun x =>
        match x.timed with
        | some t => decide (qosClass q.qos ≤ qosClass x.qos) || decide (t ≤ s.nowNs)
            || decide (s.nowNs * 50 + s.wireBytes p q ≤ t * 50)
        | none => true

/-- The key under which a tenancy's use of port `p` is metered; it is throttled there under 4 (200 + p) + t (R44). -/
def egrMeter (p t : Nat) : Nat := 4 + 4 * p + t

/-- Packet `x` goes before `y` on port `p` (R290). -/
def State.sluiceBefore (s : State) (p : Nat) (x y : Queued) : Bool :=
  let low := fun (q : Queued) => decide (q.qos < 15) && s.throttled.contains (4 * (200 + p) + (parseFlow q.ctx).ten)
  if qosClass x.qos ≠ qosClass y.qos then decide (qosClass x.qos < qosClass y.qos)
  else match x.timed, y.timed with
    | some _, none => true
    | none, some _ => false
    | tx, ty =>
      if tx.getD 0 ≠ ty.getD 0 then decide (tx.getD 0 < ty.getD 0)
      else if low x ≠ low y then !low x
      else if x.qos ≠ y.qos then decide (y.qos < x.qos)
      else decide (x.order < y.order)

/-- The first of some packets. -/
def State.sluiceFirst (s : State) (p : Nat) (l : List Queued) : Option Queued :=
  match l with
  | [] => none
  | q :: r => some (r.foldl (fun a b => if s.sluiceBefore p b a then b else a) q)

/-- The bytes a tenancy's reservation allows on a port in a frame: 1/1,024 of 400 Gb/s each (R44). -/
def State.egrBudget (s : State) (t : Nat) : Nat := s.get tenReserveEgr t * 25 * s.frameLen / 4

/-- Tenancies over their reservation on a contended port are throttled for the frame (R44). -/
def State.meterEgr (s : State) (p : Nat) (l : List Queued) : State :=
  (List.range 4).foldl (fun a t =>
    if l.any (fun q => (parseFlow q.ctx).ten = t) && l.any (fun q => (parseFlow q.ctx).ten ≠ t)
        && decide (a.egrBudget t < a.used.at (egrMeter p t) 0) && !a.throttled.contains (4 * (200 + p) + t) then
      a.throttle (200 + p) t
    else a) s

/-- A stamp enters the transmit queue, or is lost (R296, R123, R124). -/
def State.pushStamp (s : State) (p : Nat) (x : Stamp) : State :=
  let e := s.egr p
  let n := e.stamps.length
  if 64 ≤ n then (s.count egrpTsqLostCount 1 p).egrpFlag p 1
  else
    let s1 := (s.setEgr p { e with stamps := e.stamps ++ [x] }).peak egrpTsqPeakValue (n + 1) p
    if crosses (s.get egrpTsqWmValue p) n (n + 1) then s1.egrpFlag p 2 else s1

/-- A watch packet misses the bound of R40 (R42): it starts more than 36 µs after the FT that ended its frame. -/
def State.watchLate (s : State) (q : Queued) : Bool :=
  let d := s.aheadFrame s.frame q.prod.frame
  decide (1 < d) || (d = 1 && decide (stampNs (s.reg tickFtTod 0 0) + 36000 < s.nowNs + 180))

/-- The payload of a packet fails its check at the egress engine (R262, R287). -/
def Queued.bad (q : Queued) : Bool :=
  q.prod.crcBad || decide (q.pcrc ≠ BitVec.ofNat 32 (crc32c (q.prod.sent (parseFlow q.ctx))))

/-- A watch packet is formed again, once, from the regional results its engine keeps; PARTIAL when channels are then
incomplete (R262). Any other packet has none. -/
def Queued.formedAgain (q : Queued) : Option Queued :=
  q.prod.kept.map fun x =>
    let y := x.payload
    let prod := { q.prod with payload := y.1, crcBad := false, kept := none, flags := q.prod.flags ||| b2n !y.2 }
    { q with prod := prod, pcrc := BitVec.ofNat 32 (crc32c (prod.sent (parseFlow q.ctx))) }

/-- A packet whose payload passed its check starts (R284, R289, R292, R294, R296). -/
def State.sendPacket (s : State) (p : Nat) (q : Queued) : State :=
    let f := parseFlow q.ctx
    let now := s.nowNs
    let stamp := now + 180
    let wire := s.wireBytes p q
    let isWatch := q.prod.type = 0x20
    let late := match q.timed with | some t => decide (t + s.get egrCfgLatetol < now) | none => false
    let s2 := if late then (s.count egrpCntCount 1 p 2).egrpFlag p 4 else s
    let wlate := isWatch && s.watchLate q
    let s3 := if wlate then (s2.setW1c tickStatusWatchLate).raise 131 else s2
    let mark := !f.raw && (if isWatch then wlate else late)
    let s4 := match (if f.sealed && !f.raw then s3.sealFault f else none) with
      | none => s3
      | some c =>
        let t := (s3.count egrCntCount 1 1).egrFlag 1
        if t.on egrSealfaultValid then t
        else ((t.setW1c egrSealfaultValid).set egrSealfaultCause c).set egrSealfaultFlow q.prod.flow
    let bytes := s4.frameBytes p q (q.prod.flags ||| (if mark then 16 else 0)) stamp
    let head := q.prod.head f
    let s5 := if f.tsreq || head.any (fun pre => bit (nth pre 2 0).toNat 0) then
        s4.pushStamp p ⟨BitVec.ofNat 64 (nsStamp stamp), q.prod.flow,
          match head with | some pre => leVal (slice pre 0 2) | none => q.seq % 65536⟩
      else s4
    let s6 := s5.count egrpCntCount 1 p 0
    let e6 := s6.egr p
    { s6.setEgr p { e6 with busy := true, bucket := e6.bucket - (wire * 1024 : Nat) } with
      sent := s6.sent ++ [⟨p, now, bytes⟩]
      flowStart := s6.flowStart.put q.prod.flow (some now) none
      used := s6.used.put (egrMeter p f.ten) (s6.used.at (egrMeter p f.ten) 0 + wire) 0 }

/-- A packet comes off its queue: one that fails its check is withheld, a watch packet is formed again first (R262). -/
def State.startPacket (s : State) (p : Nat) (q : Queued) : State :=
  let e := s.egr p
  let s0 := s.setEgr p { e with queue := e.queue.erase q }
  if !q.bad then s0.sendPacket p q
  else
    let s1 := s0.error 3 q.prod.flow 9 0
    match q.formedAgain with
    | none => s1.chipErr 7
    | some q' => s1.sendPacket p q'

/-- The Sluice chooses the next packet of its port; one that reaches its head while the port is not UP is discarded
(R278, R290). -/
def State.sluice (s : State) (p : Nat) : State :=
  let s0 := s.fillBucket p
  if !s0.egrUp p then
    match s0.sluiceFirst p ((s0.egr p).queue.filter s0.timeCome) with
    | none => s0
    | some q =>
      let e := s0.egr p
      (s0.setEgr p { e with queue := e.queue.erase q }).count egrpCntCount 1 p 1
  else
    let l := (s0.egr p).queue.filter s0.timeCome
    let s1 := s0.meterEgr p l
    match s1.sluiceFirst p (l.filter (s1.mayStart p)) with
    | none => s1
    | some q => s1.startPacket p q

/-- SLUICE_SELECT (R290): the MAC has finished a frame. -/
def execSluiceSelect (p : Fin 2) (s : State) : Result :=
  .next ((s.setEgr p { s.egr p with busy := false }).sluice p)

/-- PACKET_ELIGIBLE (R292): a packet becomes eligible while the MAC is idle. -/
def execPacketEligible (p : Fin 2) (s : State) : Result :=
  .next (if (s.egr p).busy then s else s.sluice p)

/-- At an FT, TICKED packets staged since the last take their launch time (R292). -/
def State.tickEgress (s : State) (p : Nat) : State :=
  let e := s.egr p
  s.setEgr p { e with queue := e.queue.map fun q =>
    let f := parseFlow q.ctx
    if f.launch = 1 && q.launch.isNone then { q with launch := some (s.nowNs + f.offset) } else q }

/-! ## Receive (R277, R297) -/

/-- The multicast addresses of PTP. -/
def ptpAddrs : List Nat :=
  [0x011B19000000, 0x0180C200000E, 0x01005E000181, 0x01005E00006B, 0x333300000181, 0x33330000006B]

/-- The PTP message of a frame, with its transport code: EtherType 0x88F7, or UDP to port 319 or 320. -/
def ptpMessage (f : List Byte) : Option (Nat × List Byte) :=
  let et := beVal (slice f 12 2)
  let port := fun (o : Nat) => beVal (slice f (o + 2) 2)
  if et = 0x88F7 then some (0, f.drop 14)
  else if et = 0x0800 && beVal (slice f 14 1) = 0x45 && beVal (slice f 23 1) = 17 && (port 34 = 319 || port 34 = 320) then
    some (1, f.drop 42)
  else if et = 0x86DD && beVal (slice f 20 1) = 17 && (port 54 = 319 || port 54 = 320) then some (2, f.drop 62)
  else none

/-- One entry of the receive ring: 128 bytes (R297). -/
def rxEntry (stamp transport : Nat) (m : List Byte) : List Byte :=
  let body := m.take (min 112 (beVal (slice m 2 2)))
  leBytes 8 stamp ++ leBytes 2 (beVal (slice m 2 2)) ++ [BitVec.ofNat 8 transport,
    BitVec.ofNat 8 (b2n (decide ((nth m 0 0).toNat % 16 < 4)))] ++ List.replicate 4 0 ++ body
    ++ List.replicate (112 - body.length) 0

/-- ETHERNET_RX_FRAME (R276, R277, R297): its length counts from the destination MAC address through the FCS. -/
def execEthernetRxFrame (p : Fin 2) (frame : List Byte) (fcs : Word) (s : State) : Result :=
  let len := frame.length + 4
  let da := beVal (slice frame 0 6)
  let drop := s.count egrpCntCount 1 p 3
  .next <|
    if !s.egrUp p then s
    else if fcs.toNat ≠ ethernetFcs frame then s.count egrpCntCount 1 p 4
    else if len < 64 || s.maxFrame < len then drop
    else if beVal (slice frame 12 2) = 0x8808 then s.count egrpCntCount 1 p 5
    else match ptpMessage frame with
      | none => drop
      | some (tr, m) =>
        let e := s.egr p
        if da ≠ s.get egrpMacAddr p && !ptpAddrs.contains da then drop
        else if 64 ≤ e.rx.length then drop
        else (s.setEgr p { e with rx := e.rx ++ [rxEntry s.todStamp tr m] }).egrpFlag p 3

/-- A write of `EGRp.PTPRX_CMD`. -/
def State.writePtprx (s : State) (w : Who) (p v : Nat) : State :=
  s.guarded0 w (egrpPtprxCmd.key p 0) fun s =>
    let free := fun (t : State) (n : Nat) =>
      let e := t.egr p
      let n := min n e.rx.length
      t.setEgr p { e with rx := e.rx.drop n, rxHead := (e.rxHead + n) % 64 }
    if bit v 1 then free s 64 else if bit v 0 then free s 1 else s

/-- PTPRX_POP (R297). -/
def execPtprxPop (w : Who) (p : Fin 2) (s : State) : Result := .next (s.writePtprx w p 1)

/-- PTPRX_CLR (R297). -/
def execPtprxClr (w : Who) (p : Fin 2) (s : State) : Result := .next (s.writePtprx w p 2)

/-! ## Reads with effects (R296, R298, R301) -/

/-- A value of `n` bytes goes back to a reader. -/
def State.answer (s : State) (n v : Nat) : State := { s with reply := some ⟨0, 0, .ok, leBytes n v⟩ }

/-- What `EGRp.TSQ_HI` shows of an entry. -/
def Stamp.high (x : Stamp) : Nat := 2 ^ 63 + x.id % 65536 * 2 ^ 32 + x.flow % 2 ^ 18

/-- A read of `EGRp.TSQ_HI` (R296). -/
def State.readTsqHi (s : State) (p : Nat) : State :=
  let e := s.egr p
  match e.stamps with
  | [] => s.answer 8 0
  | x :: r => (((s.setEgr p { e with stamps := r }).setReg egrpTsqTod p 0 x.stamp.toNat)).answer 8 x.high

/-- A read of `TOD.SEC` latches `TOD.NS` (R298). -/
def State.readTodSec (s : State) : State := (s.set todNsNs s.todNs).answer 8 (s.tb.sec % 2 ^ 48)

/-- A write of `TOD.SETSEC`. -/
def State.writeSetsec (s : State) (w : Who) (v : Nat) : State :=
  s.guarded0 w (todSetsec.key 0 0) fun s =>
    if bit v 63 then { s with tb := { s.tb with load := some (v % 2 ^ 48) } } else s

/-- TOD_SETSEC (R298). -/
def execTodSetsec (w : Who) (sec : BitVec 48) (s : State) : Result := .next (s.writeSetsec w (2 ^ 63 + sec.toNat))

/-- The note that NEXT opens: the highest priority, the oldest within it (R301). -/
def NoteQueue.best (q : NoteQueue) : Option Note :=
  match q.notes with
  | [] => none
  | n :: r => some (r.foldl (fun a b => if a.pri < b.pri then b else a) n)

/-- What NEXT returns for a note. -/
def Note.header (n : Note) (again : Bool) : Nat :=
  2 ^ 31 + b2n again * 2 ^ 30 + n.pri % 4 * 2 ^ 28 + (n.words.length - 1) % 16 * 2 ^ 24 + n.type % 256 * 2 ^ 16

/-- A read of `NOTEt.NEXT` by its tenancy (R301). -/
def State.readNoteNext (s : State) (t : Nat) : State :=
  let q := s.noteQ t
  match q.opened with
  | some (n, _) => s.answer 4 (n.header true)
  | none =>
    match q.best with
    | none => s.answer 4 0
    | some n => (s.setNoteQ t { notes := q.notes.erase n, opened := some (n, 0) }).answer 4 (n.header false)

/-- A read of `NOTEt.WORD` (R301): the read of the last word removes the note. -/
def State.readNoteWord (s : State) (t : Nat) : State :=
  let q := s.noteQ t
  match q.opened with
  | none => s.answer 4 0
  | some (n, i) =>
    let s1 := s.setNoteQ t { q with opened := if i + 1 < n.words.length then some (n, i + 1) else none }
    s1.answer 4 (nth n.words i 0).toNat

/-- A write of `NOTEt.CMD` (R301). -/
def State.writeNoteCmd (s : State) (w : Who) (t v : Nat) : State :=
  s.guarded w (noteCmd.key t 0) (w.fn.val = t) fun s =>
    let q := s.noteQ t
    if bit v 1 then s.setNoteQ t {} else if bit v 0 then s.setNoteQ t { q with opened := none } else s

/-- NOTE_DROP (R301). -/
def execNoteDrop (w : Who) (t : Fin 4) (s : State) : Result := .next (s.writeNoteCmd w t 1)

/-- NOTE_CLR (R301). -/
def execNoteClr (w : Who) (t : Fin 4) (s : State) : Result := .next (s.writeNoteCmd w t 2)

end Sys2Proof.Machine
end

