-- ==== Sys2Proof/Machine/Host.lean ====
section
/-! DEFINITION. The host port (R353 to R356), tenancy records (R357, R358), and the event unit's registers and messages
(R363 to R365). -/

namespace Sys2Proof.Machine

/-! ## Link, functions and their resets (R353, R354) -/

/-- Configuration space, MSI-X table and banked host registers of function `f` return to reset. -/
def State.hostReset (s : State) (f : Nat) : State :=
  { s with
    regs := s.regs.drop fun k => k / 2 ^ 32 = f + 1 || k / 2 ^ 32 = 257 + f
    msiPend := s.msiPend.filter fun p => p.1 ≠ f
    d3hot := s.d3hot &&& ~~~(1#4 <<< f) }

/-- Requests to host memory of the tenancies `p` end with TERR, and the jobs they belong to see it (R265, R354). -/
def State.endHostRequests (s : State) (p : Nat → Bool) : State :=
  let hit := fun (r : Req) => r.target = 2 && p r.ten
  let gone := (s.targets.flatMap (·.2) ++ s.inFlight).filter hit
  let keep := fun (l : List Req) => l.filter fun r => !hit r
  let ts := s.targets.map fun (e : Nat × List Req) => (e.1, keep e.2)
  let cut := fun (e : Nat × Engine) =>
    if 12 ≤ e.1 then (e.1, { e.2 with jobs := e.2.jobs.map fun j => if p j.ten then { j with cut := true } else j }) else e
  let s1 := { s with
    targets := ts.filter fun e => !e.2.isEmpty
    inFlight := keep s.inFlight
    engines := s.engines.map cut }
  (gone.foldl (fun a r => a.respond r .terr []) s1).releaseAll

/-- Requests the host bridge has made and that are under way are lost. -/
def State.dropInbound (s : State) : State :=
  let keep := fun (l : List Req) => l.filter fun r => r.init ≠ 0
  let ts := s.targets.map fun (e : Nat × List Req) => (e.1, keep e.2)
  let s1 := { s with
    targets := ts.filter fun e => !e.2.isEmpty
    holdback := s.holdback.put 0 [] []
    inFlight := keep s.inFlight
    hostReads := [] }
  (List.range 128).foldl (fun a p =>
    let c := a.ctl p
    if (c.queue ++ c.held).any (fun r => r.init = 0) then a.setCtl p { c with queue := keep c.queue, held := keep c.held }
    else a) s1

/-- The link goes down, or Hot Reset (R354). -/
def State.linkLost (s : State) : State :=
  let s1 := (List.range 4).foldl State.hostReset s
  ((s1.endHostRequests fun _ => true).dropInbound).raise 52

/-- LINK_DOWN (R354). -/
def execLinkDown (s : State) : Result := .next (if s.power.inReset then s else s.linkLost)

/-- HOST_LINK_UP (R366): `HOST.LINK` of every function shows the link, and source 52 is raised. -/
def execHostLinkUp (width : BitVec 4) (speed : BitVec 4) (s : State) : Result :=
  let w := width.toNat
  let ok := (w = 1 || w = 2 || w = 4 || w = 8) && 1 ≤ speed.toNat && speed.toNat ≤ 5
  .next <|
    if s.power.inReset || !ok then s
    else
      ((List.range 4).foldl (fun a f =>
        ((a.set hostLinkUp 1 f).set hostLinkWidth w f).set hostLinkSpeed speed.toNat f) s).raise 52

/-- FUNCTION_LEVEL_RESET (R354); `HOST.LINK` goes on showing the link. -/
def execFunctionLevelReset (f : Fin 4) (s : State) : Result :=
  .next <|
    if s.power.inReset then s
    else
      let link := s.reg hostLink f 0
      let s1 := ((s.hostReset f).setReg hostLink f 0 link).endHostRequests fun t => t = f.val
      let s2 := s1.stopCmd (48 + f)
      (List.range 16).foldl (fun a e => if a.get mvRingCfgTen e = f.val then a.set mvRingCfgEnable 0 e else a) s2

/-- D3HOT_ENTRY (R353). -/
def execD3hotEntry (f : Fin 4) (s : State) : Result :=
  .next (if s.power.inReset then s else { s with d3hot := s.d3hot ||| (1#4 <<< f.val) })

/-! ## Messages (R364) -/

/-- Pending messages whose status or enable has been cleared are dropped. -/
def State.pruneMsi (s : State) : State :=
  { s with msiPend := s.msiPend.filter fun p => s.evtOn p.2 && s.evtEnabled p.2 }

/-- Every live source routed to function `f` is posted. -/
def State.postAll (s : State) (f : Nat) : State :=
  (s.evtLive.filter fun i => s.evtClass i = 1 && s.evtTarget i = 1 && s.get evtCfgFn i = f).foldl State.msixPost s

/-- Pending messages of function `f` that no mask holds any more are sent. -/
def State.flushMsi (s : State) (f : Nat) : State :=
  let go := fun (p : Nat × Nat) => p.1 = f && s.msixOn f && !s.on pciMsixMask f && !s.msixMasked f (s.get evtCfgVec p.2)
  { s with
    msiPend := s.msiPend.filter fun p => !go p
    msiSent := s.msiSent ++ (s.msiPend.filter go).map fun p => (p.1, s.get evtCfgVec p.2) }

/-- MSIX_UNMASK (R364): a vector's Mask bit, or the Function Mask, is cleared. -/
def execMsixUnmask (f : Fin 4) (vec : Option (BitVec 9)) (s : State) : Result :=
  .next <|
    if s.power.inReset then s
    else match vec with
      | some v =>
        let j := 4 * v.toNat + 3
        (s.setReg msixEntry f j (setBits (s.reg msixEntry f j) 0 0 0)).flushMsi f
      | none => (s.set pciMsixMask 0 f).flushMsi f

/-- MSIX_ENABLE (R364): MSI-X Enable becomes 1, or the function returns to D0. -/
def execMsixEnable (f : Fin 4) (d0 : Bool) (s : State) : Result :=
  .next <|
    if s.power.inReset then s
    else if d0 then
      (if bit s.d3hot.toNat f then
        let s1 := { s with d3hot := s.d3hot &&& ~~~(1#4 <<< f.val) }
        if s1.msixOn f then s1.postAll f else s1
      else s)
    else if s.on pciMsixEnable f then s
    else
      let s1 := s.set pciMsixEnable 1 f
      if s1.msixOn f then s1.postAll f else s1

/-! ## Event registers (R363, R365) -/

/-- The listed sources of word `k` that function `f` may touch, as a mask (R365). -/
def State.evtMask (s : State) (f k : Nat) : Nat :=
  (List.range 32).foldl (fun m j =>
    if evtListed (32 * k + j) && (f = 0 || s.evtOwn (32 * k + j) = f) then m ||| 2 ^ j else m) 0

/-- A write of `EVT.STATw`. -/
def State.writeEvtStat (s : State) (w : Who) (k v : Nat) : State :=
  s.guarded w (evtStat.key k 0) true fun s =>
    (s.setReg evtStat k 0 (bitsOff (s.reg evtStat k 0) (v &&& s.evtMask w.fn k))).pruneMsi
where
  /-- A number without the bits of a mask. -/
  bitsOff (a m : Nat) : Nat := a - (a &&& m)

/-- A write of `EVT.ENw`: a source whose status is 1 is delivered when its enable rises (R363). -/
def State.writeEvtEn (s : State) (w : Who) (k v : Nat) : State :=
  s.guarded w (evtEn.key k 0) true fun s =>
    let m := s.evtMask w.fn k
    let old := s.reg evtEn k 0
    let new := (old - (old &&& m)) ||| (v &&& m) ||| (if k = 0 then 255 else 0)
    let s1 := (s.setReg evtEn k 0 new).pruneMsi
    let up := (List.range 32).filter fun j => bit new j && !bit old j && s1.evtOn (32 * k + j)
    up.foldl (fun a j =>
      (a.setReg evtStat k 0 (setBits (a.reg evtStat k 0) j j 0)).raise (32 * k + j)) s1

/-- EVT_ENABLE_WRITE (R363). -/
def execEvtEnableWrite (w : Who) (word : Fin 16) (v : Word) (s : State) : Result := .next (s.writeEvtEn w word v.toNat)

/-- A write of `EVT.RAISE`. -/
def State.writeEvtRaise (s : State) (w : Who) (v : Nat) : State :=
  s.guarded0 w (evtRaise.key 0 0) fun s => s.raise (v % 512)

/-- EVT_RAISE (R363). -/
def execEvtRaise (w : Who) (source : BitVec 9) (s : State) : Result := .next (s.writeEvtRaise w source.toNat)

/-- A write of `EVT.CFGi` (R322, R365): CLASS and TARGET of sources 0 to 7 stay, OWN is written only for sources 448 to
511, and another function than 0 writes its own sources and leaves its number in FN. -/
def State.writeEvtCfg (s : State) (w : Who) (i v : Nat) : State :=
  s.guarded w (evtCfg.key i 0) true fun s =>
    let fixed := decide (i ≤ 7)
    let put := fun (a : State) =>
      let a := if fixed then a else (a.set evtCfgClass (bits v 31 30) i).set evtCfgTarget (bits v 29 28) i
      a.set evtCfgVec (bits v 8 0) i
    if w.fn = 0 then
      let s1 := (put s).set evtCfgFn (bits v 25 24) i
      if 448 ≤ i then s1.set evtCfgOwn (bits v 17 16) i else s1
    else if s.evtOwn i = w.fn.val then (put s).set evtCfgFn w.fn i
    else s

/-! ## Tenancy records (R357, R358) -/

/-- A tenancy record. -/
structure TenRec where
  blocks  : Nat
  fbase   : Nat
  fcount  : Nat
  dbase   : Nat
  dsize   : Nat
  zeros   : Bool
  reserve : Nat
  assign  : Bool
  mire    : Bool

/-- The fields of 32 bytes (R357). -/
def parseTen (d : List Byte) : TenRec :=
  let f := dfield d
  { blocks := f 0 8, fbase := f 8 2, fcount := f 10 2, dbase := f 12 1, dsize := f 13 1
    zeros := decide (f 14 2 = 0 ∧ f 20 1 / 4 = 0 ∧ f 21 11 = 0 ∧ f 0 8 / 2 ^ 48 = 0 ∧ bits (f 16 4) 14 8 = 0)
    reserve := f 16 4, assign := bit (f 20 1) 0, mire := bit (f 20 1) 1 }

/-- Two ranges of units share one. -/
def rangesMeet (a n b m : Nat) : Bool := decide (0 < n ∧ 0 < m ∧ a < b + m ∧ b < a + n)

/-- The flows with EN = 1. -/
def State.enabledFlows (s : State) : List Nat :=
  ((s.mem.filter fun e => decide (0x019000000000 ≤ e.1 ∧ e.1 < 0x019000400000)).map
    fun e => (e.1 - 0x019000000000) / 16).eraseDups.filter fun f => (parseFlow (s.flowCtx f)).en

/-- The first condition of R358 that a record for tenancy `t` fails; 0 when it is accepted. -/
def State.tenRefusal (s : State) (t : Nat) (x : TenRec) : Nat :=
  let others := [1, 2, 3].filter fun u => u ≠ t
  let mask := s.get tenBlocksMask t
  let named := if x.assign then x.blocks else 0
  let inOld := fun f => decide (s.get tenFlowsBase t ≤ f / 64 ∧ f / 64 < s.get tenFlowsBase t + s.get tenFlowsCount t)
  let inNew := fun f => x.assign && decide (x.fbase ≤ f / 64 ∧ f / 64 < x.fbase + x.fcount)
  let moves := (List.range 48).filter fun i => bit mask i ≠ bit named i
  if t = 0 || !x.zeros || 4095 < x.fbase || 4096 < x.fcount || 143 < x.dbase || 144 < x.dsize then 1
  else if moves.any (fun i => (s.seq i).st ≠ .off)
      || (List.range 48).any (fun i => bit x.blocks i && others.any fun u => bit (s.get tenBlocksMask u) i) then 2
  else if 4096 < x.fbase + x.fcount || s.enabledFlows.any (fun f => inOld f ≠ inNew f) then 3
  else if 144 < x.dbase + x.dsize
      || others.any (fun u => rangesMeet x.fbase x.fcount (s.get tenFlowsBase u) (s.get tenFlowsCount u)
          || rangesMeet x.dbase x.dsize (s.get tenDramBase u) (s.get tenDramSize u)) then 4
  else if 1024 < s.reserved tenReserveEgr t (bits x.reserve 25 15) || 128 < s.reserved tenReserveDram t (bits x.reserve 7 0)
      || bits x.reserve 25 15 < bits x.reserve 31 26 then 5
  else if !x.assign && ((s.seq (48 + t)).st ≠ .off || (List.range 48).any (fun i => bit mask i && (s.seq i).st ≠ .off)
      || (List.range 16).any fun e => s.on mvRingCfgEnable e && s.get mvRingCfgTen e = t) then 6
  else 0

/-- What a release does besides returning the resources (R358). -/
def State.releaseTen (s : State) (t : Nat) : State :=
  let s1 := (s.set mireKeepCfgSlots 0 t).setNoteQ t {}
  let s2 := (List.range 64).foldl (fun a k => if a.get sealSlotTen k = t then a.eraseKey k else a) s1
  (List.range 256).foldl (fun a β =>
    if a.get beamCfgTen β = t then
      (((a.set beamCfgVolt 0 β).set beamCfgPower 0 β).set beamCfgWatch 0 β).set beamCfgTen 0 β else a) s2

/-- A record is applied to tenancy `t`, or refused with its code (R358). -/
def State.applyTen (s : State) (w : Who) (t : Nat) (d : List Byte) : State :=
  let x := parseTen d
  let code := s.tenRefusal t x
  let s0 := s.set tenStatResult code
  if code ≠ 0 then s0.reject ⟨w.path, 0⟩ (tenCmd.key 0 0)
  else
    let keep := fun v => if x.assign then v else 0
    let s1 := ((((s0.setReg tenBlocks t 0 (keep x.blocks)).setReg tenFlows t 0 (keep (x.fcount * 65536 + x.fbase))).setReg
      tenDram t 0 (keep (x.dsize * 65536 + x.dbase))).setReg tenReserve t 0 (keep x.reserve)).set tenStateAssigned (b2n x.assign) t
    let allow := s1.get mireCfgAllow
    let s2 := s1.set mireCfgAllow (if x.assign && x.mire then allow ||| 2 ^ t else allow - (allow &&& 2 ^ t))
    (if x.assign then s2 else s2.releaseTen t).raise 54

/-- A write of `TEN.CMD`: T = 0 does nothing. -/
def State.writeTenCmd (s : State) (w : Who) (v : Nat) : State :=
  s.guarded0 w (tenCmd.key 0 0) fun s =>
    if v % 4 = 0 then s
    else s.applyTen w (v % 4) ((List.range 8).flatMap fun i => leBytes 4 (s.get tenRecWord i))

/-- TEN_CMD (R358). -/
def execTenCmd (w : Who) (t : Fin 4) (s : State) : Result := .next (s.writeTenCmd w t)

/-! ## BAR2 (R356) -/

/-- Function `f` reaches the byte through BAR2. -/
def State.bar2Owns (s : State) (f a : Nat) : Bool :=
  match memKind a with
  | .dram _ | .block _ _ | .context _ _ _ | .imem _ _ | .weights _ _ _ _ | .pool _ | .table _ _ | .templates | .flows
  | .thresholds _ _ _ _ => s.owns f a
  | .cndInstr => s.cndOwner true (a - 0x01A000000000) = some f
  | .cndData => s.cndOwner false (a - 0x01A000100000) = some f
  | _ => false

/-- The bytes of a request through BAR2 all lie where function `f` reaches. -/
def State.bar2Allowed (s : State) (f a n : Nat) : Bool :=
  s.assigned f && (List.range n).all fun i => s.bar2Owns f (a + i)

/-- A request of the host waits for others: its memory holds it, or an accepted request touches its bytes (R237). -/
def State.hostBehind (s : State) (a : Nat) (acc : Access) : Bool :=
  let r : Req := { init := 0, id := 0, qos := 0, ten := 0, addr := a, target := 0, acc := acc, since := 0, left := 0 }
  s.rangeHeld a (accLen acc) || s.accepted.any fun y => y.meets r

/-- A read of the host that may go: answered at once, or through the fabric. A read never passes a posted write (R242). What
it reads of DRAM counts as its tenancy's use (R44). -/
def State.hostRead (s : State) (f a n : Nat) : State :=
  if s.postedOut || !s.hostReads.isEmpty then { s with hostReads := s.hostReads ++ [(f, a, n)] }
  else if s.hostBehind a (.read n) then s.request 0 1 0 f a (.read n)
  else
    let (s1, st, d) := (s.useDram f a n).readAccess a n
    { s1 with reply := some ⟨0, 0, st, d⟩ }

/-- BAR2_ACCESS (R242, R353, R356, R359): a refused read completes as Unsupported Request, a refused write is discarded with
its event; in STANDBY the memories answer with TERR (R350). Posted writes keep their order under one ID of the fabric, which
non-posted requests do not share. -/
def execBar2Access (f : Fin 4) (off : BitVec 33) (acc : Access) (s : State) : Result :=
  let a := s.get hostApbaseBase f * 2 ^ 30 + off.toNat
  let n := accLen acc
  let w : Who := ⟨.bar2, f⟩
  let ans := fun (t : State) (st : RespStatus) (d : List Byte) => { t with reply := some ⟨0, 0, st, d⟩ }
  .next <|
    if s.power.inReset || s.pwr = 3 || bit s.d3hot.toNat f || n = 0 || 4096 < n then s
    else match acc with
      | .read n =>
        if !s.bar2Allowed f a n then ans s .unsupported []
        else if s.pwr = 2 then ans s .terr []
        else s.hostRead f a n
      | .write d =>
        if !s.bar2Allowed f a n then s.reject w a
        else if s.pwr = 2 then s
        else if s.postedOut || s.hostBehind a acc then s.request 0 0 0 f a acc
        else ((s.useDram f a n).writeAccess w a d).1

end Sys2Proof.Machine
end

