-- ==== Sys2Proof/Machine/Timebase.lean ====
section
/-! DEFINITION. The timebase (R303 to R318): activity and qualification of the references, selection, switches, equal
ranks that disagree, phase steps, the states, and the PTP servo behind REFC. -/

namespace Sys2Proof.Machine

/-! ## References -/

/-- A reference besides its registers. -/
def State.ref (s : State) (x : Nat) : Ref := s.refs.at x {}

/-- `s` with another reference `x`. -/
def State.setRef (s : State) (x : Nat) (r : Ref) : State := { s with refs := s.refs.put x r {} }

/-- `s` with another timebase. -/
def State.setTb (s : State) (f : Timebase → Timebase) : State := { s with tb := f s.tb }

/-- Reference `x` is active (R305). -/
def State.refActive (s : State) (x : Nat) : Bool := s.on tbRefStatAct10m x && s.on tbRefStatActPps x

/-- Reference `x` is QUALIFIED. -/
def State.refQualified (s : State) (x : Nat) : Bool := decide (x < 3) && s.get tbRefStatQstate x = 2

/-- The qualification state changes (R306): `TB.STATUS.QUAL_CHG`. -/
def State.setQual (s : State) (x q : Nat) : State := (s.set tbRefStatQstate q x).tbFlag 3

/-- A reference is disqualified with a cause (R306). -/
def State.disqualify (s : State) (x cause : Nat) : State := (s.set tbRefStatCause cause x).setQual x 0

/-- The timebase state changes (R315): `TB.STATUS.STATE_CHG`. -/
def State.setTbState (s : State) (st : Nat) : State :=
  if s.get tbStateState = st then s else (s.set tbStateState st).tbFlag 0

/-- REF_STATE[2:0] (R317). -/
def State.refState (s : State) : Nat := if s.power.inReset then 7 else s.get tbStateState

/-! ## Selection (R309 to R312) -/

/-- The QUALIFIED reference with the lowest non-zero rank, the lower index first. -/
def State.bestRank (s : State) : Option Nat :=
  (List.range 3).foldl (fun (b : Option Nat) x =>
    let r := s.get tbRefCfgRank x
    if !s.refQualified x || r = 0 then b
    else match b with
      | none => some x
      | some y => if r < s.get tbRefCfgRank y then some x else b) none

/-- The preferred reference (R309). -/
def State.preferred (s : State) : Option Nat :=
  let m := s.get tbCfgMan
  if m = 3 then none else if s.refQualified m then some m else s.bestRank

/-- Two references are a pair that disagrees (R313). -/
def State.disagree (s : State) (x y : Nat) : Bool := s.tb.pairs.contains (min x y, max x y)

/-- Reference `x`'s latest POFS, extrapolated to the present with its FOFS (R311); a faster reference's boundaries come
earlier. -/
def State.pofsNow (s : State) (x : Nat) : Int :=
  s.getInt tbRefPofsPs x - s.getInt tbRefFofsValue x * (((s.cycle - (s.ref x).bound) * 800 : Nat) : Int) / 1000000000000

/-- No wait runs (R310). -/
def State.endWait (s : State) : State := (s.set tbStateWtr 0).set tbStateWtrLeft 0

/-- A switch to reference `x` is decided (R311). -/
def State.startSwitch (s : State) (x : Nat) : State :=
  (s.endWait.set tbStateSwitching 1).setTb fun t => { t with target := some (x, s.pofsNow x), manWait := none }

/-- No switch runs. -/
def State.endSwitch (s : State) : State :=
  (s.set tbStateSwitching 0).setTb fun t => { t with target := none, manWait := none }

/-- A reference is selected in FREERUN, LOST or HOLDOVER (R315): the phase is stepped at its next boundary, or absorbed
out of HOLDOVER. -/
def State.selectRef (s : State) (x : Nat) : State :=
  let hold := decide (s.get tbStateState = 3)
  let p := s.pofsNow x
  ((s.set tbStateCur x).setTb fun t =>
    { t with wide := true, inRun := 0, outRun := 0, stepNext := !hold, held := if hold then p else t.held }).setTbState 1

/-- No reference is left (R315): HOLDOVER, or LOST without a valid holdover value. -/
def State.loseRef (s : State) : State :=
  let s1 := s.endWait.set tbStateCur 3
  if s1.on tbStateHoldValid then (s1.setReg tbFreq 0 0 (s1.get tbHoldValue)).setTbState 3 else s1.setTbState 4

/-- The core, fabric or control domain runs on FIO. -/
def State.onFio (s : State) : Bool := s.get clkSrcDom % 8 ≠ 0

/-- The wait of R310 for reference `p`, or a switch at once with WTR = 0. -/
def State.awaitRef (s : State) (p : Nat) : State :=
  let n := s.get tbCfgWtr
  if n = 0 then s.startSwitch p
  else if s.on tbStateWtr && s.get tbStateWtrRef = p then s
  else ((s.set tbStateWtr 1).set tbStateWtrRef p).set tbStateWtrLeft n

/-- What the selector does while no switch runs (R309, R310): `forced` is the partner R313 hands the loop to. -/
def State.select (s : State) (forced : Option Nat) : State :=
  let cur := s.get tbStateCur
  if s.get tbCfgMan = 3 then s
  else if cur = 3 then
    (match s.preferred with
      | some p => if s.onFio then s else s.selectRef p
      | none => s)
  else if !s.refQualified cur then
    (match forced.orElse fun _ => s.preferred with
      | some p => s.startSwitch p
      | none => s.loseRef)
  else match s.preferred with
    | some p => if p = cur || !s.on tbCfgRevert || s.disagree p cur then s.endWait else s.awaitRef p
    | none => s.endWait

/-- The selector judges again; a switch whose target is disqualified is abandoned first (R312). -/
def State.judge (s : State) (forced : Option Nat := none) : State :=
  match s.tb.target with
  | some (x, _) => if s.refQualified x then s else (s.endSwitch.tbFlag 5).select forced
  | none => s.select forced

/-- The activity of reference `x` has changed from `was` (R305, R306). -/
def State.activity (s : State) (x : Nat) (was : Bool) : State :=
  let now := s.refActive x
  let q := s.get tbRefStatQstate x
  if now = was then s
  else if now then
    (if q = 0 && (s.ref x).partner.isNone then ((s.setRef x { s.ref x with gates := 0 }).setQual x 1) else s)
  else if q = 0 then s
  else
    ((s.disqualify x 1).setTb fun t => { t with pairs := t.pairs.filter fun (p : Nat × Nat) => p.1 ≠ x && p.2 ≠ x }).judge

/-- REF_ACTIVITY_CHANGE (R305). -/
def execRefActivityChange (x : Fin 2) (sg : RefSignal) (active : Bool) (s : State) : Result :=
  let f := match sg with | .tenMHz => tbRefStatAct10m | .pps => tbRefStatActPps
  .next (if s.power.inReset then s else (s.set f (b2n active) x).activity x (s.refActive x))

/-! ## Gates (R306, R313) -/

/-- QTIME (0 acts as 1). -/
def State.qtime (s : State) : Nat := max 1 (s.get tbPairQtime)

/-- What the end of a gate does to the qualification of an active reference. -/
def State.gateRef (s : State) (x : Nat) : State :=
  let f := (s.getInt tbRefFofsValue x).natAbs
  let r := s.ref x
  let q := s.get tbRefStatQstate x
  if !s.refActive x then s
  else if q = 0 then
    (match r.partner with
      | none => s
      | some y =>
        let near := (s.getInt tbRefFofsValue x - s.getInt tbRefFofsValue y).natAbs ≤ s.get tbPairPair * 10000
        if !near then s.setRef x { r with agree := 0 }
        else if s.qtime ≤ r.agree + 1 then ((s.setRef x { r with agree := 0, partner := none, gates := 0 }).setQual x 1)
        else s.setRef x { r with agree := r.agree + 1 })
  else if s.get tbQualReject * 10000 < f then s.disqualify x 2
  else if q = 2 then s
  else if s.get tbQualAccept * 10000 < f then s.setRef x { r with gates := 0 }
  else if s.qtime ≤ r.gates + 1 then ((s.setRef x { r with gates := 0 }).setQual x 2)
  else s.setRef x { r with gates := r.gates + 1 }

/-- References `x` < `y` at the end of a gate (R313): whether they disagree, and whom a third reference convicts. Second
part: the partner the current reference loses the loop to. -/
def State.gatePair (s : State) (x y : Nat) : State × Option Nat :=
  let rank := s.get tbRefCfgRank x
  let fx := s.getInt tbRefFofsValue x
  let fy := s.getInt tbRefFofsValue y
  let far := s.refQualified x && s.refQualified y && decide (rank ≠ 0 ∧ rank = s.get tbRefCfgRank y)
    && decide (s.get tbPairPair * 10000 < (fx - fy).natAbs)
  let rest := s.tb.pairs.filter fun p => p ≠ (x, y)
  if !far then (s.setTb fun t => { t with pairs := rest }, none)
  else
    let s1 := if s.tb.pairs.contains (x, y) then s else s.tbFlag 2
    let z := 3 - x - y
    if !s1.refQualified z then (s1.setTb fun t => { t with pairs := rest ++ [(x, y)] }, none)
    else
      let fz := s1.getInt tbRefFofsValue z
      let loser := if (fy - fz).natAbs < (fx - fz).natAbs then x else y
      let other := x + y - loser
      let s2 := (s1.disqualify loser 3).setRef loser { s1.ref loser with partner := some other, agree := 0 }
      (s2.setTb fun t => { t with pairs := rest }, if s1.get tbStateCur = loser then some other else none)

/-- FREQUENCY_GATE_END (R306, R308, R310, R313): offsets (REFC's is the servo's), qualification, disagreement, a second of the wait, selection. -/
def execFrequencyGateEnd (fofs0 fofs1 : Word) (s : State) : Result :=
  let put := fun (a : State) (x v : Nat) => if a.refActive x then a.setReg tbRefFofs x 0 v else a
  .next <|
    if s.power.inReset then s
    else
      let s1 := put (put (put s 0 fofs0.toNat) 1 fofs1.toNat) 2 (s.get ptpsFofsValue)
      let s2 := (List.range 3).foldl State.gateRef s1
      let (s3, f1) := s2.gatePair 0 1
      let (s4, f2) := s3.gatePair 0 2
      let (s5, f3) := s4.gatePair 1 2
      let s6 := if s5.on tbStateWtr then s5.set tbStateWtrLeft (s5.get tbStateWtrLeft - 1) else s5
      s6.judge ((f1.orElse fun _ => f2).orElse fun _ => f3)

/-- WTR_EXPIRY (R310): the wait ends and the switch is decided. -/
def execWtrExpiry (s : State) : Result :=
  .next (if s.on tbStateWtr && s.tb.target.isNone then s.startSwitch (s.get tbStateWtrRef) else s)

/-- REFERENCE_SWITCH_DONE (R311, R312): CUR names the target; a waiting MAN choice starts its own switch. -/
def execReferenceSwitchDone (s : State) : Result :=
  .next <|
    match s.tb.target with
    | none => s
    | some (x, p) =>
      let m := s.tb.manWait
      let s1 := ((s.endSwitch.set tbStateCur x).setTb fun t => { t with held := p, inRun := 0, outRun := 0, stepNext := false }).tbFlag 1
      match m with
      | some y => if s1.refQualified y && y ≠ x then s1.startSwitch y else s1.judge
      | none => s1.judge

/-- The current reference's boundary meets the loop (R315): phase error against the held POFS, lock and loss of lock;
the loop steers to a frequency the manual does not give. -/
def State.loopBoundary (s : State) (x : Nat) : State :=
  let p := s.getInt tbRefPofsPs x
  let s0 := if s.tb.stepNext then
      let a := ((s.tb.acc : Int) - p * 1000000000000) % (secondUnits : Nat)
      let s1 := (List.range 3).foldl (fun b y => b.setSat tbRefPofsPs (b.getInt tbRefPofsPs y - p) y) s
      s1.setTb fun t => { t with acc := a.toNat, held := 0, stepNext := false }
    else s
  let err := (s0.getInt tbRefPofsPs x - s0.tb.held).natAbs
  let lim := s0.get tbLockLimit * 1000
  let s1 := (s0.setReg tbFreq 0 0 (Config.freeWord s0.fresh).toNat).drawn
  if s1.get tbStateState = 1 then
    (if lim < err then s1.setTb fun t => { t with inRun := 0 }
     else if s1.tb.inRun < 7 then s1.setTb fun t => { t with inRun := t.inRun + 1 }
     else (s1.setTb fun t => { t with inRun := 0, outRun := 0, wide := false }).setTbState 2)
  else
    let s2 := (s1.setReg tbHold 0 0 (Config.freeWord s1.fresh).toNat).drawn
    if err ≤ 4 * lim then s2.setTb fun t => { t with outRun := 0 }
    else if s2.tb.outRun = 0 then s2.setTb fun t => { t with outRun := 1 }
    else (s2.setTb fun t => { t with inRun := 0, outRun := 0, wide := true }).setTbState 1

/-- REFERENCE_BOUNDARY (R304, R315): POFS of an active reference, with DELAY for REFA and REFB; the current one steers. -/
def execReferenceBoundary (x : Fin 3) (ofs : Word) (s : State) : Result :=
  .next <|
    if s.power.inReset || !s.refActive x then s
    else
      let s1 := if x.val = 2 then s else s.setSat tbRefPofsPs (ofs.toInt + s.getInt tbRefDelayPs x) x
      let s2 := s1.setRef x { s1.ref x with bound := s1.cycle }
      if s2.get tbStateCur = x.val && (s2.get tbStateState = 1 || s2.get tbStateState = 2) && s2.tb.target.isNone then
        s2.loopBoundary x
      else s2

/-- HOLD_VALID (R316): 68 s in LOCKED. -/
def execHoldValid (mean : Word) (s : State) : Result :=
  .next (if s.get tbStateState = 2 then (s.setReg tbHold 0 0 mean.toNat).set tbStateHoldValid 1 else s)

/-- The timebase is LOST: a domain has moved to FIO (R315, R321). -/
def State.tbLost (s : State) : State := (s.endWait.endSwitch.set tbStateCur 3).setTbState 4

/-! ## Registers of the timebase -/

/-- A write of `TB.CFG` (R309, R310, R315). -/
def State.writeTbCfg (s : State) (w : Who) (v : Nat) : State :=
  s.guarded0 w (tbCfg.key 0 0) fun s =>
    let s1 := s.writeFieldsOf tbCfg 0 0 v
    let m := s1.get tbCfgMan
    let cur := s1.get tbStateCur
    if m = 3 then
      ((s1.endWait.endSwitch.set tbStateCur 3).setReg tbFreq 0 0 (s1.get tbFreeOfsValue)).setTbState 0
    else match s1.tb.target with
      | some (x, _) =>
        if s1.refQualified m && m ≠ x then s1.setTb fun t => { t with manWait := some m } else s1.judge
      | none => if s1.refQualified m && m ≠ cur && cur ≠ 3 then s1.startSwitch m else s1.judge

/-- TB_CFG_WRITE (R309). -/
def execTbCfgWrite (w : Who) (v : Word) (s : State) : Result := .next (s.writeTbCfg w v.toNat)

/-- A write of `TB.QUAL` (R307). -/
def State.writeTbQual (s : State) (w : Who) (v : Nat) : State :=
  s.guarded0 w (tbQual.key 0 0) fun s =>
    if bits v 31 16 ≤ bits v 15 0 then s.reject w (tbQual.key 0 0) else s.setReg tbQual 0 0 v

/-- TB_QUAL_WRITE (R307). -/
def execTbQualWrite (w : Who) (v : Word) (s : State) : Result := .next (s.writeTbQual w v.toNat)

/-- A write of `TB.PSTEP` (R314). -/
def State.writePstep (s : State) (w : Who) (v : Nat) : State :=
  s.guarded0 w (tbPstep.key 0 0) fun s =>
    let rem := s.getInt tbPstepRemRem + sext 32 v
    if rem < -2147483648 ∨ 2147483647 < rem then s.reject w (tbPstep.key 0 0)
    else
      let u := s.tb.step + sext 32 v * 1000000000000
      let s1 := (s.setTb fun t => { t with step := u }).setInt tbPstepRemRem (stepPs u)
      if u = 0 && s.tb.step ≠ 0 then s1.tbFlag 4 else s1

/-- TB_PSTEP_WRITE (R314). -/
def execTbPstepWrite (w : Who) (v : Word) (s : State) : Result := .next (s.writePstep w v.toNat)

/-- PSTEP_DONE (R314): the time the remaining step takes has passed. -/
def execPstepDone (s : State) : Result :=
  .next (if s.power.inReset || s.tb.step = 0 then s else s.elapse (4 * ((s.tb.step.natAbs + 3199999) / 3200000)))

/-- A write of `TB.FREE_OFS`: in FREERUN it is the steering (R303, R315). -/
def State.writeFreeOfs (s : State) (w : Who) (v : Nat) : State :=
  s.guarded0 w (tbFreeOfs.key 0 0) fun s =>
    let s1 := s.setReg tbFreeOfs 0 0 v
    if s1.get tbStateState = 0 then s1.setReg tbFreq 0 0 v else s1

/-! ## The PTP servo (R318) -/

/-- The servo's state changes: `TB.STATUS.PTPS_STATE`, and REFC is active while it is LOCKED (R305). -/
def State.setServo (s : State) (st : Nat) : State :=
  if s.get ptpsStateState = st then s
  else
    let was := s.refActive 2
    let on := b2n (decide (st = 2))
    ((((s.set ptpsStateState st).tbFlag 6).set tbRefStatAct10m on 2).set tbRefStatActPps on 2).activity 2 was

/-- POFS of REFC equals FILT. -/
def State.servoPofs (s : State) : State := s.setSat tbRefPofsPs (s.getInt ptpsFiltOfs * 1000 / 65536) 2

/-- An accepted measurement: FILT and FOFS as the filter gives them, which the manual leaves open, and the states. -/
def State.servoTake (s : State) (t2 : Nat) (ofs : BitVec 64) : State :=
  let s1 := ((s.setInt ptpsFiltOfs (Config.ptpFilter s.fresh ofs)).drawn.setTb fun t => { t with sLast := some t2 }).servoPofs
  let s2 := (s1.setReg ptpsFofs 0 0 (Config.freeWord s1.fresh).toNat).drawn
  let f := (s2.getInt ptpsFiltOfs).natAbs
  let lim := max 1 (s2.get ptpsCfgLimit) * 655360
  match s2.get ptpsStateState with
  | 1 =>
    if lim < f then s2.setTb fun t => { t with sIn := 0 }
    else if s2.tb.sIn < 7 then s2.setTb fun t => { t with sIn := t.sIn + 1 }
    else (s2.setTb fun t => { t with sIn := 0, sOut := 0, sWide := false }).setServo 2
  | 2 =>
    if f ≤ 4 * lim then s2.setTb fun t => { t with sOut := 0 }
    else if s2.tb.sOut = 0 then s2.setTb fun t => { t with sOut := 1 }
    else (s2.setTb fun t => { t with sIn := 0, sOut := 0 }).setServo 1
  | _ => (s2.setTb fun t => { t with sIn := 0, sOut := 0, sWide := true }).setServo 1

/-- A write of `PTPS.OFS` commits a measurement. -/
def State.writePtpsOfs (s : State) (w : Who) (v : Nat) : State :=
  s.guarded0 w (ptpsOfs.key 0 0) fun s =>
    let t2 := stampNs (s.get ptpsT2Stamp)
    let stale := (match s.tb.sLast with | some p => decide (t2 ≤ p) | none => false)
      || decide (t2 + 1000000000 < stampNs s.todStamp)
    if !s.on ptpsCfgEn || !s.egrUp 0 then s
    else if stale then s.tbFlag 7
    else s.servoTake t2 (BitVec.ofNat 64 v)

/-- PTP_MEASUREMENT (R318). -/
def execPtpMeasurement (w : Who) (ofs : BitVec 64) (s : State) : Result :=
  .next (s.writePtpsOfs w ofs.toNat)

/-- PTPS_MEAS_TIMEOUT (R318). -/
def execPtpsMeasTimeout (s : State) : Result :=
  .next (if s.get ptpsStateState = 1 || s.get ptpsStateState = 2 then s.setServo 3 else s)

/-- A write of `PTPS.CFG`: EN = 0 clears the filter. -/
def State.writePtpsCfg (s : State) (w : Who) (v : Nat) : State :=
  s.guarded0 w (ptpsCfg.key 0 0) fun s =>
    let s1 := s.writeFieldsOf ptpsCfg 0 0 v
    if bit v 31 then s1
    else
      let s2 := ((s1.setReg ptpsFilt 0 0 0).setReg ptpsFofs 0 0 0).servoPofs
      (s2.setTb fun t => { t with sIn := 0, sOut := 0 }).setServo 0

/-- PTPS_CFG_WRITE (R318). -/
def execPtpsCfgWrite (w : Who) (v : Word) (s : State) : Result := .next (s.writePtpsCfg w v.toNat)

/-- HOLDMAX_EXPIRY (R315, R318): HOLDMAX minutes in HOLDOVER, of the timebase or of the servo. -/
def execHoldmaxExpiry (servo : Bool) (s : State) : Result :=
  .next <|
    if s.get tbLockHoldmax = 0 then s
    else if servo then (if s.get ptpsStateState = 3 then s.setServo 4 else s)
    else if s.get tbStateState = 3 then s.setTbState 4
    else s

end Sys2Proof.Machine
end

