-- ==== Sys2Proof/Machine/Clocks.lean ====
section
/-! DEFINITION. Clock sources, monitors and fall-back (R319 to R323), and the gating of units (R324, R325). -/

namespace Sys2Proof.Machine

/-! ## Sources (R319 to R323) -/

/-- The bit of a source in `CLK.MONSTAT`. -/
def monBit (c : ClkSrc) : Nat :=
  match c with
  | .xtal1 => 0
  | .xtal2 => 1
  | .root => 2
  | .fio => 3
  | .sio => 4
  | .egress p => 5 + p
  | .memory h => 7 + h
  | .pcie => 11

/-- The bit of a source in `CLK.STATUS`. -/
def monStatus (c : ClkSrc) : Nat :=
  match c with
  | .xtal1 => 0
  | .xtal2 => 1
  | .root => 2
  | .fio => 3
  | .sio => 4
  | .egress _ => 5
  | .memory _ => 6
  | .pcie => 7

/-- ROOT_PLL_LOCK (R320): the first lock after a reset moves the four domains from FIO to the root PLL. -/
def execRootPllLock (s : State) : Result :=
  .next <|
    if s.power.inReset || !s.power.rootWait || bit (s.get clkMonstatFail) 2 then s
    else { s.set clkSrcDom 0 with power := { s.power with rootWait := false } }

/-- The four domains fall back to FIO (R321); `stopped` forces the switch (R323). The timebase is LOST. -/
def State.rootFail (s : State) (stopped : Bool) : State :=
  let s1 := { s with power := { s.power with rootWait := false } }
  if s1.get clkSrcDom = 15 then s1.tbLost
  else
    let s2 := s1.set clkSrcDom 15
    (if stopped then s2.clkFlag 8 else s2).tbLost

/-- Tower `h`'s controllers fall back to FIO (R321): its contents are lost, and what it was asked draws TERR. -/
def State.towerFail (s : State) (h : Nat) (stopped : Bool) : State :=
  let was := bit (s.get clkSrcMem) h
  let s1 := (s.set clkSrcMem (s.get clkSrcMem ||| 2 ^ h)).set memStatPll (s.get memStatPll - (s.get memStatPll &&& 2 ^ h))
  let s2 := s1.lose fun a => decide (a < dramEnd) && dramPc a / 32 = h
  let s3 := (List.range 32).foldl (fun a i =>
    let p := 32 * h + i
    let c := a.ctl p
    if c.queue.isEmpty && c.held.isEmpty then a
    else { a.setCtl p { c with queue := [], held := [] } with inFlight := a.inFlight ++ (c.queue ++ c.held).map fun r => { r with terr := true } }) s2
  if stopped && !was then s3.clkFlag 8 else s3

/-- CLOCK_MONITOR_FAIL (R321, R328): the failure's bits, and what the block does about it. -/
def execClockMonitorFail (src : ClkSrc) (stopped : Bool) (s : State) : Result :=
  .next <|
    if s.power.inReset || bit (s.get clkMonstatFail) (monBit src) then s
    else
      let s1 := (s.set clkMonstatFail (s.get clkMonstatFail ||| 2 ^ monBit src)).clkFlag (monStatus src)
      match src with
      | .root => s1.rootFail stopped
      | .memory h => s1.towerFail h stopped
      | .egress p => s1.settleEgr p
      | .pcie => s1.linkLost
      | .sio => { s1.rvFlag 15 with power := { s1.power with fioTerm := true } }
      | .xtal1 | .xtal2 | .fio => s1

/-- CLOCK_SOURCE_GOOD (R321). -/
def execClockSourceGood (src : ClkSrc) (s : State) : Result :=
  .next <|
    if !bit (s.get clkMonstatFail) (monBit src) then s
    else
      let s1 := s.set clkMonstatFail (s.get clkMonstatFail - 2 ^ monBit src)
      match src with
      | .egress p => s1.settleEgr p
      | _ => s1

/-- A write of `CLK.CMD` (R322): RESTORE moves every domain whose source is good back; with none it is refused. -/
def State.writeClkCmd (s : State) (w : Who) (v : Nat) : State :=
  s.guarded0 w (clkCmd.key 0 0) fun s =>
    let fail := s.get clkMonstatFail
    let root := s.get clkSrcDom ≠ 0 && !bit fail 2
    let mem := (List.range 4).filter fun h => bit (s.get clkSrcMem) h && !bit fail (7 + h)
    if !bit v 0 then s
    else if !root && mem.isEmpty then s.reject w (clkCmd.key 0 0)
    else
      let s1 := if root then { s.set clkSrcDom 0 with power := { s.power with rootWait := false } } else s
      mem.foldl (fun a h => a.set clkSrcMem (a.get clkSrcMem - 2 ^ h)) s1

/-- CLOCK_RESTORE (R322). -/
def execClockRestore (w : Who) (s : State) : Result := .next (s.writeClkCmd w 1)

/-! ## Gating (R324, R325) -/

/-- A gate of unit `u` is accepted: every block concerned OFF, HALTED or FAULT, the ingest port DARK, the egress port
OFF; units 62 and 63 are invalid. -/
def State.gateAllowed (s : State) (u : Nat) : Bool :=
  if u < 48 then (s.seq u).st.idle
  else if u < 52 then (List.range 12).all fun b => (s.seq (12 * (u - 48) + b)).st.idle
  else if u < 60 then s.pstate (u - 52) = 0
  else if u < 62 then s.get egrpStatState (u - 60) = 0
  else false

/-- The requests under way that unit `u` makes or is asked. -/
def State.unitRequests (s : State) (u : Nat) : List Req :=
  s.accepted.filter fun r => (gateUnits r.addr).contains u || initUnit r.init = some u

/-- The gate request in hand ends with a result. -/
def State.gateEnd (s : State) (result : Nat) : State :=
  { (s.set clkGatestatBusy 0).set clkGatestatResult result with gating := none }

/-- Unit `u`'s clock is stopped or runs. -/
def State.setGated (s : State) (u : Nat) (on : Bool) : State :=
  s.set clkGatedMask (setBits (s.get clkGatedMask) u u (b2n on))

/-- A forced gate (R325): requests addressed to the unit end with TERR and are counted. -/
def State.forceGate (s : State) (u : Nat) : State :=
  let hit := fun (r : Req) => (gateUnits r.addr).contains u
  let gone := s.accepted.filter hit
  let ts := s.targets.map fun e => (e.1, e.2.filter fun r => !hit r)
  let s1 := { s with targets := ts.filter fun e => !e.2.isEmpty, inFlight := s.inFlight.filter fun r => !hit r }
  let s3 := (gone.foldl (fun a r => a.respond r .terr []) s1).releaseAll
  (((s3.setGated u true).gateEnd 2).set clkGatestatEnded (min 4095 gone.length)).clkFlag 10

/-- A write of `CLK.GATE`: a gate or forced gate outside its conditions, or while another unit's gate is pending, is
refused; an ungate of the unit whose gate is pending cancels it. -/
def State.writeClkGate (s : State) (w : Who) (v : Nat) : State :=
  s.guarded0 w (clkGate.key 0 0) fun s =>
    let op := bits v 31 30
    let u := bits v 5 0
    let refuse := s.reject w (clkGate.key 0 0)
    let s1 := s.set clkGatestatUnit u
    if op = 0 then s
    else if op = 2 then
      (if 62 ≤ u then refuse
       else if s.gating = some u then s1.gateEnd 0
       else (s1.setGated u false).set clkGatestatResult 0)
    else if !s.gateAllowed u || (s.gating.isSome && s.gating ≠ some u) then refuse
    else if op = 3 then s1.forceGate u
    else { s1.set clkGatestatBusy 1 with gating := some u }

/-- CLOCK_GATE (R324). -/
def execClockGate (w : Who) (unit : BitVec 6) (s : State) : Result := .next (s.writeClkGate w (2 ^ 30 + unit.toNat))

/-- CLOCK_UNGATE (R324). -/
def execClockUngate (w : Who) (unit : BitVec 6) (s : State) : Result := .next (s.writeClkGate w (2 ^ 31 + unit.toNat))

/-- CLOCK_FORCED_GATE (R325). -/
def execClockForcedGate (w : Who) (unit : BitVec 6) (s : State) : Result :=
  .next (s.writeClkGate w (2 ^ 31 + 2 ^ 30 + unit.toNat))

/-- GATE_IDLE_STOP (R324): the unit has nothing under way, and its clock stops. -/
def execGateIdleStop (s : State) : Result :=
  .next <|
    match s.gating with
    | some u => if (s.unitRequests u).isEmpty then (s.setGated u true).gateEnd 0 else s
    | none => s

/-- GATE_REFUSED (R324): still busy after 4,096 fabric cycles. -/
def execGateRefused (s : State) : Result :=
  .next <|
    match s.gating with
    | some _ => (s.gateEnd 1).clkFlag 9
    | none => s

end Sys2Proof.Machine
end

