-- ==== Sys2Proof/Machine/Jtag.lean ====
section
/-! DEFINITION. The JTAG port (R382). No command of the table clocks it; it reaches nothing but itself. -/

namespace Sys2Proof.Machine

/-- The controller's next state at a rising edge of TCK, by TMS (IEEE 1149.1; log entry 127). -/
def TapState.next (x : TapState) (tms : Bool) : TapState :=
  match x, tms with
  | .testLogicReset, true => .testLogicReset
  | .testLogicReset, false => .runTestIdle
  | .runTestIdle, true => .selectDr
  | .runTestIdle, false => .runTestIdle
  | .selectDr, true => .selectIr
  | .selectDr, false => .captureDr
  | .captureDr, true => .exit1Dr
  | .captureDr, false => .shiftDr
  | .shiftDr, true => .exit1Dr
  | .shiftDr, false => .shiftDr
  | .exit1Dr, true => .updateDr
  | .exit1Dr, false => .pauseDr
  | .pauseDr, true => .exit2Dr
  | .pauseDr, false => .pauseDr
  | .exit2Dr, true => .updateDr
  | .exit2Dr, false => .shiftDr
  | .updateDr, true => .selectDr
  | .updateDr, false => .runTestIdle
  | .selectIr, true => .testLogicReset
  | .selectIr, false => .captureIr
  | .captureIr, true => .exit1Ir
  | .captureIr, false => .shiftIr
  | .shiftIr, true => .exit1Ir
  | .shiftIr, false => .shiftIr
  | .exit1Ir, true => .updateIr
  | .exit1Ir, false => .pauseIr
  | .pauseIr, true => .exit2Ir
  | .pauseIr, false => .pauseIr
  | .exit2Ir, true => .updateIr
  | .exit2Ir, false => .shiftIr
  | .updateIr, true => .selectDr
  | .updateIr, false => .runTestIdle

/-- One TCK: in Test-Logic-Reset BYPASS is selected, as there is no device identification register, and Update-IR puts the
instruction that has been shifted in into force (R382). -/
def Jtag.tck (j : Jtag) (tms : Bool) (shifted : TapInstr) : Jtag :=
  let x := j.tap.next tms
  ⟨x, match x with
    | .testLogicReset => .bypass
    | .updateIr => shifted
    | _ => j.instr⟩

/-- One TCK of the chip's JTAG port: no register, memory or key is reached (R382). -/
def State.tck (s : State) (tms : Bool) (shifted : TapInstr) : State := { s with jtag := s.jtag.tck tms shifted }

end Sys2Proof.Machine
end

