-- ==== Sys2Proof/Machine/Peat.lean ====
section
/-! DEFINITION. The Peat store (R338 to R343) and the saved-state record the holder keeps in it (R330). -/

namespace Sys2Proof.Machine

/-! ## Halves and records (R338, R339) -/

/-- The active half. -/
def Peat.half (p : Peat) : PeatHalf := if p.active then p.half1 else p.half0

/-- `p` with another active half. -/
def Peat.setHalf (p : Peat) (h : PeatHalf) : Peat := if p.active then { p with half1 := h } else { p with half0 := h }

/-- The store is empty: neither superblock holds a valid COMMIT. -/
def Peat.empty (p : Peat) : Bool := p.half0.gen.isNone && p.half1.gen.isNone

/-- The bytes of a record of `n` value bytes: header, value padded to 4 bytes, CRC. -/
def recordBytesLen (n : Nat) : Nat := 24 + (n + 3) / 4 * 4

/-- The length of a record's value. -/
def PeatRec.len (r : PeatRec) : Nat := match r.value with | some v => v.length | none => 0

/-- The bytes of a journal, each record starting on an 8-byte boundary. -/
def journalBytes (l : List PeatRec) : Nat := (l.map fun r => (recordBytesLen r.len + 7) / 8 * 8).sum

/-- The latest record of a key. -/
def latestRec (l : List PeatRec) (key : Nat) : Option PeatRec := (l.filter fun r => r.key = key).getLast?

/-- The records that give a key its value, in the order they were written. -/
def liveRecs (l : List PeatRec) : List PeatRec := l.filter fun r => r.value.isSome && latestRec l r.key = some r

/-- The value of a key (R339). -/
def Peat.value (p : Peat) (key : Nat) : Option (List Byte) :=
  if p.half.gen.isNone then none else (latestRec p.half.journal key).bind fun r => r.value

/-- At mount the half with the later GEN becomes active (R339). -/
def Peat.mount (p : Peat) : Peat :=
  match p.half0.gen, p.half1.gen with
  | some a, some b => { p with active := decide (0 < (b + 2 ^ 32 - a) % 2 ^ 32 ∧ (b + 2 ^ 32 - a) % 2 ^ 32 < 2 ^ 31) }
  | none, some _ => { p with active := true }
  | _, none => { p with active := false }

/-- `s` with another Peat store, `PEAT.USE` following. -/
def State.setPeat (s : State) (p : Peat) : State :=
  { s with peat := p }.setReg peatUse 0 0 (journalBytes p.half.journal)

/-- Compaction (R340): live records into the inactive half, then its COMMIT, which makes it active. -/
def State.compact (s : State) : State :=
  let p := s.peat
  let h : PeatHalf := ⟨p.half.gen.map fun g => (g + 1) % 2 ^ 32, liveRecs p.half.journal⟩
  let p1 : Peat := { p with active := !p.active, torn := false, seq := p.seq + 1 }
  let p1 := p1.setHalf h
  (s.setPeat p1).rvFlag 11

/-- What comes before any write: an empty store is formatted (R339), a torn tail compacted away. -/
def State.readyPeat (s : State) : State :=
  if s.peat.empty then
    s.setPeat { s.peat with half0 := ⟨some 0, []⟩, active := false, torn := false, seq := s.peat.seq + 1 }
  else if s.peat.torn then s.compact else s

/-- A record is appended, and the journal compacted once it reaches 75 % of the half (R340). -/
def State.appendPeat (s : State) (key : Nat) (v : Option (List Byte)) : State :=
  let s1 := s.readyPeat
  let p : Peat := { s1.peat with seq := s1.peat.seq + 1 }
  let r : PeatRec := ⟨key, p.seq, v⟩
  let s2 := s1.setPeat (p.setHalf { p.half with journal := p.half.journal ++ [r] })
  if 12579840 ≤ journalBytes s2.peat.half.journal then s2.compact else s2

/-! ## Keys (R342) -/

/-- A key you may write. -/
def keyWritable (k : Nat) : Bool :=
  k = 3 || (0x100 ≤ k && k ≤ 0x106) || (0x10000 ≤ k && k < 0x10000 + 131) || (0x20000 ≤ k && k < 0x20000 + 48)
    || (0x20100 ≤ k && k < 0x20104) || (0x21000 ≤ k && k < 0x21000 + 128) || (0x22000 ≤ k && k < 0x22000 + 238)
    || (0x30000 ≤ k && k < 0x40000) || 0x80000000 ≤ k

/-- The live data with a record of `n` value bytes more. -/
def State.liveBytes (s : State) (n : Nat) : Nat :=
  ((liveRecs s.peat.half.journal).map fun r => recordBytesLen r.len).sum + recordBytesLen n

/-! ## The saved-state record (R330, R332) -/

/-- No reeve holds the lease. -/
def State.noHolder (s : State) : Bool := 2 ≤ s.get rvLeaseHolder

/-- What the record holds now. -/
def State.saved (s : State) : Saved :=
  ⟨s.get pwrStateState, s.reg thermCfg 0 0, s.reg pwrWake 0 0, s.power.rails⟩

/-- The mailbox takes its copy. -/
def State.toMailbox (s : State) : State := { s with power := { s.power with mailbox := some s.saved } }

/-- The holder writes the record and the mailbox copy. -/
def State.saveState (s : State) : State :=
  let s1 := (s.appendPeat 1 (some ((Config.savedBytes s.fresh).take 256))).drawn
  { s1 with peat := { s1.peat with saved := some s.saved } }.toMailbox

/-- No reeve drives the Peat bus or PMBus: none holds the lease, or VAON_IO is not within its band (R333, R375). -/
def State.busIdle (s : State) : Bool := s.noHolder || !s.power.vaonIo

/-- SAVED_STATE_WRITE (R330): a write that fails sets SAVE_FAIL. -/
def execSavedStateWrite (ok : Bool) (s : State) : Result :=
  .next (if s.busIdle then s else if ok then s.saveState else (s.toMailbox).rvFlag 7)

/-- HOLDOVER_HISTORY (R342): `TB.HOLD` and the TOD seconds, to key 0x0000_0002. -/
def execHoldoverHistory (s : State) : Result :=
  .next <|
    if s.busIdle || s.power.inReset || !s.on tbStateHoldValid then s
    else s.appendPeat 2 (some (leBytes 4 (s.get tbHoldValue) ++ leBytes 8 s.tb.sec))

/-! ## Host access (R343) -/

/-- Byte `i` of `PEAT.DATA`. -/
def State.peatByte (s : State) (i : Nat) : Byte := (s.peat.data.at i none).getD (Config.peatDataReset s.peat.draw i)

/-- Bytes put into `PEAT.DATA` from byte `i` on. -/
def Peat.putData (p : Peat) (i : Nat) (l : List Byte) : Peat :=
  match l with
  | [] => p
  | b :: r => Peat.putData { p with data := p.data.put i (some b) none } (i + 1) r

/-- A write to KEY, LEN or DATA, which BUSY refuses. -/
def State.writePeatReg (s : State) (w : Who) (off : Nat) (f : State → State) : State :=
  s.guarded0 w off fun s => if s.on peatStatBusy then s.reject w off else f s

/-- A write of `PEAT.CMD`. -/
def State.writePeatCmd (s : State) (w : Who) (v : Nat) : State :=
  s.writePeatReg w (peatCmd.key 0 0) fun s =>
    let op := bits v 2 0
    if op = 0 || 4 < op then s else { s.set peatStatBusy 1 with peat := { s.peat with cmd := some op } }

/-- PEAT_GET (R343). -/
def execPeatGet (w : Who) (s : State) : Result := .next (s.writePeatCmd w 1)

/-- PEAT_SET (R340). -/
def execPeatSet (w : Who) (s : State) : Result := .next (s.writePeatCmd w 2)

/-- PEAT_DELETE (R340). -/
def execPeatDelete (w : Who) (s : State) : Result := .next (s.writePeatCmd w 3)

/-- PEAT_COMPACT (R340). -/
def execPeatCompact (w : Who) (s : State) : Result := .next (s.writePeatCmd w 4)

/-- A flash program or erase failed (R340). -/
def State.peatFault (s : State) : State := s.rvFlag 12

/-- The holder carries out command `op`: the result, 0 OK, 1 NOTFOUND, 2 FULL, 3 DENIED, 4 BADLEN, 5 FAULT. -/
def State.doPeat (s : State) (op : Nat) (ok : Bool) : State × Nat :=
  let key := s.get peatKeyValue
  let len := s.get peatLenValue
  match op with
  | 1 =>
    match s.peat.value key with
    | none => (s, 1)
    | some v => ({ s.setReg peatLen 0 0 v.length with peat := s.peat.putData 0 v }, 0)
  | 2 =>
    if !keyWritable key then (s, 3)
    else if 4064 < len then (s, 4)
    else if 8388608 < s.liveBytes len then (s, 2)
    else if !ok then ({ s with peat := { s.peat with torn := true } }.peatFault, 5)
    else (s.appendPeat key (some ((List.range len).map s.peatByte)), 0)
  | 3 =>
    if !keyWritable key then (s, 3)
    else if !ok then ({ s with peat := { s.peat with torn := true } }.peatFault, 5)
    else (s.appendPeat key none, 0)
  | _ =>
    if !ok then (s.peatFault, 5)
    else ((if s.peat.empty then s.readyPeat else s).compact, 0)

/-- PEAT_COMMAND_DONE (R343): acknowledged or refused; between expiry and TAKE, and while VAON_IO is out of its band,
commands stay BUSY (R333, R375). -/
def execPeatCommandDone (flashOk : Bool) (s : State) : Result :=
  .next <|
    match s.peat.cmd with
    | none => s
    | some op =>
      if s.busIdle then s
      else
        let (s1, res) := s.doPeat op flashOk
        ({ s1 with peat := { s1.peat with cmd := none } }.set peatStatBusy 0).set peatStatResult res

end Sys2Proof.Machine
end

