-- ==== Sys2Proof/Machine/Resets.lean ====
section
/-! DEFINITION. Resets and what survives them (R346 to R348, R351), and the calibration values a release restores
(R344, R345). -/

namespace Sys2Proof.Machine

/-! ## Calibration (R344, R345) -/

/-- A signed item of the table of R344. -/
def calSigned (i : Nat) : Bool := (104 ≤ i && i ≤ 119) || 122 ≤ i

/-- A replaceable item. -/
def calReplaceable (i : Nat) : Bool := (88 ≤ i && i ≤ 103) || i = 120 || i = 121

/-- An item's effective range. -/
def calRange (i : Nat) : Int × Int := if i < 88 then (0, 63) else if calSigned i then (-128, 127) else (0, 255)

/-- The effective value of item `i` under a value of `CAL.USERi`, and whether CAL_CLAMP or CAL_REJECT is set (R345). -/
def calEffective (i u : Nat) : Int × Bool × Bool :=
  let fac : Int := if calSigned i then sext 16 (Config.calFactory i).toNat else (Config.calFactory i).toNat
  let (lo, hi) := calRange i
  let kind := bits u 31 30
  let clamp := fun (x : Int) => (clampInt lo hi x, decide (clampInt lo hi x ≠ x), false)
  if kind = 0 then (fac, false, false)
  else if kind = 1 then clamp (fac + sext 16 u)
  else if kind = 2 && calReplaceable i then clamp (bits u 15 0)
  else (fac, false, true)

/-- `CAL.USERi` takes a value. -/
def State.putCal (s : State) (i u : Nat) : State :=
  let s1 := s.writeFieldsOf calUser i 0 u
  let (_, clamp, refused) := calEffective i u
  let s2 := if clamp then s1.rvFlag 14 else s1
  if refused then s2.rvFlag 13 else s2

/-- What `CAL.EFFi` reads. -/
def State.calEff (s : State) (i : Nat) : Nat := toBits 16 (calEffective i (s.reg calUser i 0)).1

/-- A write of `CAL.USERi`. -/
def State.writeCal (s : State) (w : Who) (i v : Nat) : State := s.guarded0 w (calUser.key i 0) fun s => s.putCal i v

/-- CAL_USER_WRITE (R345). -/
def execCalUserWrite (w : Who) (i : Fin 131) (v : Word) (s : State) : Result := .next (s.writeCal w i v.toNat)

/-! ## CHIP reset and power loss (R346, R351) -/

/-- A register keeps its value over a CHIP reset; over a power-down (`deep`) the error logs' registers and the RWS
fields return to their reset values too. -/
def regKept (deep : Bool) (k : Nat) : Bool :=
  match findReg k with
  | some h =>
    h.reg.dom = .por && !(deep && [intLogStat, intFirst, intCecnt, blkRetire, rgnBlkret].any fun r => r.base = h.reg.base)
  | none => false

/-- The cell register sets of every region lose their contents. -/
def State.loseCells (s : State) : State :=
  { s with cells := [], fresh := s.fresh + 4
           cellLost := (List.range 4).foldl (fun l r => Sparse.put l r (s.fresh + 1 + r) 0) [] }

/-- A CHIP reset is asserted (R346, R351): everything below it returns to reset, memories and cells are lost; host memory,
the Peat store, lease, power and thermal registers, error logs and RWS fields stay. -/
def State.chipReset (s : State) (deep : Bool) : State :=
  let s1 : State := { State.reset with
    regs := s.regs.filter fun e => regKept deep e.1
    mem := s.mem.filter fun e => 0x800000000000 ≤ e.1
    logs := if deep then [] else s.logs
    ceRecent := if deep then [] else s.ceRecent
    retired := if deep then [] else s.retired
    peat := s.peat
    power := { s.power with inReset := true, rootWait := true }
    jtag := s.jtag
    sent := s.sent
    msiSent := s.msiSent
    responses := s.responses
    reply := s.reply
    fresh := s.fresh
    pending := s.pending }
  s1.loseCells

/-- A POR (R346, R351): the first feed's reeve boots and is released to take the lease. -/
def State.porReset (s : State) (f : Reeve) (torn : Bool) : State :=
  let s0 : State := { s with regs := [], logs := [], ceRecent := [], retired := [] }
  let s1 := s0.chipReset true
  let p := s.peat
  let s2 := { s1 with
    fresh := s1.fresh + 1
    jtag := {}
    peat := { half0 := p.half0, half1 := p.half1, active := p.active, torn := p.torn || torn, seq := p.seq
              saved := p.saved, draw := s1.fresh }
    power := { released := some f, inReset := true, restore := true, porSeq := true, vaonIo := s.power.vaonIo
               railsOn := s.power.railsOn, switched := s.power.switched } }
  match f with
  | .a => (s2.set rvLeaseFeedA 1).set rvLeaseStateA 1
  | .b => (s2.set rvLeaseFeedB 1).set rvLeaseStateB 1

/-- POR (R346): a feed rises while both were absent. -/
def execPor (f : Reeve) (torn : Bool) (s : State) : Result :=
  .next (if s.on rvLeaseFeedA || s.on rvLeaseFeedB then s else s.porReset f torn)

/-! ## REGION reset (R346, R351) -/

/-- The memories of region `n` (R389). -/
def regionMemory (n a : Nat) : Bool :=
  match memKind a with
  | .pool r | .block r _ | .context r _ _ | .imem r _ => r = n
  | _ => false

/-- Region `n`'s REGION and PROGRAM domains are reset: registers, sequencers, memories, cells. -/
def State.regionReset (s : State) (n : Nat) : State :=
  let s1 := (List.range 12).foldl (fun a b => a.cancelBlock (12 * n + b)) s
  let mine := fun (k : Nat) => match findReg k with | some h => h.reg.dom = .region && h.i = n | none => false
  let s2 := s1.lose (regionMemory n)
  { s2 with
    regs := s2.regs.drop mine
    seqs := s2.seqs.drop fun i => decide (i < 48 ∧ i / 12 = n)
    cells := s2.cells.drop fun i => i / 384 = n
    cellLost := s2.cellLost.put n (s2.fresh + 1) 0
    fresh := s2.fresh + 1
    weighted := s2.weighted &&& ~~~(1#4 <<< n)
    nsHold := s2.nsHold &&& ~~~(1#4 <<< n)
    bufTags := s2.bufTags.drop fun k => k / 2 = n
    slacks := s2.slacks.drop fun r => r = n
    redos := s2.redos.filter fun d => d.blk / 12 ≠ n
    releases := s2.releases.filter fun r => r.blk / 12 ≠ n
    merges := s2.merges.filter fun m => !regionMemory n m.addr
    stand := s2.stand.drop fun k => k / 384 = n
    parity := s2.parity.filter fun x => x.1 / 384 ≠ n
    closes := s2.closes.filter fun c => c.region ≠ n }

/-! ## PROGRAM reset (R347) -/

/-- A PROGRAM reset of sequencer `i`; a SYS.COMMIT that the tick unit has not accepted is dropped. -/
def State.programReset (s : State) (i : Nat) : State :=
  let s := { s with commits := s.commits.filter fun c => 48 + c.ctx ≠ i }
  match (s.seq i).st with
  | .off => s
  | .init | .run | .ended =>
    let s1 := if i < 48 then
        let s0 := s.cancelBlock i
        ((s0.cells.filter fun e => e.1 / 32 = i).foldl (fun t e => t.cutRun e.1) s0).flushRedos i
      else s
    s1.setSeq i { s1.seq i with dying := true, ending := false, stopping := false, stalled := false }
  | _ => s.stopSeq i

/-- PROGRAM_RESET_DONE (R347): what the sequencer had started has ended. -/
def execProgramResetDone (q : SeqId) (s : State) : Result :=
  let i := SeqId.num q
  .next (if (s.seq i).dying && (48 ≤ i || s.blockQuiet i) then s.stopSeq i else s)

/-- A write of `RST.CMD`: a REGION reset is accepted only with every block OFF, HALTED or FAULT. -/
def State.writeRstCmd (s : State) (w : Who) (v : Nat) : State :=
  s.guarded0 w (rstCmd.key 0 0) fun s =>
    let n := bits v 9 8
    match bits v 31 30 with
    | 1 => (s.setW1c rstCauseCmd).chipReset false
    | 2 =>
      if (List.range 12).all fun b => (s.seq (12 * n + b)).st.idle then s.regionReset n else s.reject w (rstCmd.key 0 0)
    | 3 =>
      let s1 := (List.range 12).foldl (fun a b => if bit v (12 + b) then a.programReset (12 * n + b) else a) s
      (List.range 4).foldl (fun a t => if bit v (24 + t) then a.programReset (48 + t) else a) s1
    | _ => s

/-- RST_CHIP (R346). -/
def execRstChip (w : Who) (s : State) : Result := .next (s.writeRstCmd w (2 ^ 30))

/-- RST_REGION (R346). -/
def execRstRegion (w : Who) (n : Fin 4) (s : State) : Result := .next (s.writeRstCmd w (2 ^ 31 + n.val * 256))

/-- RST_PROGRAM (R347). -/
def execRstProgram (w : Who) (n : Fin 4) (blocks : BitVec 12) (ctxs : BitVec 4) (s : State) : Result :=
  .next (s.writeRstCmd w (2 ^ 31 + 2 ^ 30 + ctxs.toNat * 2 ^ 24 + blocks.toNat * 2 ^ 12 + n.val * 256))

end Sys2Proof.Machine
end

