-- ==== Sys2Proof/Machine/Power.lean ====
section
/-! DEFINITION. Feeds, lease and reeves (R326 to R333), rails (R334, R335), thermal management (R336, R337), the release
of a CHIP reset (R348) and the power states (R349, R350). -/

namespace Sys2Proof.Machine

/-! ## The arbiter's view (R326, R327) -/

/-- The other reeve. -/
def otherReeve (f : Reeve) : Reeve := match f with | .a => .b | .b => .a

/-- A field of `RV.LEASE` that stands once for each reeve. -/
def reeveField (f : Reeve) (a b : RField) : RField := match f with | .a => a | .b => b

/-- The feed of a reeve is present. -/
def State.feedOn (s : State) (f : Reeve) : Bool := s.on (reeveField f rvLeaseFeedA rvLeaseFeedB)

/-- STATE_A or STATE_B: 0 no feed, 1 BOOT, 2 HOLDER, 3 RESYNC, 4 COLD. -/
def State.reeveState (s : State) (f : Reeve) : Nat := s.get (reeveField f rvLeaseStateA rvLeaseStateB)

/-- `s` with another STATE of a reeve. -/
def State.setReeve (s : State) (f : Reeve) (v : Nat) : State := s.set (reeveField f rvLeaseStateA rvLeaseStateB) v

/-- STBY_OK of a reeve. -/
def State.stbyOk (s : State) (f : Reeve) : Bool := s.on (reeveField f rvLeaseStbyOkA rvLeaseStbyOkB)

/-- `s` with another STBY_OK. -/
def State.setStby (s : State) (f : Reeve) (v : Bool) : State := s.set (reeveField f rvLeaseStbyOkA rvLeaseStbyOkB) (b2n v)

/-- The reeve that holds the lease. -/
def State.holder (s : State) : Option Reeve :=
  match s.get rvLeaseHolder with
  | 0 => some .a
  | 1 => some .b
  | _ => none

/-- The number of a reeve in HOLDER. -/
def reeveNum (f : Reeve) : Nat := match f with | .a => 0 | .b => 1

/-- FEED_LOSS (R326). -/
def execFeedLoss (f : Reeve) (s : State) : Result :=
  .next <|
    if !s.feedOn f then s
    else (((s.set (reeveField f rvLeaseFeedA rvLeaseFeedB) 0).setReeve f 0).setStby f false).rvFlag (2 + reeveNum f)

/-- FEED_BACK (R326): the reeve boots for its takeover, resynchronises while the other holds the lease (R331), or stays
cold. With both feeds absent it is a POR instead. -/
def execFeedBack (f : Reeve) (s : State) : Result :=
  let st := if s.power.released = some f then 1 else if s.holder = some (otherReeve f) then 3 else 4
  .next <|
    if s.feedOn f || !s.feedOn (otherReeve f) then s
    else ((s.set (reeveField f rvLeaseFeedA rvLeaseFeedB) 1).setReeve f st).rvFlag (4 + reeveNum f)

/-- LEASE_RENEWAL (R327, R328): the holder restarts the term; counting returns to SIO once its monitor is good. -/
def execLeaseRenewal (s : State) : Result :=
  .next <|
    match s.holder with
    | none => s
    | some h =>
      if !s.feedOn h || s.reeveState h ≠ 2 || s.power.handing then s
      else { s with power := { s.power with fioTerm := s.power.fioTerm && bit (s.get clkMonstatFail) 4 } }

/-- A reeve is released from reset for a takeover (R329). -/
def State.release (s : State) (f : Reeve) : State :=
  { (s.setReeve f 1).setStby f false with power := { s.power with released := some f } }

/-- LEASE_EXPIRY (R329). -/
def execLeaseExpiry (s : State) : Result :=
  .next <|
    match s.holder with
    | none => s
    | some h =>
      let s1 := (s.set rvLeaseHolder 3).setReeve h (if s.feedOn h then 4 else 0)
      let s2 := { s1.rvFlag 1 with power := { s1.power with handing := false } }
      if s2.feedOn (otherReeve h) then s2.release (otherReeve h)
      else if s2.feedOn h then s2.release h
      else s2

/-! ## Rails (R334, R375) -/

/-- The holder switches the rails of `l` on or off over PMBus, in that order; while VAON_IO is out of its band it drives
no PMBus. -/
def State.switchRails (s : State) (l : List (Fin 7)) (up : Bool) : State :=
  if !s.power.vaonIo then s
  else { s with power := { s.power with railsOn := if up then 127 else 0, switched := s.power.switched ++ l.map fun r => (r, up) } }

/-- The rails come up, rail 0 first. -/
def State.railsUp (s : State) : State := s.switchRails (List.finRange 7) true

/-- The rails go down, rail 6 first. -/
def State.railsDown (s : State) : State := s.switchRails (List.finRange 7).reverse false

/-! ## Power states (R349, R350) -/

/-- No block and no context is in INIT, WAIT, RUN or ENDED. -/
def State.allIdle (s : State) : Bool := (List.range 52).all fun i => (s.seq i).st.idle

/-- The conditions of STANDBY: ports DARK, egress ports OFF, RUN 0. -/
def State.standbyAllowed (s : State) : Bool :=
  (List.range 8).all (fun n => s.pstate n = 0) && (List.range 2).all (fun p => s.get egrpStatState p = 0) && !s.on tickCtrlRun

/-- DORMANT: a CHIP reset is asserted and the rails go down; everything R351 names is lost. -/
def State.goDormant (s : State) : State :=
  let s1 := s.chipReset true
  State.railsDown { s1.set pwrStateState 3 with power := { s1.power with restore := true, porSeq := false } }

/-- STANDBY is left for IDLE. -/
def State.exitStandby (s : State) : State := (s.set pwrStateState 1).exitSelfRefresh

/-- The transition a `PWR.CMD` names, where R349 has one. -/
def State.powerTo (s : State) (op : Nat) : Option State :=
  let st := s.get pwrStateState
  if op = 0 then (if st = 1 then some (s.set pwrStateState 0) else if st = 2 then some s.exitStandby else none)
  else if op = 1 then (if st = 0 && s.allIdle then some (s.set pwrStateState 1) else none)
  else if op = 2 then (if st = 1 && s.standbyAllowed then some ((s.set pwrStateState 2).enterSelfRefresh) else none)
  else if st ≤ 2 then some s.goDormant
  else none

/-- A power command waits for a reeve to hold the lease (R333). -/
def State.waitPower (s : State) (op : Nat) : State := { s with power := { s.power with cmd := some op } }

/-- A write of `PWR.CMD`: anything R349 has no row for is refused. -/
def State.writePwrCmd (s : State) (w : Who) (v : Nat) : State :=
  s.guarded0 w (pwrCmd.key 0 0) fun s =>
    match s.powerTo (bits v 1 0) with
    | none => s.reject w (pwrCmd.key 0 0)
    | some t => if s.power.cmd.isSome then s.reject w (pwrCmd.key 0 0) else if s.noHolder then s.waitPower (bits v 1 0) else t

/-- PWR_RUN (R349). -/
def execPwrRun (w : Who) (s : State) : Result := .next (s.writePwrCmd w 0)

/-- PWR_IDLE (R349). -/
def execPwrIdle (w : Who) (s : State) : Result := .next (s.writePwrCmd w 1)

/-- PWR_STANDBY (R349). -/
def execPwrStandby (w : Who) (s : State) : Result := .next (s.writePwrCmd w 2)

/-- PWR_DORMANT (R349). -/
def execPwrDormant (w : Who) (s : State) : Result := .next (s.writePwrCmd w 3)

/-- The rail map of the Peat store (R334). -/
def State.railKeys (s : State) : List (Option (List Byte)) := (List.range 7).map fun r => s.peat.value (0x100 + r)

/-- DORMANT is left (R349): the rails come up, and the CHIP reset ends under R348; what was latched clears (R336, R337).
Between expiry and TAKE, and while VAON_IO is out of its band (R375), it waits. -/
def State.wakeUp (s : State) : State :=
  if s.busIdle then { s with power := { s.power with woken := true } }
  else
    let s1 := ((s.set pwrStateState 4).setW1c rstCauseDormant).set thermStatusShut 0
    State.railsUp { s1 with power := { s1.power with woken := false, tripped := false, rails := s1.railKeys } }

/-- WAKE_TIMER (R349). -/
def execWakeTimer (s : State) : Result :=
  .next <|
    if s.get pwrWakeSeconds = 0 then s
    else if s.pwr = 2 then (if s.noHolder then s.waitPower 0 else s.exitStandby)
    else if s.pwr = 3 then (s.setW1c rstCauseWake).wakeUp
    else s

/-! ## Takeover, resynchronisation, handover (R329 to R333) -/

/-- What a new holder takes up: the target power state, thermal limits, wake timer and rail settings of the record, then
what has waited for it. After a POR every rail is powered down before any comes up (R375), and the boot policy decides
which state follows (R349). -/
def State.resume (s : State) : State :=
  if s.power.porSeq then
    let stay := (s.peat.value 3).any fun v => (v.headD 0).toNat = 1
    let s1 := State.railsDown { s with power := { s.power with rails := s.railKeys } }
    if stay then { s1.set pwrStateState 3 with power := { s1.power with porSeq := false } } else s1.railsUp
  else
    let s1 := match s.peat.saved with
      | none => s
      | some r =>
        let t := (s.setReg thermCfg 0 0 r.therm).setReg pwrWake 0 0 r.wake
        let t := { t with power := { t.power with rails := r.rails } }
        if r.power = t.pwr then t else (t.powerTo r.power).getD t
    let s2 := { s1 with power := { s1.power with cmd := none } }
    let s3 := match s.power.cmd with
      | none => s2
      | some op => (s2.powerTo op).getD s2
    if s3.power.woken && s3.pwr = 3 then s3.wakeUp else s3

/-- TAKE (R329): accepted only from the reeve released for the takeover, which has mounted the Peat store by then, so not
before VAON_IO is within its band (R375); a trip that waits powers down first (R337). -/
def execTake (f : Reeve) (s : State) : Result :=
  .next <|
    if s.power.released ≠ some f || !s.feedOn f || !s.power.vaonIo then s
    else
      let s1 := ((s.set rvLeaseHolder (reeveNum f)).setReeve f 2).count rvLeaseTakeovers 1
      let s2 := { s1.rvFlag 0 with power := { s1.power with released := none }, peat := s1.peat.mount }
      let s3 := if s2.feedOn (otherReeve f) then s2.setReeve (otherReeve f) 3 else s2
      let s4 := s3.resume
      if s4.power.tripped && s4.pwr ≠ 3 then (s4.thermFlag 3).goDormant else s4

/-- RESYNC (R331): a standby reeve checks the mailbox copy and is held cold. -/
def execResync (f : Reeve) (crcGood romMatches : Bool) (s : State) : Result :=
  .next <|
    if s.holder ≠ some (otherReeve f) || !s.feedOn f || s.reeveState f ≠ 3 || s.power.porSeq then s
    else
      let s1 := s.setReeve f 4
      if crcGood && romMatches && s.power.mailbox.isSome then s1.setStby f true else s1.rvFlag 6

/-- A write of `RV.CMD` (R332). -/
def State.writeRvCmd (s : State) (w : Who) (v : Nat) : State :=
  s.guarded0 w (rvCmd.key 0 0) fun s =>
    if !bit v 0 then s
    else match s.holder with
      | none => s.reject w (rvCmd.key 0 0)
      | some h =>
        if !s.stbyOk (otherReeve h) then s.reject w (rvCmd.key 0 0)
        else let s1 := if s.power.vaonIo then s.saveState else s.toMailbox; { s1 with power := { s1.power with handing := true } }

/-- HANDOVER (R332). -/
def execHandover (w : Who) (s : State) : Result := .next (s.writeRvCmd w 1)

/-! ## Rails (R335) -/

/-- RAIL_FAULT (R335): a rail out of limits powers down; a missing key keeps the chip in DORMANT; a regulator that does
not answer sets PMBUS_FAULT. -/
def execRailFault (cause : RailCause) (rail : Fin 7) (s : State) : Result :=
  .next <|
    if s.busIdle then s
    else match cause with
      | .outOfLimits => if s.pwr = 3 then s else ((s.set pwrStateFaultRail rail).rvFlag 8).goDormant
      | .noKey =>
        if s.power.inReset && s.pwr ≠ 3 && (s.peat.value (0x100 + rail)).isNone then (s.rvFlag 10).goDormant else s
      | .pmbus => s.rvFlag 9

/-! ## Thermal management (R336, R337) -/

/-- A die sensor's corrected reading, in 0.25 °C; none for one that does not answer or lies outside −40 to 150 °C. -/
def State.dieTemp (s : State) (i : Nat) (raw : Option (BitVec 16)) : Option Int :=
  raw.bind fun v =>
    let t := v.toInt + (calEffective (104 + i) (s.reg calUser (104 + i) 0)).1
    if t < -160 ∨ 600 < t then none else some t

/-- A threshold of `THERM.CFG`: its status bit is set when THERM.MAX reaches it, and clears 5 °C below it. -/
def State.thermLevel (s : State) (b : Nat) (f : RField) (limit : Nat) : State :=
  let m := s.getInt thermMaxTemp
  if 4 * (limit : Int) ≤ m then (if s.on f then s else s.thermFlag b)
  else if m ≤ 4 * (limit : Int) - 20 then s.set f 0
  else s

/-- THERMAL_POLL (R336). -/
def execThermalPoll (die : List (Option (BitVec 16))) (towers : List Byte) (s : State) : Result :=
  .next <|
    if s.noHolder || s.pwr = 3 then s
    else
      let temps := (List.range 16).map fun i => (i, s.dieTemp i (nth die i none))
      let s1 := temps.foldl (fun a p => match p.2 with | some t => a.setInt thermTempTemp t p.1 | none => a) s
      let s2 := if temps.any fun p => p.2.isNone then s1.thermFlag 4 else s1
      let s3 := (List.range (min 4 towers.length)).foldl (fun a h => a.towerTemp h (nth towers h 0).toNat) s2
      let all := temps.filterMap (fun p => p.2) ++ (List.range 4).map fun h => 4 * s3.getInt memTempNow h
      let s4 := s3.setInt thermMaxTemp (all.foldl max (all.headD 0))
      let s5 := (s4.thermLevel 0 thermStatusWarn (s4.get thermCfgWarn)).thermLevel 1 thermStatusHot (s4.get thermCfgHot)
      if 4 * (s5.get thermCfgShut : Int) ≤ s5.getInt thermMaxTemp then
        let s6 := if s5.on thermStatusShut then s5 else s5.thermFlag 2
        if s6.on thermCfgShutEn then s6.goDormant else s6
      else s5

/-- A write of `THERM.CFG`: WARN < HOT < SHUT < 115 °C must hold. -/
def State.writeThermCfg (s : State) (w : Who) (v : Nat) : State :=
  s.guarded0 w (thermCfg.key 0 0) fun s =>
    if bits v 7 0 < bits v 15 8 && bits v 15 8 < bits v 23 16 && bits v 23 16 < 115 then
      s.writeFieldsOf thermCfg 0 0 v
    else s.reject w (thermCfg.key 0 0)

/-- THERM_CFG_WRITE (R336). -/
def execThermCfgWrite (w : Who) (v : Word) (s : State) : Result := .next (s.writeThermCfg w v.toNat)

/-- THERMAL_TRIP (R337): THERM_TRIP_N goes low and a CHIP reset is asserted; the holder powers down and sets TRIP. -/
def execThermalTrip (s : State) : Result :=
  .next <|
    if s.pwr = 3 then s
    else
      let s1 := (s.setW1c rstCauseTherm).chipReset false
      let s2 := { s1 with power := { s1.power with tripped := true } }
      if s2.noHolder then s2 else (s2.thermFlag 3).goDormant

/-! ## Reset pins and the release (R346, R348, R349, R354) -/

/-- RESET_PIN (R346, R349): low asserts a CHIP reset; rising ends it, and DORMANT. -/
def execResetPin (low : Bool) (s : State) : Result :=
  let put := fun (t : State) => { t with power := { t.power with pinLow := low } }
  .next <|
    if low then
      (let s1 := put (s.setW1c rstCausePin)
       if s1.power.inReset then s1 else s1.chipReset false)
    else if s.power.pinLow && s.pwr = 3 then (put s).wakeUp
    else put s

/-- PERST (R346, R349, R354). -/
def execPerst (asserted : Bool) (s : State) : Result :=
  let put := fun (t : State) => { t with power := { t.power with perstLow := asserted } }
  .next <|
    if asserted then
      (let s1 := put (s.setW1c rstCausePerst)
       if s1.power.inReset then s1 else s1.chipReset false)
    else if s.power.perstLow && s.pwr = 3 then (put s).wakeUp
    else put s

/-- A value of the Peat store as a little-endian word; 0 where the key is absent. -/
def State.peatWord (s : State) (key : Nat) : Nat := leVal (((s.peat.value key).getD []).take 4)

/-- The RWS fields are written from their keys (R348). -/
def State.restoreRws (s : State) : State :=
  let s1 := (List.range 48).foldl (fun a i =>
    let m := a.peatWord (0x20000 + i)
    { a.set blkRetireMask m (i / 12) (i % 12) with retired := a.retired.put i (BitVec.ofNat 32 m) 0 }) s
  (List.range 4).foldl (fun a n => a.set rgnBlkretMask (a.peatWord (0x20100 + n)) n) s1

/-- Every `CAL.USERi` is written from its key (R348). -/
def State.restoreCal (s : State) : State :=
  (List.range 131).foldl (fun a i => a.putCal i (a.peatWord (0x10000 + i))) s

/-- `TB.FREE_OFS` is written from the holdover history (R348); it steers a timebase in FREERUN. -/
def State.restoreFree (s : State) : State :=
  match s.peat.value 2 with
  | some v => (s.setReg tbFreeOfs 0 0 (leVal (v.take 4))).setReg tbFreq 0 0 (leVal (v.take 4))
  | none => s

/-- No cause of the CHIP reset is asserted any more, and a holder acts with the rails up. -/
def State.mayRelease (s : State) : Bool :=
  s.power.inReset && !s.power.pinLow && !s.power.perstLow && !s.power.tripped && !s.noHolder && s.pwr ≠ 3 &&
    s.power.vaonIo && s.power.railsOn = 127

/-- A power-up that VAON_IO held up starts once it may (R375). -/
def State.lateRails (s : State) : State :=
  if s.busIdle then s
  else if s.power.woken && s.pwr = 3 then s.wakeUp
  else if s.power.inReset && s.pwr ≠ 3 && s.power.railsOn ≠ 127 then s.railsUp
  else s

/-- The release of a CHIP reset. -/
def State.releaseReset (s : State) : State :=
  let s1 := if s.power.restore then s.restoreCal.restoreRws else s.restoreCal
  let s2 := s1.restoreFree
  let s3 := if s2.pwr = 4 then s2.set pwrStateState 0 else s2
  { s3 with power := { s3.power with inReset := false, restore := false, porSeq := false } }

/-- CHIP_RESET_RELEASE (R348): no cause is asserted and a holder acts. -/
def execChipResetRelease (s : State) : Result :=
  let s1 := s.lateRails
  .next (if s1.mayRelease then s1.releaseReset else s1)

end Sys2Proof.Machine
end

