-- ==== Sys2Proof/Machine/Registers.lean ====
section
/-! DEFINITION. Register accesses (R7 to R10, R355, R359): which register an offset names, what a write of it does, and
what a read of it returns, for the host, the conductor and block programs. -/

namespace Sys2Proof.Machine

/-! ## Writes -/

/-- What a write does: the writer, the register's indices, the value. -/
abbrev WriteFn := State → Who → Nat → Nat → Nat → State

/-- Who may write a register by its map (R359). -/
def State.mayWriteReg (s : State) (w : Who) (h : RegHit) : Bool :=
  match h.reg.rights with
  | .f0 => w.fn = 0
  | .ten => w.fn = 0 || w.fn.val = h.i
  | .any | .evt => true
  | .own => w.fn.val = h.i
  | .blk => w.fn = 0 || w.fn.val = s.blockTen (12 * h.i + h.j)
  | .beam => w.fn = 0 || w.fn.val = s.get beamCfgTen h.i
  | .ring => w.fn.val = s.get mvRingCfgTen h.i

/-- A register without effects of its own takes a write field by field (R7). -/
def State.plainWrite (s : State) (w : Who) (h : RegHit) (v : Nat) : State :=
  s.guarded w (h.reg.key h.i h.j) (s.mayWriteReg w h) fun s =>
    s.writeFieldsOf h.reg h.i h.j v

/-- A register that function 0 writes while `TICK.CTRL.RUN` is 0 only. -/
def writeStopped (r : RegDef) : WriteFn := fun s w i j v =>
  s.guarded0 w (r.key i j) fun s =>
    if s.on tickCtrlRun then s.reject w (r.key i j) else s.writeFieldsOf r i j v

/-- A program-owned field of a block (R9, R196): its program writes it while it runs, and nobody else. -/
def writePo (r : RegDef) (f : RField) (ten : Bool) : WriteFn := fun s w i j v =>
  s.guarded w (r.key i j) (w.path = .engine || w.fn = 0 || (ten && w.fn.val = s.blockTen (12 * i + j))) fun s =>
    if (s.seq (12 * i + j)).st.owning && w.path ≠ .engine then
      (if w.path = .conductor then s else s.reject w (r.key i j))
    else s.set f (bits v f.hi f.lo) i j

/-- `RGNn.BLKb.BUFREL` (R229): for the block's own program. -/
def writeBlkBufrel : WriteFn := fun s w i j v =>
  if w.path = .engine then s.writeBufrel (12 * i + j) v
  else s.guarded w (blkBufrel.key i j) true fun s => s.reject w (blkBufrel.key i j)

/-- A vector of the MSI-X table; its Mask bit, cleared, lets a held message go (R364). -/
def writeMsix : WriteFn := fun s w i j v =>
  s.guarded w (msixEntry.key i j) true fun s =>
    if j % 4 = 3 then (s.setReg msixEntry i j (v % 2)).flushMsi i else s.setReg msixEntry i j v

/-- A lane's delay of the selected pseudo-channel (R253). -/
def writeMemtrWin : WriteFn := fun s w i j v =>
  s.guarded0 w (memtrWin.key i j) fun s =>
    { s with delays := s.delays.put (delayKey (s.get memtrSelPc) i j) (v % 128) 64 }

/-- The delay reference counter and sky frequency, shadowed (R92). -/
def writeDlyReg (r : RegDef) : WriteFn := fun s w i j v =>
  s.guarded0 w (r.key i j) fun s => s.tableWrite w (heldRegister (r.key i j)) (leBytes 8 v)

/-- `SEAL.SLOTs` is read-only; with the fuse off every write of it raises the event (R275). -/
def writeSealSlot : WriteFn := fun s w i j _ => s.guarded w (sealSlot.key i j) true fun s =>
  if Config.sealFused then s else s.reject w (sealSlot.key i j)

/-- The registers a write of which does more than set fields. -/
def writers : List (RegDef × WriteFn) :=
  [(tenReserve, fun s w i _ v => s.writeReserve w i v), (tenCmd, fun s w _ _ v => s.writeTenCmd w v),
   (cndProg, fun s w i _ v => s.writeCndProg w i v), (cndMem, fun s w i _ v => s.writeCndMem w i v),
   (cndCtrl, fun s w i _ v => s.writeCndCtrl w i v), (clkCmd, fun s w _ _ v => s.writeClkCmd w v),
   (clkGate, fun s w _ _ v => s.writeClkGate w v), (tbCfg, fun s w _ _ v => s.writeTbCfg w v),
   (tbQual, fun s w _ _ v => s.writeTbQual w v), (tbPstep, fun s w _ _ v => s.writePstep w v),
   (tbFreeOfs, fun s w _ _ v => s.writeFreeOfs w v), (ptpsCfg, fun s w _ _ v => s.writePtpsCfg w v),
   (ptpsOfs, fun s w _ _ v => s.writePtpsOfs w v), (tickCtrl, fun s w _ _ v => s.writeTickCtrl w v),
   (tickEpoch, fun s w _ _ v => s.writeEpoch w v), (tickCommit, fun s w _ _ v => s.writeCommit w v),
   (todSetsec, fun s w _ _ v => s.writeSetsec w v), (rvCmd, fun s w _ _ v => s.writeRvCmd w v),
   (pwrCmd, fun s w _ _ v => s.writePwrCmd w v), (rstCmd, fun s w _ _ v => s.writeRstCmd w v),
   (thermCfg, fun s w _ _ v => s.writeThermCfg w v),
   (peatKey, fun s w i j v => s.writePeatReg w (peatKey.key i j) fun s => s.setReg peatKey i j v),
   (peatLen, fun s w i j v => s.writePeatReg w (peatLen.key i j) fun s => s.setReg peatLen i j v),
   (peatCmd, fun s w _ _ v => s.writePeatCmd w v),
   (peatData, fun s w i j v => s.writePeatReg w (peatData.key i j) fun s =>
      { s with peat := s.peat.putData (4 * i) (leBytes 4 v) }),
   (calUser, fun s w i _ v => s.writeCal w i v)]
  ++
  [(evtStat, fun s w i _ v => s.writeEvtStat w i v), (evtEn, fun s w i _ v => s.writeEvtEn w i v),
   (evtRaise, fun s w _ _ v => s.writeEvtRaise w v), (evtCfg, fun s w i _ v => s.writeEvtCfg w i v),
   (msixEntry, writeMsix), (ingCtrl, fun s w i _ v => s.writeIngCtrl w i v),
   (ingCmd, fun s w i _ v => s.writeIngCmd w i v), (ingPrbs, fun s w i _ v => s.writePrbs w i v),
   (feCtrl, fun s w i _ v => s.writeFeCtrl w i false v), (feSpike, fun s w i _ v => s.writeFeCtrl w i true v),
   (feCmd, fun s w i _ v => s.writeFeCmd w i v), (feCfg, fun s w _ _ v => s.writeFeCfg w v),
   (feDlyC0, writeDlyReg feDlyC0), (feDlyF0, writeDlyReg feDlyF0),
   (mvRingCfg, fun s w i _ v => s.writeRingCfg w i v), (mvTail, fun s w i _ v => s.writeTail w i v),
   (mireBase, writeStopped mireBase), (mireWork, writeStopped mireWork), (mireCfg, writeStopped mireCfg),
   (mireCmd, fun s w _ _ v => s.writeMireCmd w (bit v 0) (bit v 1)), (mireMark, fun s w _ _ v => s.writeMireMark w v),
   (gateMembers, fun s w _ _ v => s.writeGateMembers w v), (gateIssuer, fun s w _ _ v => s.writeGateIssuer w v),
   (egrpCtrl, fun s w i _ v => s.writeEgrpCtrl w i v), (egrpPtprxCmd, fun s w i _ v => s.writePtprx w i v),
   (noteCmd, fun s w i _ v => s.writeNoteCmd w i v)]
  ++
  [(intLogCmd, fun s w i _ v => s.writeLogCmd w i v), (twin, fun s w i _ v => s.writeTwin w i v),
   (sretCmd, fun s w i _ v => s.writeSret w i v), (sealKeydata, fun s w i _ v => s.writeKeydata w i v),
   (sealKeycmd, fun s w _ _ v => s.writeKeycmd w v), (sealSlot, writeSealSlot),
   (mcRetcmd, fun s w i _ v => s.writeRetcmd w i v), (memCmd, fun s w _ _ v => s.writeMemCmd w v),
   (memtrCmd, fun s w _ _ v => s.writeMemtrCmd w v), (memtrWin, writeMemtrWin),
   (beamCfg, fun s w i _ v => s.writeBeam w i false v), (beamOut, fun s w i _ v => s.writeBeam w i true v),
   (beamCmd, fun s w _ _ v => s.writeBeamCmd w v), (rgnBlkret, fun s w i _ v => s.writeBlkret w i v),
   (blkBeam, fun s w i j v => s.writeBlockBeam w i j v), (blkProg, fun s w i j v => s.writeProg w i j v),
   (blkSeqcmd, fun s w i j v => s.writeSeqcmd w i j v), (blkBufrel, writeBlkBufrel),
   (blkRedoBudget, writePo blkRedoBudget blkRedoBudgetCycles false), (blkX2base, writePo blkX2base blkX2baseBase true)]

/-- A whole value is written to a register. -/
def State.writeReg (s : State) (w : Who) (h : RegHit) (v : Nat) : State :=
  match writers.find? fun e => e.1.base = h.reg.base with
  | some e => e.2 s w h.i h.j v
  | none => s.plainWrite w h v

/-! ## Reads -/

/-- What a read does and returns: the reader, the register's indices. -/
abbrev ReadFn := State → Who → Nat → Nat → State × Nat

/-- A read without effect. -/
def pureRead (f : State → Who → Nat → Nat → Nat) : ReadFn := fun s w i j => (s, f s w i j)

/-- A peak restarts from the occupancy in hand when it is read (R124). -/
def readPeak (r : RegDef) (f : RField) (occ : State → Nat → Nat) : ReadFn := fun s _ i j =>
  (s.set f (occ s i) i j, setBits (s.reg r i j) f.hi f.lo (max (s.get f i j) (occ s i)))

/-- What the answer of an effectful read holds. -/
def State.answered (s : State) : State × Nat :=
  (s, match s.reply with | some r => leVal r.data | none => 0)

/-- `NOTEt.NEXT` and `NOTEt.WORD` answer tenancy `t` alone (R301). -/
def readNote (f : State → Nat → State) : ReadFn := fun s w i _ => if w.fn.val = i then (f s i).answered else (s, 0)

/-- `INGn.LANEk.EQ` (R50): 0 in DARK; the values it has reached are open. -/
def readEq : ReadFn := fun s _ i j =>
  if s.pstate i = 0 then (s, 0)
  else if s.on ingCtrlAdaptFreeze i then (s, s.reg ingLaneEq i j)
  else (s.drawn, Config.freeNat s.fresh j % 2 ^ 36)

/-- The state word of a sequencer: state, loops and PC. -/
def State.seqStat (s : State) (i : Nat) : Nat :=
  let q := s.seq i
  if i < 48 then q.st.code * 2 ^ 24 + q.loops.length * 2 ^ 12 + q.pc % 4096 else q.st.code * 2 ^ 16 + q.pc % 65536

/-- The registers a read of which does more than return what they hold, or that hold nothing themselves. -/
def readers : List (RegDef × ReadFn) :=
  [(cndStat, pureRead fun s _ i _ => s.seqStat (48 + i)), (cndWbuf, pureRead fun s _ _ _ => s.wbuf.length),
   (blkSeqstat, pureRead fun s _ i j => s.seqStat (12 * i + j)),
   (tickCommitSt, pureRead fun s w _ _ => s.commitSt w.fn), (todSec, fun s _ _ _ => s.readTodSec.answered),
   (peatData, pureRead fun s _ i _ => leVal ((List.range 4).map fun b => s.peatByte (4 * i + b))),
   (calEff, pureRead fun s _ i _ => s.calEff i),
   (evtStat, pureRead fun s w i _ => s.reg evtStat i 0 &&& s.evtMask w.fn i),
   (evtEn, pureRead fun s w i _ => s.reg evtEn i 0 &&& s.evtMask w.fn i),
   (evtCfg, pureRead fun s w i _ => if w.fn = 0 || s.evtOwn i = w.fn.val then s.reg evtCfg i 0 else 0),
   (evtPins, pureRead fun s _ _ _ => b2n s.irq + 2 * b2n s.nmi),
   (evtCnd, pureRead fun s _ i _ => match s.evtCnd i with | some x => 2 ^ 31 + x | none => 0),
   (ingLaneEq, readEq),
   (feDlyC0, pureRead fun s _ _ _ => s.c0.at (1 - s.liveBank .dly) 0),
   (feDlyF0, pureRead fun s _ _ _ => s.f0.at (1 - s.liveBank .dly) 0),
   (feDlyC0Live, pureRead fun s _ _ _ => s.c0.at (s.liveBank .dly) 0),
   (feDlyF0Live, pureRead fun s _ _ _ => s.f0.at (s.liveBank .dly) 0)]
  ++
  [(mvStatus, pureRead fun s _ i _ => setBits (s.reg mvStatus i 0) 0 0 (b2n (s.mvBusy i))),
   (mvPeak, readPeak mvPeak mvPeakValue State.ringOcc),
   (mireMark, pureRead fun s _ _ _ => setBits (s.reg mireMark 0 0) 33 0 s.markFrame),
   (egrpTsqHi, fun s _ i _ => (s.readTsqHi i).answered),
   (egrpTsqCnt, pureRead fun s _ i _ => (s.egr i).stamps.length),
   (egrpTsqPeak, readPeak egrpTsqPeak egrpTsqPeakValue fun s i => (s.egr i).stamps.length),
   (egrpPtprxStat, pureRead fun s _ i _ => (s.egr i).rx.length * 2 ^ 16 + (s.egr i).rxHead),
   (noteNext, readNote State.readNoteNext), (noteWord, readNote State.readNoteWord),
   (noteCount, pureRead fun s _ i _ => (s.noteQ i).held * 2 ^ 16 + (s.noteQ i).used),
   (notePeak, readPeak notePeak notePeakValue fun s i => (s.noteQ i).used),
   (sealSlot, pureRead fun s _ i _ => if Config.sealFused then s.reg sealSlot i 0 else 0),
   (mcOcc, readPeak mcOcc mcOccPeak fun s i => s.get mcOccCount i),
   (memtrWin, pureRead fun s _ i j => setBits (s.reg memtrWin i j) 6 0 (s.delay (s.get memtrSelPc) i j))]

/-- What a register reads, and what the read does. -/
def State.readReg (s : State) (w : Who) (h : RegHit) : State × Nat :=
  match readers.find? fun e => e.1.base = h.reg.base with
  | some e => e.2 s w h.i h.j
  | none => (s, s.reg h.reg h.i h.j)

/-- The value a register shows, the read's effect aside. -/
def State.peekReg (s : State) (w : Who) (h : RegHit) : Nat := (s.readReg w h).2

/-- A pending word of the MSI-X pending bit array of function `f`. -/
def State.pbaWord (s : State) (f k : Nat) : Nat :=
  (List.range 32).foldl (fun a j => if s.msiPend.any fun p => p.1 = f && s.get evtCfgVec p.2 = 32 * k + j then a + 2 ^ j else a) 0

/-- Byte `o` of port `p`'s receive ring (R297): an entry that is freed, or was never filled, is open. -/
def State.rxByte (s : State) (p o : Nat) : Byte :=
  let e := s.egr p
  let x := (o / 128 + 64 - e.rxHead) % 64
  if x < e.rx.length then nth (nth e.rx x []) (o % 128) 0 else BitVec.ofNat 8 (Config.freeNat s.fresh o)

/-- The word at an offset that no register of the maps holds: the log windows, the receive rings and the pending bits;
any other is reserved and reads 0 (R10). -/
def State.readWindow (s : State) (w : Who) (key : Nat) : State × Nat :=
  if 0x40A000 ≤ key ∧ key < 0x40A040 then (s, s.pbaWord w.fn ((key - 0x40A000) / 4))
  else if 0x3004000 ≤ key ∧ key < 0x3008000 then
    let p := (key - 0x3004000) / 0x2000
    (s.drawn, leVal ((List.range 4).map fun b => s.rxByte p ((key - 0x3004000) % 0x2000 + b)))
  else if 0x4110000 ≤ key ∧ key < 0x4118000 then
    let l := (key - 0x4110000) / 0x2000
    let o := (key - 0x4110000) % 0x2000
    (s, leVal ((List.range 4).map fun b => s.logByte l (o / 32) (o % 32 + b)))
  else (s, 0)

/-- What reads 0 for functions 1 to 3 (R359): the Reeves and Peat window, the integrity page, timestamp queues and PTP
receive rings, and other tenancies' note queues. -/
def hiddenFrom (f key : Nat) : Bool :=
  f ≠ 0 && ((0x300000 ≤ key && key < 0x400000) || (0x4100000 ≤ key && key < 0x4200000)
    || (0x3001000 ≤ key && key < 0x3003000 && 0x40 ≤ key % 0x1000 && key % 0x1000 < 0x68)
    || (0x3004000 ≤ key && key < 0x3008000)
    || (0x3008000 ≤ key && key < 0x3008100 && (key - 0x3008000) / 0x40 ≠ f))

/-- The value at a key of the maps, its width in bytes, and what the read does. The upper half of a 64-bit register
alone is read without effect. -/
def State.readKey (s : State) (w : Who) (key : Nat) : State × Nat × Nat :=
  if hiddenFrom w.fn key || !s.admitted w key then (s, 0, 4)
  else match findReg key with
  | some h =>
    if h.high then (s, s.peekReg w h / 2 ^ 32, 4)
    else let (s1, v) := s.readReg w h; (s1, v, if h.reg.width = 64 then 8 else 4)
  | none => let (s1, v) := s.readWindow w key; (s1, v, 4)

/-! ## The peripheral bridge (R234) -/

/-- PERIPHERAL_TIMEOUT (R234): the peripheral behind the bridge stays silent, and the transaction that the bridge takes next
ends with TERR and has no effect (log entry 120). -/
def execPeripheralTimeout (s : State) : Result := .next (if s.power.inReset then s else { s with silent := true })

/-! ## Accesses -/

/-- A BAR0 offset beyond the 64 MB of the window names nothing. -/
def beyondBar (w : Who) (off : Nat) : Bool := w.path = .bar0 && 0x4000000 ≤ off

/-- What the other half of a 64-bit register is taken as when 32 bits are written: its fields that read back as written
keep their value, and the others are written 0. -/
def otherHalf (fs : List Fld) (v : Nat) : Nat :=
  fs.foldl (fun a f => if f.acc = .rw || f.acc = .po then setBits a f.hi f.lo (bits v f.hi f.lo) else a) 0

/-- The whole value that a write of `v` at the hit stands for: BAR0 writes a 64-bit register whole. -/
def State.wholeValue (s : State) (w : Who) (h : RegHit) (v : Nat) : Nat :=
  let old := otherHalf h.reg.fields (s.peekReg w h)
  if h.high then v % 2 ^ 32 * 2 ^ 32 + old % 2 ^ 32
  else if h.reg.width = 64 then (if w.path = .bar0 then v else old / 2 ^ 32 * 2 ^ 32 + v % 2 ^ 32)
  else v % 2 ^ 32

/-- A PCI configuration write of the MSI-X control word of function `f`: Enable and Function Mask (R364). -/
def State.writeConfig (s : State) (f v : Nat) : State :=
  if s.power.inReset then s
  else
    let s1 := s.writeFieldsOf pciMsix f 0 v
    (if !s.on pciMsixEnable f && s1.msixOn f then s1.postAll f else s1).flushMsi f

/-- A register write by offset (R7, R10, R355). -/
def State.regWrite (s : State) (w : Who) (off v : Nat) : State :=
  if w.path = .config then s.writeConfig w.fn v
  else if beyondBar w off then s
  else match findReg (s.regKey w off) with
  | none => s
  | some h =>
    if s.reachable w (s.regKey w off) then s.writeReg w h (s.wholeValue w h v) else s

/-- REGISTER_WRITE (R7). -/
def execRegisterWrite (w : Who) (off : Word) (v : BitVec 64) (s : State) : Result :=
  .next (s.regWrite w off.toNat v.toNat)

/-- A read through the host port or by the conductor: while a CHIP reset is asserted or in DORMANT nothing answers; in
STANDBY a window that is off answers with TERR (R350), and a function in D3hot with Unsupported Request (R353). -/
def State.readAt (s : State) (w : Who) (key : Nat) : State :=
  if s.power.inReset || s.pwr = 3 then s
  else if w.path = .bar0 && bit s.d3hot.toNat w.fn then { s with reply := some ⟨0, 0, .unsupported, []⟩ }
  else if s.pwr = 2 && !standbyWindow key then { s with reply := some ⟨0, 0, .terr, []⟩ }
  else if s.unanswered key then { s with silent := false, reply := some ⟨0, 0, .terr, []⟩ }
  else
    let (s1, v, n) := s.readKey w key
    s1.answer n v

/-- PEAK_READ (R124): a read of a register, with whatever a read of it does. -/
def execPeakRead (w : Who) (off : Word) (s : State) : Result :=
  .next (if beyondBar w off.toNat then s.answer 4 0 else s.readAt w (s.regKey w off.toNat))

/-- TSQ_HI_READ (R296). -/
def execTsqHiRead (w : Who) (p : Fin 2) (s : State) : Result := .next (s.readAt w (egrpTsqHi.key p 0))

/-- TOD_SEC_READ (R298). -/
def execTodSecRead (w : Who) (s : State) : Result := .next (s.readAt w (todSec.key 0 0))

/-- NOTE_NEXT_READ (R301). -/
def execNoteNextRead (w : Who) (t : Fin 4) (s : State) : Result := .next (s.readAt w (noteNext.key t 0))

/-- NOTE_WORD_READ (R301). -/
def execNoteWordRead (w : Who) (t : Fin 4) (s : State) : Result := .next (s.readAt w (noteWord.key t 0))

end Sys2Proof.Machine
end

