-- ==== Sys2Proof/Machine/Slots.lean ====
section
/-! DEFINITION. The encodings of Skaiq (R177, R200 to R219): every slot word as an instruction, or none where the chapter
lists none. -/

namespace Sys2Proof.Machine

/-- The instructions, by the mnemonics of the table. -/
inductive Op where
  | nop | add | sub | and | or | xor | shl | shr | sra | li | lui | cmp | br | brp | loop | waitTick | waitEvt | sig
  | csrr | csrw | fence | frameEnd | halt | mvLd | mvSt | mvDesc | mvWaitb | mvSpill
  | cndLd | cndSt | cndCsrr | cndCsrw | sysTick | sysSeal | sysCommit | sysFlow | sysMire | sysTen | sysEvt
  | vadd | vsub | vmul | vmac | vmovs | vrndc | vcmp | vsel | vpack | vmaxi | vmini | vrowmax | vrowsum
  | cxStart | cxPreload | cxDumpWriteback | cxDumpClose | cxSave | cxRestore | cxClear | cxWait | cbStart | cellSpare
  deriving DecidableEq, Repr

/-- A scalar register, or an immediate. -/
inductive Src where
  | reg (n : Nat)
  | imm (v : Word)
  deriving DecidableEq, Repr

/-- A register an instruction writes. -/
inductive Dest where
  | s (n : Nat) | p (n : Nat) | v (n : Nat) | m (n : Nat)
  deriving DecidableEq, Repr

/-- The S slot, and the conductor's instructions. -/
inductive SInst where
  | nop
  | alu (op : Op) (d : Dest) (ra : Nat) (b : Src)
  | const (op : Op) (d : Dest) (v : Word)
  | cmp (pd cond ra : Nat) (b : Src)
  | br (ra : Option Nat) (target : Nat)
  | brp (ps : Nat) (neg : Bool) (target : Nat)
  | loop (count : Src) (len : Nat)
  | waitTick (v : Src)
  | waitEvt (line : Nat)
  | sig (n : Nat)
  | csrr (d : Dest) (csr : Nat)
  | csrw (csr ra : Nat)
  | cndCsrr (rd ra : Nat)
  | cndCsrw (rd ra : Nat)
  | fence
  | frameEnd
  | halt
  | cndLd (rd ra : Nat) (off : Int)
  | cndSt (rd ra : Nat) (off : Int)
  | sys (op : Op) (ra rb imm : Nat)
  deriving DecidableEq, Repr

/-- The M slot. -/
inductive MInst where
  | nop
  | ld (vec : Bool) (rd ra bar : Nat) (off : Int)
  | st (vec : Bool) (rd ra bar : Nat) (off : Int)
  | desc (eng bar : Nat) (line : Option Nat) (ra : Nat)
  | waitb (bar : Nat)
  | spill (mask : Nat)
  deriving DecidableEq, Repr

/-- The V slot (R211). -/
inductive VInst where
  | nop
  | op (op : Op) (vd va vb : Nat) (bs : Bool) (rs imm : Nat)
  deriving DecidableEq, Repr

/-- The C slot (R214). -/
inductive CInst where
  | nop
  | start (mask : Nat) (x2 : Bool) (ns : Bool) (buf rt rn : Nat)
  | preload (mask : Nat) (src : PreSource) (rt rr : Nat)
  | dump (mask : Nat) (close : Bool) (rt rr : Nat)
  | save (mask : Nat) (active : Bool) (slot ra : Nat)
  | restore (mask slot ra : Nat)
  | clear (mask : Nat) (active : Bool)
  | wait (mask : Nat)
  | beam (mask rt rn : Nat)
  | spare (mask rb : Nat)
  deriving DecidableEq, Repr

/-! ## Slot S (R202 to R207) -/

/-- A condition on a field; none where the encoding breaks it. -/
def need {α : Type} (ok : Bool) (x : α) : Option α := if ok then some x else none

/-- The second operand of formats SR and SC. -/
def srcB (w : Nat) (signed : Bool) : Option Src :=
  if bit w 12 then some (.imm (if signed then BitVec.ofInt 32 (sext 12 (bits w 11 0)) else BitVec.ofNat 32 (bits w 11 0)))
  else need (bits w 11 5 = 0) (.reg (bits w 4 0))

/-- The destination of formats SR and SI: scalar, or a mask register of the block profile. -/
def aluDest (cnd : Bool) (w : Nat) : Option Dest :=
  if bit w 23 then need (!cnd && bits w 22 21 = 0) (.m (bits w 20 18)) else some (.s (bits w 22 18))

/-- An ALU instruction. -/
def decodeAlu (cnd : Bool) (op : Op) (w : Nat) : Option SInst :=
  let signed := op = .add || op = .sub
  if op = .shl && bit w 12 && bits w 11 5 ≠ 0 then none
  else (aluDest cnd w).bind fun d => (srcB w signed).map fun b => .alu op d (bits w 17 13) b

/-- The SYS sub-operations (R207). -/
def decodeSys (w : Nat) : Option SInst :=
  let i := bits w 8 0
  let mk := fun op => SInst.sys op (bits w 18 14) (bits w 13 9) i
  match bits w 23 19 with
  | 0 => need (i / 2 = 0) (mk .sysTick)
  | 1 => some (mk .sysSeal)
  | 2 => some (mk .sysCommit)
  | 3 => some (mk .sysFlow)
  | 4 => need (i = 1 || i = 2) (mk .sysMire)
  | 5 => need (i % 4 ≠ 0) (mk .sysTen)
  | 6 => need (16 ≤ i && i ≤ 31) (mk .sysEvt)
  | _ => none

/-- An S-slot word of the block profile, or a conductor instruction (`cnd`). -/
def decodeS (cnd : Bool) (w : Nat) : Option SInst :=
  let target := fun (t : Nat) => cnd || t < 4096
  match bits w 28 24 with
  | 0x00 => need (bits w 23 0 = 0) .nop
  | 0x01 => decodeAlu cnd .add w
  | 0x02 => decodeAlu cnd .sub w
  | 0x03 => decodeAlu cnd .and w
  | 0x04 => decodeAlu cnd .or w
  | 0x05 => decodeAlu cnd .xor w
  | 0x06 => decodeAlu cnd .shl w
  | 0x07 => decodeAlu cnd .shr w
  | 0x08 => decodeAlu cnd .sra w
  | 0x09 => (aluDest cnd w).map fun d => .const .li d (BitVec.ofInt 32 (sext 18 (bits w 17 0)))
  | 0x0A => (aluDest cnd w).bind fun d => need (bits w 17 16 = 0) (.const .lui d (BitVec.ofNat 32 (bits w 15 0 * 65536)))
  | 0x0B => (srcB w true).map fun b => .cmp (bits w 23 21) (bits w 20 18) (bits w 17 13) b
  | 0x0C =>
    if bit w 23 then need (bits w 22 21 = 0 && bits w 15 0 = 0) (.br (some (bits w 20 16)) 0)
    else need (bits w 22 16 = 0 && target (bits w 15 0)) (.br none (bits w 15 0))
  | 0x0D => need (bits w 19 16 = 0 && target (bits w 15 0)) (.brp (bits w 23 21) (bit w 20) (bits w 15 0))
  | 0x0E =>
    if bit w 23 then need (bits w 6 0 ≠ 0) (.loop (.imm (BitVec.ofNat 32 (bits w 22 7))) (bits w 6 0))
    else need (bits w 17 16 = 0 && bits w 15 0 ≠ 0) (.loop (.reg (bits w 22 18)) (bits w 15 0))
  | 0x0F =>
    if bit w 23 then some (.waitTick (.imm (BitVec.ofNat 32 (bits w 22 0))))
    else need (bits w 17 0 = 0) (.waitTick (.reg (bits w 22 18)))
  | 0x10 => need (!cnd && bit w 23 && bits w 22 0 ≤ 31) (.waitEvt (bits w 22 0))
  | 0x11 => need (bit w 23 && bits w 22 0 ≤ 63) (.sig (bits w 22 0))
  | 0x12 =>
    if cnd then need (!bit w 23 && bits w 12 0 = 0) (.cndCsrr (bits w 22 18) (bits w 17 13))
    else (aluDest cnd w).bind fun d => need (bit w 12) (.csrr d (bits w 11 0))
  | 0x13 =>
    if cnd then need (!bit w 23 && bits w 12 0 = 0) (.cndCsrw (bits w 22 18) (bits w 17 13))
    else need (bits w 23 18 = 0 && bit w 12) (.csrw (bits w 11 0) (bits w 17 13))
  | 0x14 => need (bits w 23 0 = 0) .fence
  | 0x15 => need (bits w 23 0 = 0) .frameEnd
  | 0x16 => need (bits w 23 0 = 0) .halt
  | 0x17 => if cnd then decodeSys w else none
  | 0x18 => need cnd (.cndLd (bits w 22 18) (bits w 17 13) (sext 13 (bits w 12 0)))
  | 0x19 => need cnd (.cndSt (bits w 22 18) (bits w 17 13) (sext 13 (bits w 12 0)))
  | _ => none

/-! ## Slot M (R209) -/

/-- An M-slot word. -/
def decodeM (w : Nat) : Option MInst :=
  let vec := bit w 23
  let off := sext 10 (bits w 9 0)
  match bits w 28 24 with
  | 0 => need (bits w 23 0 = 0) .nop
  | 1 => need (!vec || !bit w 22) (.ld vec (bits w 22 18) (bits w 17 13) (bits w 12 10) off)
  | 2 => need (!vec || !bit w 22) (.st vec (bits w 22 18) (bits w 17 13) (bits w 12 10) off)
  | 3 => need (bits w 8 0 = 0) (.desc (bits w 23 22) (bits w 21 19) (if bit w 18 then some (bits w 12 9) else none) (bits w 17 13))
  | 4 => need (bits w 23 3 = 0) (.waitb (bits w 2 0))
  | 5 => need (bits w 20 0 = 0) (.spill (bits w 23 21))
  | _ => none

/-! ## Slot V (R211, R212) -/

/-- A V-slot word. -/
def decodeV (w : Nat) : Option VInst :=
  let d := bits w 23 20
  let i := bits w 5 0
  let bs := bit w 11
  let rs := bits w 10 6
  let mk := fun (op : Op) (ok : Bool) =>
    need (ok && (!bs || bits w 15 12 = 0)) (VInst.op op d (bits w 19 16) (bits w 15 12) bs rs i)
  match bits w 28 24 with
  | 0x00 => need (bits w 23 0 = 0) .nop
  | 0x01 => mk .vadd (i = 0)
  | 0x02 => mk .vsub (i = 0)
  | 0x03 => mk .vmul (i = 0)
  | 0x04 => mk .vmac (i = 0)
  | 0x05 => mk .vmovs (i = 8 || i = 16)
  | 0x06 => mk .vrndc (i ≤ 32)
  | 0x07 => mk .vcmp (i ≤ 5 && d ≠ 0)
  | 0x08 => mk .vsel (i = 0 && !bs)
  | 0x09 => mk .vpack (i = 8 || i = 16)
  | 0x0A => mk .vmaxi (i ≤ 1 && d ≠ 0)
  | 0x0B => mk .vmini (i ≤ 1 && d ≠ 0)
  | 0x0C => mk .vrowmax (i ≤ 1 && d ≠ 0)
  | 0x0D => mk .vrowsum (i = 0 && d ≠ 0 && rs = 0)
  | _ => none

/-! ## Slot C (R214) -/

/-- A C-slot word. -/
def decodeC (w : Nat) : Option CInst :=
  let m := bits w 23 21
  let slotOk := bits w 19 16 ≤ 10 || bits w 19 16 = 15
  match bits w 28 24 with
  | 0 => need (bits w 23 0 = 0) .nop
  | 1 => need (bits w 20 19 ≤ 1 && bits w 6 0 = 0)
      (.start m (bit w 19) (bit w 18) (bits w 17 17) (bits w 16 12) (bits w 11 7))
  | 2 => need (bits w 20 19 ≤ 2 && bits w 18 17 = 0 && bits w 6 0 = 0)
      (.preload m (match bits w 20 19 with | 0 => .zero | 1 => .run | _ => .abs) (bits w 16 12) (bits w 11 7))
  | 3 => need (bits w 19 17 = 0 && bits w 6 0 = 0) (.dump m (bit w 20) (bits w 16 12) (bits w 11 7))
  | 4 => need (slotOk && bits w 10 0 = 0) (.save m (bit w 20) (bits w 19 16) (bits w 15 11))
  | 5 => need (slotOk && !bit w 20 && bits w 10 0 = 0) (.restore m (bits w 19 16) (bits w 15 11))
  | 6 => need (bits w 19 0 = 0) (.clear m (bit w 20))
  | 7 => need (bits w 20 0 = 0) (.wait m)
  | 8 => need (bits w 20 17 = 0 && bits w 6 0 = 0) (.beam m (bits w 16 12) (bits w 11 7))
  | 9 => need (bits w 20 17 = 0 && bits w 11 0 = 0) (.spare m (bits w 16 12))
  | _ => none

/-! ## Names and destinations -/

/-- The mnemonic of an S-slot instruction. -/
def SInst.op (x : SInst) : Op :=
  match x with
  | .nop => .nop
  | .alu o _ _ _ | .const o _ _ | .sys o _ _ _ => o
  | .cmp .. => .cmp
  | .br .. => .br
  | .brp .. => .brp
  | .loop .. => .loop
  | .waitTick _ => .waitTick
  | .waitEvt _ => .waitEvt
  | .sig _ => .sig
  | .csrr .. => .csrr
  | .csrw .. => .csrw
  | .cndCsrr .. => .cndCsrr
  | .cndCsrw .. => .cndCsrw
  | .fence => .fence
  | .frameEnd => .frameEnd
  | .halt => .halt
  | .cndLd .. => .cndLd
  | .cndSt .. => .cndSt

/-- The mnemonic of an M-slot instruction. -/
def MInst.op (x : MInst) : Op :=
  match x with
  | .nop => .nop
  | .ld .. => .mvLd
  | .st .. => .mvSt
  | .desc .. => .mvDesc
  | .waitb _ => .mvWaitb
  | .spill _ => .mvSpill

/-- The mnemonic of a V-slot instruction. -/
def VInst.name (x : VInst) : Op :=
  match x with
  | .nop => .nop
  | .op o .. => o

/-- The mnemonic of a C-slot instruction. -/
def CInst.op (x : CInst) : Op :=
  match x with
  | .nop => .nop
  | .start .. => .cxStart
  | .preload .. => .cxPreload
  | .dump _ close .. => if close then .cxDumpClose else .cxDumpWriteback
  | .save .. => .cxSave
  | .restore .. => .cxRestore
  | .clear .. => .cxClear
  | .wait _ => .cxWait
  | .beam .. => .cbStart
  | .spare .. => .cellSpare

/-- The registers an S-slot instruction writes; what s0 and p0 discard counts as no write. -/
def SInst.dests (x : SInst) : List Dest :=
  let keep := fun (d : Dest) => if d = .s 0 || d = .p 0 then [] else [d]
  match x with
  | .alu _ d _ _ | .const _ d _ => keep d
  | .cmp pd _ _ _ => keep (.p pd)
  | .csrr d _ => keep d
  | .cndCsrr rd _ | .cndLd rd _ _ => keep (.s rd)
  | _ => []

/-- The registers an M-slot instruction writes. -/
def MInst.dests (x : MInst) : List Dest :=
  match x with
  | .ld true rd _ _ _ => [.v rd]
  | .ld false rd _ _ _ => if rd = 0 then [] else [.s rd]
  | _ => []

/-- The registers a V-slot instruction writes. -/
def VInst.dests (x : VInst) : List Dest :=
  match x with
  | .nop => []
  | .op o vd .. =>
    if o = .vcmp then [.s (2 * vd)]
    else if o = .vmaxi || o = .vmini || o = .vrowmax || o = .vrowsum then [.s (2 * vd), .s (2 * vd + 1)]
    else [.v vd]

end Sys2Proof.Machine
end

