-- ==== Sys2Proof/Machine/Vector.lean ====
section
/-! DEFINITION. The vector unit (R172 to R175, R211 to R213): lanes, exponents, clamps and reductions. -/

namespace Sys2Proof.Machine

/-- round_hu (R173): half up. -/
def roundHu (x : Int) (e : Nat) : Int := if e = 0 then x else (x + (2 ^ (e - 1) : Nat)) / (2 ^ e : Nat)

/-- The lanes of a vector register as two's complement numbers. -/
def VReg.ints (v : VReg) : List Int := v.lanes.map BitVec.toInt

/-- A number clamped to `w` bits, and whether that changed it. -/
def clampW (w : Nat) (x : Int) : Int × Bool :=
  let y := clampInt (-((2 ^ (w - 1) : Nat) : Int)) ((2 ^ (w - 1) : Nat) - 1) x
  (y, decide (y ≠ x))

/-- What a vector instruction leaves: a vector register, scalars, and the lanes it clamped. -/
structure VOut where
  vec  : Option (Nat × VReg) := none
  scal : List (Nat × Word) := []
  sat  : Nat := 0

/-- A lane-wise result, clamped to 32 bits (R172). -/
def lanewise (vd e : Nat) (l : List Int) : VOut :=
  let c := l.map (clampW 32)
  { vec := some (vd, ⟨c.map fun x => BitVec.ofInt 32 x.1, e⟩), sat := (c.filter (·.2)).length }

/-- The bits a two's complement value needs. -/
def bitsNeeded (x : Int) : Nat := if x < 0 then log2 (2 * ((-x).toNat - 1) + 1) + 1 else log2 (2 * x.toNat + 1) + 1

/-- `w`-bit values packed into lanes in order, lowest first; the remaining lanes read 0 (R174). -/
def packLanes (w : Nat) (l : List Int) : List Word :=
  (List.range 32).map fun k =>
    let n := 32 / w
    BitVec.ofNat 32 (((List.range n).map fun m => toBits w (nth l (n * k + m) 0) * 2 ^ (w * m)).sum)

/-- VMOVS to width `w` (R174). -/
def vmovs (vd w : Nat) (a : VReg) : VOut :=
  let e := ((a.ints.map bitsNeeded).foldl max 0) - w
  let r := a.ints.map fun x => clampW w (roundHu x e)
  { vec := some (vd, ⟨packLanes w (r.map (·.1)), min 32 (a.e + e)⟩), sat := (r.filter (·.2)).length }

/-- VPACK to width `w` (R212). -/
def vpack (vd w : Nat) (a : VReg) (b : List Int) : VOut :=
  let r := (a.ints ++ b).map (clampW w)
  { vec := some (vd, ⟨packLanes w (r.map (·.1)), a.e⟩), sat := (r.filter (·.2)).length }

/-- The conditions of VCMP, all signed. -/
def vcond (c : Nat) (x y : Int) : Bool :=
  match c with
  | 0 => x = y
  | 1 => x ≠ y
  | 2 => decide (x < y)
  | 3 => decide (y ≤ x)
  | 4 => decide (x ≤ y)
  | _ => decide (y < x)

/-- The best value of a list under `better`, with its index; among equal ones the first (R175). -/
def bestOf (better : Int → Int → Bool) (l : List Int) (k : Nat) (best : Int × Nat) : Int × Nat :=
  match l with
  | [] => best
  | x :: r => bestOf better r (k + 1) (if better x best.1 then (x, k) else best)

/-- A reduction to a value and an index, into a pair of scalars; `run` compares with what the pair holds (R175). -/
def reduce (better : Int → Int → Bool) (l : List Int) (vd base : Nat) (run : Bool) (old : Int) : VOut :=
  match l with
  | [] => {}
  | x :: r =>
    let b := bestOf better r 1 (x, 0)
    if run && !better b.1 old then {}
    else { scal := [(2 * vd, BitVec.ofInt 32 b.1), (2 * vd + 1, BitVec.ofNat 32 (base + b.2))] }

/-- m(V) of the 16 complex lanes. -/
def VReg.mags (v : VReg) : List Int :=
  (List.range 16).map fun k => (rowMag (nth v.ints (2 * k) 0) (nth v.ints (2 * k + 1) 0) : Int)

/-- What a V-slot instruction leaves, from the registers before the bundle. -/
def vectorOut (q : Seq) (x : VInst) : VOut :=
  match x with
  | .nop => {}
  | .op o vd va vb bs rs imm =>
    let a := q.v.at va {}
    let sreg := fun n => if n = 0 then (0 : Word) else q.s.at n 0
    let b := if bs then List.replicate 32 (sreg rs).toInt else (q.v.at vb {}).ints
    let base := (sreg rs).toNat
    let run := imm % 2 = 1
    let old := sreg (2 * vd)
    match o with
    | .vadd => lanewise vd a.e (List.zipWith (· + ·) a.ints b)
    | .vsub => lanewise vd a.e (List.zipWith (· - ·) a.ints b)
    | .vmul => lanewise vd a.e (List.zipWith (· * ·) a.ints b)
    | .vmac => lanewise vd a.e (List.zipWith (· + ·) (q.v.at vd {}).ints (List.zipWith (· * ·) a.ints b))
    | .vmovs => vmovs vd imm a
    | .vrndc => lanewise vd (min 32 (a.e + imm)) (a.ints.map fun x => roundHu x imm)
    | .vcmp =>
      let l := List.zipWith (vcond imm) a.ints b
      { scal := [(2 * vd, BitVec.ofNat 32 ((l.mapIdx fun k c => b2n c * 2 ^ k).sum))] }
    | .vsel =>
      let l := (a.ints.zip b).mapIdx fun k xy => if bit (sreg rs).toNat k then xy.1 else xy.2
      lanewise vd a.e l
    | .vpack => vpack vd imm a b
    | .vmaxi => reduce (fun x y => decide (y < x)) a.ints vd base run old.toInt
    | .vmini => reduce (fun x y => decide (x < y)) a.ints vd base run old.toInt
    | .vrowmax => reduce (fun x y => decide (y < x)) a.mags vd base run (old.toNat : Int)
    | .vrowsum =>
      let sum := old.toNat + 2 ^ 32 * (sreg (2 * vd + 1)).toNat + (a.mags.foldl (· + ·) 0).toNat
      let top := 2 ^ 64 - 1
      let v := min sum top
      { scal := [(2 * vd, BitVec.ofNat 32 v), (2 * vd + 1, BitVec.ofNat 32 (v / 2 ^ 32))], sat := b2n (decide (top < sum)) }
    | _ => {}

end Sys2Proof.Machine
end

