-- ==== Sys2Proof/Machine/Skaiq.lean ====
section
/-! DEFINITION. What a sequencer does when it issues (R177 to R199, R203 to R220): the bundle at its PC is fetched,
decoded, checked, stalled or carried out, for the blocks and the conductor contexts. -/

namespace Sys2Proof.Machine

/-! ## Registers (R178 to R180) -/

/-- Scalar register `n`. -/
def Seq.sr (q : Seq) (n : Nat) : Word := if n = 0 then 0 else q.s.at n 0

/-- Predicate `n`; p0 reads 1. -/
def Seq.pr (q : Seq) (n : Nat) : Bool := n = 0 || bit q.p.toNat n

/-- A second operand. -/
def Seq.src (q : Seq) (x : Src) : Word :=
  match x with
  | .reg n => q.sr n
  | .imm v => v

/-- A scalar register written; s0 discards it. -/
def Seq.setS (q : Seq) (n : Nat) (v : Word) : Seq := if n = 0 then q else { q with s := q.s.put n v 0 }

/-- A predicate written; p0 discards it. -/
def Seq.setP (q : Seq) (n : Nat) (v : Bool) : Seq :=
  if n = 0 then q else { q with p := BitVec.ofNat 8 (setBits q.p.toNat n n (b2n v)) }

/-- A destination of an S-slot instruction written. -/
def Seq.put (q : Seq) (d : Dest) (x : Word) : Seq :=
  match d with
  | .s n => q.setS n x
  | .m n => { q with masks := q.masks.put n x 0 }
  | _ => q

/-! ## Scalar operations (R203) -/

/-- The ALU. -/
def aluOp (o : Op) (a b : Word) : Word :=
  match o with
  | .add => a + b
  | .sub => a - b
  | .and => a &&& b
  | .or => a ||| b
  | .xor => a ^^^ b
  | .shl => a <<< (b.toNat % 32)
  | .shr => a >>> (b.toNat % 32)
  | .sra => a.sshiftRight (b.toNat % 32)
  | _ => 0

/-- The conditions of CMP. -/
def cmpOp (c : Nat) (a b : Word) : Bool :=
  match c with
  | 0 => a = b
  | 1 => a ≠ b
  | 2 => decide (a.toInt < b.toInt)
  | 3 => decide (b.toInt ≤ a.toInt)
  | 4 => decide (a.toNat < b.toNat)
  | 5 => decide (b.toNat ≤ a.toNat)
  | 6 => (a &&& b) ≠ 0
  | _ => (a &&& b) = 0

/-! ## The order of bundles (R188, R189) -/

/-- The last bundle of a body has issued: another turn, or on after it; the loops left and the next PC. -/
def loopStep (l : List Loop) (pc : Nat) : List Loop × Nat :=
  match l with
  | [] => ([], pc + 1)
  | x :: r =>
    if x.last ≠ pc then (x :: r, pc + 1)
    else if 1 < x.left then ({ x with left := x.left - 1 } :: r, x.first)
    else loopStep r pc

/-- A taken branch ends the loops whose body its target leaves. -/
def leaveLoops (l : List Loop) (t : Nat) : List Loop :=
  let inside := fun (x : Loop) => decide (x.first ≤ t ∧ t ≤ x.last)
  match l with
  | [] => []
  | x :: r => if inside x then x :: r else r.filter inside

/-- An issued bundle moves the PC: a branch taken one bundle ago acts now, or the next bundle follows. -/
def Seq.advance (q : Seq) : Seq :=
  match q.target with
  | some t => { q with pc := t, loops := leaveLoops q.loops t, target := none, delay := false }
  | none => let (l, pc) := loopStep q.loops q.pc; { q with pc := pc, loops := l, delay := false }

/-- A LOOP of `count` turns up to bundle `last` issues; a count of 0 skips the body. -/
def Seq.enterLoop (q : Seq) (count last : Nat) : Seq :=
  if count = 0 then let (l, pc) := loopStep q.loops last; { q with pc := pc, loops := l, delay := false }
  else { q with pc := q.pc + 1, loops := ⟨q.pc + 1, last, count⟩ :: q.loops, delay := false }

/-- Control passes on from an S-slot instruction that acts; `q` holds the registers before the bundle, and a branch to a
register takes its value modulo `span` (R204). -/
def Seq.flow (q : Seq) (span : Nat) (x : SInst) (act : Bool) (now : Seq) : Seq :=
  match x with
  | .br ra t =>
    let a := { now.advance with delay := true }
    if act then { a with target := some (match ra with | some r => (q.sr r).toNat % span | none => t) } else a
  | .brp ps neg t =>
    let a := { now.advance with delay := true }
    if act && (q.pr ps != neg) then { a with target := some t } else a
  | .loop c len => if act then now.enterLoop ((q.src c).toNat % 65536) (q.pc + len) else now.advance
  | .frameEnd => if act then { now.advance with ending := true } else now.advance
  | .halt => if act then { now.advance with st := .halted } else now.advance
  | _ => now.advance

/-- R188 and R189 broken: a branch, LOOP or FRAME.END at the end of a body, a branch or LOOP in a delay bundle. -/
def Seq.misplaced (q : Seq) (x : SInst) : Bool :=
  let jump := match x with | .br .. | .brp .. | .loop .. => true | _ => false
  (q.delay && jump) || ((jump || x = .frameEnd) && q.loops.any fun l => l.last = q.pc)

/-- The loop stack is full. -/
def Seq.loopsFull (q : Seq) (x : SInst) : Bool := match x with | .loop .. => decide (4 ≤ q.loops.length) | _ => false

/-! ## Memory of a block program (R182, R194, R209) -/

/-- The internal address that a program address reaches, aligned to `n` bytes; none raises ADDR. The upper SRAM and
the context memories of a beam block belong to its banks (R156). -/
def State.progAddr (s : State) (i a n : Nat) : Option Nat :=
  let r := i / 12
  let b := i % 12
  let beam := s.on blkBeamEn r b
  if a % n ≠ 0 then none
  else if a < 0x200000 then (if beam && 0x100000 ≤ a then none else some (blockBase r b + a))
  else if 0x800000 ≤ a ∧ a < 0x900000 then (if beam then none else some (blockBase r b + a))
  else if 0x1000000 ≤ a ∧ a < 0x3000000 then some (regionBase r + (a - 0x1000000))
  else none

/-- The program address of a move: RA plus an offset in units of `n` bytes, modulo 2^32. -/
def Seq.moveAddr (q : Seq) (ra : Nat) (off : Int) (n : Nat) : Nat := (q.sr ra + BitVec.ofInt 32 (off * n)).toNat

/-- A word of the range draws POISON when it is read. -/
def State.badRange (s : State) (a n : Nat) : Bool :=
  (touched a n).any fun w => match s.mark (8 * w.1) with | .poison | .unwritten | .uncorrectable => true | _ => false

/-- The size of a move. -/
def moveSize (vec : Bool) : Nat := if vec then 128 else 4

/-! ## Block-local CSRs (R181, R196) -/

/-- A register of the maps takes writes at all. -/
def RegDef.writable (r : RegDef) : Bool := r.fields.any fun f => f.acc ≠ .ro

/-- The block's own register that a CSR number names. -/
def ownReg (i csr : Nat) : Option RegHit :=
  if 0x400 ≤ csr ∧ csr < 0x440 then findReg (0x10010000 + i / 12 * 0x1000000 + i % 12 * 0x100 + 4 * (csr - 0x400)) else none

/-- A CSR may be read. -/
def csrReadable (i csr : Nat) : Bool := csr ≤ 6 || (ownReg i csr).isSome

/-- A program may write a register of its own block: fields it owns, and what its tenancy's function may. -/
def State.ownWritable (s : State) (i : Nat) (h : RegHit) : Bool :=
  h.reg.writable && (h.reg.base = blkRedoBudget.base || h.reg.base = blkBufrel.base || s.mayWriteReg (s.seqWho i) h)

/-- A CSR may be written. -/
def State.csrWritable (s : State) (i csr : Nat) : Bool :=
  csr = 6 || (match ownReg i csr with | some h => s.ownWritable i h | none => false)

/-- TICKPHASE as a sequencer sees it: core cycles since the latest FT, exactly 4 at the first issue of a frame (R186,
R388). -/
def State.phase (s : State) (q : Seq) : Nat := if q.first then 4 else s.cycle - s.tick.ftCycle

/-- What a CSR reads. -/
def State.csrRead (s : State) (i csr : Nat) : Word :=
  let q := s.seq i
  match csr with
  | 0 => BitVec.ofNat 32 s.frame
  | 1 => BitVec.ofNat 32 (s.frame / 2 ^ 32)
  | 2 => BitVec.ofNat 32 q.slack
  | 3 => BitVec.ofNat 32 (s.phase q)
  | 4 => BitVec.ofNat 32 (s.seqTen i)
  | 5 => BitVec.ofNat 32 (i / 12 * 256 + i % 12)
  | 6 => q.evt
  | _ => match ownReg i csr with
    | some h => BitVec.ofNat 32 (s.peekReg (s.seqWho i) h)
    | none => 0

/-- A CSRW of the block's program acts. -/
def State.csrWrite (s : State) (i csr : Nat) (v : Word) : State :=
  if csr = 6 then s.setSeq i { s.seq i with evt := (s.seq i).evt &&& ~~~v }
  else match ownReg i csr with
    | some h => s.writeReg (s.seqWho i) h v.toNat
    | none => s

/-! ## Store records (R217, R219) -/

/-- Bytes of a store record: a marked word's are open. -/
def State.readRecord (s : State) (i a : Nat) : State × List Byte :=
  let (s1, l) := s.engineRead (blockBase (i / 12) (i % 12) + a) 64
  let (s1, l) := s1.raceStores i (blockBase (i / 12) (i % 12) + a) l
  if l.any (·.2) then
    (s1.drawn, l.mapIdx fun k x => if x.2 then BitVec.ofNat 8 (Config.freeNat s1.fresh k) else x.1)
  else (s1, l.map (·.1))

/-- One of the four flows of a record: EN and the flow. -/
def recFlow (d : List Byte) (k : Nat) : Option Nat :=
  let v := dfield d (32 + 4 * k) 4
  if bit v 31 then some (v % 2 ^ 18) else none

/-- The fields of a store record. -/
def parseRecord (d : List Byte) : Record :=
  { vBase := dfield d 0 6, vsh := dfield d 6 1 % 8, shape := dfield d 6 1 / 8 % 4, qlog2 := dfield d 6 1 / 32
    kM1 := dfield d 7 1 % 16, fmt := dfield d 7 1 / 16 % 4, cBase := dfield d 8 6, nInt := dfield d 14 2
    fBase := dfield d 16 6, merge := dfield d 22 2, norm := dfield d 24 6, rowrec := dfield d 30 2
    flows := (List.range 4).map (recFlow d) }

/-- A record holds a QLOG2 or a format that R219 marks invalid. -/
def Record.invalid (x : Record) : Bool := 4 ≤ x.qlog2 || 2 ≤ x.fmt

/-- Every byte of a range lies in the DRAM of tenancy `t`. -/
def State.inDram (s : State) (t a n : Nat) : Bool :=
  (List.range n).all fun k => (match memKind (a + k) with | .dram _ => true | _ => false) && s.dramTen (a + k) = t

/-- The entries of a running store that sub-tile `q` uses all lie in the tenancy's DRAM. -/
def State.storeReached (s : State) (t : Nat) (rec : Record) (cOut q : Nat) (values : Bool) : Bool :=
  s.inDram t (flagAddr rec cOut q) 4 && (keptPositions rec.shape q).all fun p =>
    s.inDram t (countAddr rec cOut (posIndex q p)) 2 && (!values || s.inDram t (valueAddr rec cOut (posIndex q p)) 8)

/-- The normalisation entries that a close of sub-tile `q` writes lie in the tenancy's DRAM. -/
def State.normReached (s : State) (t : Nat) (rec : Record) (cOut q : Nat) : Bool :=
  let x := subOf q
  x.a ≠ x.b || x.r ≠ x.s || shapeOf rec.shape q = 3 || s.inDram t (rec.norm + 8192 * cOut + 4 * x.row 0) 64

/-- A model array of CX.PRELOAD ABS lies in the block's SRAM, a region pool or the tenancy's DRAM (R133, R217). -/
def State.absReached (s : State) (i t a : Nat) : Bool :=
  let own := blockBase (i / 12) (i % 12)
  (List.range 2048).all fun k =>
    match memKind (a + k) with
    | .dram _ => s.dramTen (a + k) = t
    | .pool _ => true
    | .block .. => own ≤ a + k && decide (a + k < own + 0x200000)
    | _ => false

/-! ## Cells of a mask (R144, R191, R215) -/

/-- The cells of a mask. -/
def maskCells (m : Word) : List Nat := (List.range 32).filter fun c => bit m.toNat c

/-- The spare that stands in for a retired cell already, while it is declared (R144; log entry 125). -/
def State.standIn (s : State) (i c : Nat) : Option Nat :=
  let x := s.stand.at (32 * i + c) 0
  if x ≠ 0 && bit (s.get blkSpareMask (i / 12) (i % 12)) (x - 1) && !s.cellRetired i (x - 1) then some (x - 1) else none

/-- The cells that work for a mask, each with its rank and the cell it is named by: a retired cell keeps its stand-in, or
takes the lowest of the idle spares; without one its rank stays idle. -/
def State.placeCells (s : State) (i : Nat) (l : List Nat) (spares : List Nat) (rank : Nat) : List (Nat × Nat × Nat) :=
  match l with
  | [] => []
  | c :: r =>
    if !s.cellRetired i c then (rank, c, c) :: s.placeCells i r spares (rank + 1)
    else match s.standIn i c, spares with
      | some x, _ => (rank, x, c) :: s.placeCells i r spares (rank + 1)
      | none, x :: xs => (rank, x, c) :: s.placeCells i r xs (rank + 1)
      | none, [] => s.placeCells i r [] (rank + 1)

/-- The placing of a mask: idle spares that the mask does not name itself stand in. -/
def State.placing (s : State) (i : Nat) (m : Word) : List (Nat × Nat × Nat) :=
  s.placeCells i (maskCells m) ((s.idleSpares i).filter fun c => !bit m.toNat c) 0

/-- The placed cells of a mask, each with its rank. -/
def State.placed (s : State) (i : Nat) (m : Word) : List (Nat × Nat) := (s.placing i m).map fun x => (x.1, x.2.1)

/-- The spares that a mask takes stand in from now on. -/
def State.noteStand (s : State) (i : Nat) (m : Word) : State :=
  { s with stand := (s.placing i m).foldl (fun l x => if x.2.1 = x.2.2 then l else l.put (32 * i + x.2.2) (x.2.1 + 1) 0) s.stand }

/-- A cell's queue is full. -/
def State.cellFull (s : State) (i c : Nat) : Bool := decide (4 ≤ (s.cell (32 * i + c)).queue.length)

/-- CX.WAIT may complete: queues empty, runs ended, no write withheld. -/
def State.waitOver (s : State) (i : Nat) (m : Word) : Bool :=
  ((maskCells m) ++ (s.placed i m).map (·.2)).all fun c =>
    (s.cell (32 * i + c)).idle && !s.redos.any fun d => d.blk = i && d.cell = c

/-- An operation joins the queue of each placed cell. -/
def State.pushOps (s : State) (i : Nat) (l : List (Nat × Nat)) (f : Nat → Nat → CellOp) : State :=
  l.foldl (fun t rc =>
    let k := 32 * i + rc.2
    let c := t.cell k
    t.setCell k { c with queue := c.queue ++ [f rc.1 rc.2] }) s

/-- The mask a C-slot instruction names, as its bundle sees it (R193). -/
def CInst.mask (q : Seq) (x : CInst) : Word :=
  match x with
  | .nop => 0
  | .start m .. | .preload m .. | .dump m .. | .save m .. | .restore m .. | .clear m _ | .wait m | .beam m .. | .spare m _ =>
    q.seen.at m 0

/-- The address of an image of rank `r` in cell `c` (R214, R218). -/
def Seq.imageAddr (q : Seq) (i slot ra r c : Nat) : Nat :=
  if slot = 15 then 64 * (q.sr ra).toNat + 2944 * r
  else blockBase (i / 12) (i % 12) + 0x800000 + c * 0x8000 + 2944 * slot

/-- The fields of a tile word: Q and c_out. -/
def tileQ (w : Word) : Nat := w.toNat % 2 ^ 14

/-- The output channel of a tile word. -/
def tileC (w : Word) : Nat := bits w.toNat 25 14

/-- N of a range word. -/
def rangeN (w : Word) : Nat := w.toNat / 65536

/-- T0 of a range word. -/
def rangeT (w : Word) : Nat := w.toNat % 65536

/-- The store record an instruction reads. -/
def State.peekRecord (s : State) (i a : Nat) : Record := parseRecord (s.readRecord i a).2

/-- What a C-slot instruction raises at issue (R217). -/
def State.cellFault? (s : State) (i : Nat) (q : Seq) (x : CInst) : Option Cause :=
  let m := x.mask q
  let cells := maskCells m
  let n := cells.length
  let t := s.seqTen i
  let ill := fun (b : Bool) => if b then some Cause.illegal else none
  let tooFar := fun (rt : Nat) => decide (8447 < tileQ (q.sr rt) + n - 1) || decide (bits (q.sr rt).toNat 31 26 ≠ 0)
  let ranks := List.range n
  let image := fun (slot ra : Nat) =>
    if slot = 15 then
      (if ranks.all fun r => s.inDram t (q.imageAddr i 15 ra r 0) 2944 then none else some Cause.addr)
    else ill (s.on blkBeamEn (i / 12) (i % 12))
  let aligned := fun (rr : Nat) => (q.sr rr).toNat % 64 = 0 && decide ((q.sr rr).toNat < 0x200000)
  if n = 0 then none
  else match x with
  | .start _ _ _ _ rt rn => ill (tooFar rt || decide (s.lenL < rangeT (q.sr rn) + rangeN (q.sr rn)))
  | .beam _ rt rn =>
    let w := (q.sr rt).toNat
    ill (decide (s.lenL < rangeT (q.sr rn) + rangeN (q.sr rn))
      || decide (s.get blkBeamNbm1 (i / 12) (i % 12) + 1 < bits w 7 0 + 16 * n)
      || decide (s.beamInputs (i / 12) (i % 12) / 16 < bits w 14 8 + bits w 21 15))
  | .preload _ src rt rr =>
    if tooFar rt then some .illegal
    else if src = .zero then none
    else if !aligned rr then some .addr
    else
      let rcd := s.peekRecord i (q.sr rr).toNat
      let ok := if rcd.invalid then true else if src = .abs then ranks.all fun r => s.absReached i t (rcd.vBase + 2048 * r)
        else ranks.all fun r => s.storeReached t rcd (tileC (q.sr rt)) (tileQ (q.sr rt) + r) true
      if rcd.invalid then some .illegal else if ok then none else some .addr
  | .dump _ close rt rr =>
    if tooFar rt then some .illegal
    else if !aligned rr then some .addr
    else
      let rcd := s.peekRecord i (q.sr rr).toNat
      let c := tileC (q.sr rt)
      let q0 := tileQ (q.sr rt)
      if close && (rcd.invalid || rcd.nInt = 0) then some .illegal
      else if ranks.all fun r => s.storeReached t rcd c (q0 + r) (!close) && (!close || s.normReached t rcd c (q0 + r)) then none
      else some .addr
  | .save _ _ slot ra => image slot ra
  | .restore _ slot ra => image slot ra
  | _ => none

/-- A C-slot instruction acts (R218). -/
def State.cellAct (s : State) (i : Nat) (q : Seq) (x : CInst) : State :=
  let m := x.mask q
  let l := s.placed i m
  let s := match x with | .nop | .wait _ | .spare .. => s | _ => s.noteStand i m
  match x with
  | .nop | .wait _ => s
  | .start _ x2 ns buf rt rn =>
    let w := q.sr rt
    let s1 := s.pushOps i l fun r _ => .start (!ns) (if x2 then .x2 else .x) buf (tileQ w + r) (tileC w)
      (rangeN (q.sr rn)) (rangeT (q.sr rn)) q.starts
    s1.setSeq i { s1.seq i with starts := q.starts + 1 }
  | .beam _ rt rn =>
    let w := (q.sr rt).toNat
    s.pushOps i l fun r _ => .beam (bits w 31 22) (bits w 21 15) (bits w 14 8) (bits w 7 0 + 16 * r)
      (rangeN (q.sr rn)) (rangeT (q.sr rn))
  | .preload _ src rt rr =>
    let w := q.sr rt
    if m = 0 then s
    else
      let (s1, rcd) := if src = .zero then (s, none) else
        let (t, d) := s.readRecord i (q.sr rr).toNat
        (t, some (parseRecord d))
      s1.pushOps i l fun r _ => .preload src r (tileQ w + r) (tileC w) rcd
  | .dump _ close rt rr =>
    let w := q.sr rt
    if m = 0 then s
    else
      let (s1, d) := s.readRecord i (q.sr rr).toNat
      s1.pushOps i l fun r _ => .dump close r (tileQ w + r) (tileC w) (parseRecord d)
  | .save _ active slot ra => s.pushOps i l fun r c => .save active (q.imageAddr i slot ra r c)
  | .restore _ slot ra => s.pushOps i l fun r c => .restore (q.imageAddr i slot ra r c)
  | .clear _ active => s.pushOps i l fun _ _ => .clear active
  | .spare _ rb =>
    (s.set blkSpareMask m.toNat (i / 12) (i % 12)).set blkRedoBudgetCycles (q.sr rb).toNat (i / 12) (i % 12)

/-! ## Moves of a block (R209, R210) -/

/-- What an M-slot instruction raises at issue. -/
def State.moveFault? (s : State) (i : Nat) (q : Seq) (x : MInst) : Option Cause :=
  match x with
  | .ld vec _ ra _ off =>
    (match s.progAddr i (q.moveAddr ra off (moveSize vec)) (moveSize vec) with
      | none => some .addr
      | some a => if s.badRange a (moveSize vec) then some .dataEcc else none)
  | .st vec _ ra _ off => if (s.progAddr i (q.moveAddr ra off (moveSize vec)) (moveSize vec)).isNone then some .addr else none
  | .desc _ _ _ ra => if (q.sr ra).toNat % 64 = 0 && decide ((q.sr ra).toNat < 0x200000) then none else some .addr
  | _ => none

/-- The cycles until the data of an MV.LD or MV.ST at a program address are in place (R209). -/
def portDelay (load vec : Bool) (a : Nat) : Nat :=
  let k := if a < 0x200000 then 0 else if a < 0x1000000 then 1 else 2
  if !load then nth [4, 12, 24] k 0 else if vec then nth [8, 20, 40] k 0 else nth [6, 12, 32] k 0

/-- The operations that the cells and the move engines have under way reach their ends: what a racing MV.LD may already see. -/
def State.settled (s : State) (i : Nat) : State :=
  let s1 := s.engines.foldl (fun a (e : Nat × Engine) => e.2.jobs.foldl (fun t j => t.finishJob e.1 j 0) a) s
  (s1.cells.filter fun e => e.1 / 32 = i).foldl (fun a e => a.finishHead e.1) s1

/-- What an MV.LD of block `i` finds: in each aligned 32-byte unit the old or the new content under a writer (R193). -/
def State.loaded (s : State) (i a n : Nat) : List Byte :=
  let busy := s.engines.any (fun (e : Nat × Engine) => !e.2.jobs.isEmpty)
    || s.cells.any fun e => e.1 / 32 = i && (match e.2 with | some c => !c.queue.isEmpty | none => false)
  s.mixed a (s.oldBytes i a n) (if busy then (s.settled i).bytes a n else s.bytes a n)

/-- The memory an MV.LD reads is read, with what the reading logs. -/
def State.moveRead (s : State) (i : Nat) (q : Seq) (x : MInst) : State :=
  match x with
  | .ld vec _ ra _ off =>
    (match s.progAddr i (q.moveAddr ra off (moveSize vec)) (moveSize vec) with
      | none => s
      | some a => (s.readWords a (moveSize vec)).1.drawn)
  | _ => s

/-- What an MV.LD leaves in a register. -/
def State.moveLoad (s : State) (i : Nat) (q : Seq) (x : MInst) (now : Seq) : Seq :=
  match x with
  | .ld vec rd ra _ off =>
    (match s.progAddr i (q.moveAddr ra off (moveSize vec)) (moveSize vec) with
      | none => now
      | some a =>
        let l := s.loaded i a (moveSize vec)
        let w := fun (k : Nat) => BitVec.ofNat 32 (leVal (slice l (4 * k) 4))
        if vec then { now with v := now.v.put rd ⟨(List.range 32).map w, 0⟩ {} } else now.setS rd (w 0))
  | _ => now

/-- An MV.LD or MV.ST is under way (R209); what is in place is dropped. -/
def State.underWay (s : State) (i : Nat) (m : PortMove) : State :=
  let q := s.seq i
  s.setSeq i { q with ports := m :: q.ports.filter fun x => decide (s.cycle < x.due) }

/-- An M-slot instruction acts on the rest of the chip. -/
def State.moveAct (s : State) (i : Nat) (q : Seq) (x : MInst) : State :=
  match x with
  | .ld vec _ ra bar off =>
    s.underWay i { bar := bar, due := s.cycle + portDelay true vec (q.moveAddr ra off (moveSize vec)) }
  | .st vec rd ra bar off =>
    (match s.progAddr i (q.moveAddr ra off (moveSize vec)) (moveSize vec) with
      | none => s
      | some a =>
        let d := if vec then (q.v.at (rd % 16) {}).lanes.flatMap fun w => leBytes 4 w.toNat else leBytes 4 (q.sr rd).toNat
        (s.underWay i { bar := bar, due := s.cycle + portDelay false vec (q.moveAddr ra off (moveSize vec)), addr := a
                        old := s.bytes a (moveSize vec) }).store a d)
  | .desc eng bar line ra =>
    let e := 8 + eng
    let en := s.engine e
    let s1 := s.setEngine e { en with waiting := en.waiting ++ [.block i (q.sr ra).toNat bar line] }
    s1.setSeq i { s1.seq i with moves := (s1.seq i).moves ++ [bar] }
  | .spill mask =>
    let cells := (s.placed i (q.masks.at mask 0)).filter fun rc =>
      let c := s.cell (32 * i + rc.2)
      (c.get c.active).mode = .x2
    (s.noteStand i (q.masks.at mask 0)).pushOps i cells fun _ c => .spill (s.cell (32 * i + c)).active
  | _ => s

/-! ## Stalls of a block (R190) -/

/-- The C slot stalls: a full queue, or a CX.WAIT that is not over. -/
def State.cellStalls (s : State) (i : Nat) (q : Seq) (x : CInst) : Bool :=
  match x with
  | .nop => false
  | .wait _ => !s.waitOver i (x.mask q)
  | _ => (s.placed i (x.mask q)).any fun rc => s.cellFull i rc.2

/-- The MV.LDs and MV.STs whose data are not in place yet. -/
def State.portsOpen (s : State) (q : Seq) : List PortMove := q.ports.filter fun x => decide (s.cycle < x.due)

/-- The M slot stalls: a full move queue, a barrier still counting, a full cell queue under MV.SPILL. -/
def State.moveStalls (s : State) (i : Nat) (q : Seq) (x : MInst) : Bool :=
  let full := decide (16 ≤ q.moves.length + (s.portsOpen q).length)
  match x with
  | .nop => false
  | .waitb b => full || q.moves.contains b || (s.portsOpen q).any fun m => m.bar = b
  | .spill m => full || (s.placed i (q.masks.at m 0)).any fun rc => s.cellFull i rc.2
  | _ => full

/-- The S slot stalls on WAIT.TICK or WAIT.EVT, and on a block's FENCE while a store is not visible (R205). -/
def State.waitStalls (s : State) (q : Seq) (x : SInst) : Bool :=
  match x with
  | .waitTick v => decide (s.phase q < (q.src v).toNat)
  | .waitEvt e => !bit q.evt.toNat e
  | .fence => (s.portsOpen q).any fun m => !m.old.isEmpty
  | _ => false

/-! ## What S-slot instructions leave -/

/-- The registers an S-slot instruction of the block profile leaves. -/
def State.scalarOut (s : State) (i : Nat) (q : Seq) (x : SInst) (now : Seq) : Seq :=
  match x with
  | .alu o d ra b => now.put d (aluOp o (q.sr ra) (q.src b))
  | .const _ d v => now.put d v
  | .cmp pd c ra b => now.setP pd (cmpOp c (q.sr ra) (q.src b))
  | .csrr d csr => now.put d (s.csrRead i csr)
  | .waitEvt e => { now with evt := now.evt &&& ~~~(1#32 <<< e) }
  | _ => now

/-- SIG (R117, R204): the source is raised, and a freeze requested where `MIRE.CFG` names the number. -/
def State.signal (s : State) (ten n : Nat) : State :=
  let s1 := s.raise (448 + n)
  if s1.on mireCfgSigEn && s1.get mireCfgSig = n then s1.mireAsk ten false else s1

/-- What an S-slot instruction does to the rest of the chip. -/
def State.scalarAct (s : State) (i : Nat) (q : Seq) (x : SInst) : State :=
  match x with
  | .sig n => s.signal (s.seqTen i) n
  | .csrw csr ra => s.csrWrite i csr (q.sr ra)
  | .frameEnd => s.retireEnd i
  | _ => s

/-- What an S-slot instruction of the block profile raises at issue. -/
def State.scalarFault? (s : State) (i : Nat) (q : Seq) (x : SInst) : Option Cause :=
  if q.misplaced x then some .bundle
  else if q.loopsFull x then some .loopDepth
  else match x with
  | .csrr _ csr => if csrReadable i csr then none else some .csr
  | .csrw csr _ => if s.csrWritable i csr then none else some .csr
  | _ => none

/-! ## Bundles -/

/-- A decoded slot: whether its predicate lets it act, and its instruction, none for an undefined encoding. -/
structure Slot (α : Type) where
  act  : Bool
  inst : Option α
  deriving DecidableEq, Repr

/-- A bundle. -/
structure Bundle where
  c : Slot CInst
  m : Slot MInst
  v : Slot VInst
  s : Slot SInst
  deriving DecidableEq, Repr

/-- A slot word decoded. -/
def decodeSlot {α : Type} (q : Seq) (w : Nat) (f : Nat → Option α) : Slot α := ⟨q.pr (bits w 31 29), f w⟩

/-- The bundle of 16 bytes (R177). -/
def bundleOf (q : Seq) (d : List Byte) : Bundle :=
  ⟨decodeSlot q (dfield d 0 4) decodeC, decodeSlot q (dfield d 4 4) decodeM, decodeSlot q (dfield d 8 4) decodeV,
   decodeSlot q (dfield d 12 4) (decodeS false)⟩

/-- The instruction of a slot that acts; NOP for one predicated off or undefined. -/
def Slot.eff {α : Type} (x : Slot α) (nop : α) : α := if x.act then x.inst.getD nop else nop

/-- A slot that acts holds an undefined encoding. -/
def Slot.illegal {α : Type} (x : Slot α) : Bool := x.act && x.inst.isNone

/-- Some slot holds an instruction of this mnemonic. -/
def Bundle.holds (b : Bundle) (o : Op) : Bool :=
  b.c.inst.map CInst.op = some o || b.m.inst.map MInst.op = some o || b.v.inst.map VInst.name = some o
    || b.s.inst.map SInst.op = some o

/-- Some acting slot is undefined. -/
def Bundle.illegal (b : Bundle) : Bool := b.c.illegal || b.m.illegal || b.v.illegal || b.s.illegal

/-- Two lists of destinations share one. -/
def clash (a b : List Dest) : Bool := a.any fun d => b.contains d

/-- The first exception of a bundle, slots in the order C, M, V, S (R194). -/
def State.bundleFault (s : State) (i : Nat) (q : Seq) (b : Bundle) : Option (Cause × Nat) :=
  let dm := (b.m.eff .nop).dests
  let dv := (b.v.eff .nop).dests
  let ds := (b.s.eff .nop).dests
  let at_ := fun (k : Nat) (c : Option Cause) => c.map fun x => (x, k)
  let slot := fun (ill dup : Bool) (c : Option Cause) =>
    if ill then some Cause.illegal else if dup then some .bundle else c
  (at_ 0 (slot b.c.illegal false (s.cellFault? i q (b.c.eff .nop)))).orElse fun _ =>
  (at_ 1 (slot b.m.illegal (clash dm dv || clash dm ds) (s.moveFault? i q (b.m.eff .nop)))).orElse fun _ =>
  (at_ 2 (slot b.v.illegal (clash dv ds) none)).orElse fun _ =>
  at_ 3 (slot b.s.illegal false (s.scalarFault? i q (b.s.eff .nop)))

/-- A bundle stalls (R190). -/
def State.bundleStalls (s : State) (i : Nat) (q : Seq) (b : Bundle) : Bool :=
  s.cellStalls i q (b.c.eff .nop) || s.moveStalls i q (b.m.eff .nop) || s.waitStalls q (b.s.eff .nop)

/-- The registers after a bundle: every slot has read before any writes (R179). -/
def State.bundleRegs (s : State) (i : Nat) (q : Seq) (b : Bundle) : Seq :=
  let o := vectorOut q (b.v.eff .nop)
  let q1 := s.scalarOut i q (b.s.eff .nop) q
  let q2 := s.moveLoad i q (b.m.eff .nop) q1
  let q3 := o.scal.foldl (fun (a : Seq) x => a.setS x.1 x.2) q2
  let q4 := match o.vec with | some (n, v) => { q3 with v := q3.v.put n v {} } | none => q3
  let q5 := q.flow 4096 (b.s.inst.getD .nop) b.s.act q4
  { q5 with seen := q.masks, stalled := false, first := false }

/-- A bundle issues: registers, then what its slots do, in the order C, M, V, S. -/
def State.bundleAct (s : State) (i : Nat) (q : Seq) (b : Bundle) : State :=
  let s0 := s.moveRead i q (b.m.eff .nop)
  let sat := (vectorOut q (b.v.eff .nop)).sat
  let s1 := s0.setSeq i (s0.bundleRegs i q b)
  let s2 := s1.cellAct i q (b.c.eff .nop)
  let s3 := s2.moveAct i q (b.m.eff .nop)
  let s4 := if sat = 0 then s3 else s3.count blkVsatCount sat (i / 12) (i % 12)
  s4.scalarAct i q (b.s.eff .nop)

/-- The sequencer may issue: its state, no PROGRAM reset, no FRAME.END waiting. -/
def Seq.ready (q : Seq) : Bool := q.st.issuing && !q.dying && !q.ending

/-- The first issue of a frame is at TICKPHASE 4 (R186). -/
def State.issueTime (s : State) (q : Seq) : State := if q.first then s.elapseTo (s.tick.ftCycle + 4) else s

/-- Block `i` issues the bundle at its PC if `sel` picks it; fetch causes come first (R183, R194). -/
def State.issueBlock (s : State) (i : Nat) (sel : Bundle → Bool) : State :=
  let q := s.seq i
  let a := blockBase (i / 12) (i % 12) + 0xE00000 + 16 * q.pc
  if !q.ready then s
  else if 4096 ≤ q.pc then (s.issueTime q).except i .pcRange 0
  else if s.badRange a 16 then (((s.issueTime q).readWords a 16).1).except i .imemEcc 0
  else
    let b := bundleOf q (s.bytes a 16)
    if !(sel b || b.illegal) then s
    else
      let s := s.issueTime q
      let s1 := if q.stalled then s else (s.readWords a 16).1
      if s1.bundleStalls i q b then s1.setSeq i { q with stalled := true, first := false }
      else match s1.bundleFault i q b with
        | some (c, k) => ((if c = .dataEcc then s1.moveRead i q (b.m.eff .nop) else s1)).except i c k
        | none => s1.bundleAct i q b

/-! ## The conductor (R184, R197 to R199, R206, R207) -/

/-- The address of byte `o` of the data window of context `t`, for `n` bytes aligned to `al`. -/
def State.dataAddr (s : State) (t o n al : Nat) : Option Nat :=
  if o % al = 0 ∧ o + n ≤ s.get cndMemDsize t * 8192 then some (0x01A000100000 + s.get cndMemDbase t * 8192 + o) else none

/-- The byte of a unit that the write buffer holds. -/
def State.wbufByte (s : State) (a : Nat) : Option Byte :=
  (s.wbuf.find? fun e => e.unit = a / 32).bind fun e => e.bytes.at (a % 32) none

/-- Conductor data as a context reads it: buffered bytes in place of the array's. -/
def State.cndBytes (s : State) (a n : Nat) : List Byte :=
  (List.range n).map fun k => (s.wbufByte (a + k)).getD (s.byte (a + k))

/-- A byte the array has to give comes from a bad word. -/
def State.cndBad (s : State) (a n : Nat) : Bool :=
  (List.range n).any fun k => (s.wbufByte (a + k)).isNone && s.badRange (a + k) 1

/-- What reading conductor data logs. -/
def State.cndRead (s : State) (a n : Nat) : State :=
  if (List.range n).any fun k => (s.wbufByte (a + k)).isNone then (s.readWords a n).1 else s

/-- Bytes of one store join an entry. -/
def WEntry.put (e : WEntry) (o : Nat) (d : List Byte) : WEntry :=
  match d with
  | [] => e
  | b :: r => WEntry.put { e with bytes := e.bytes.put o (some b) none } (o + 1) r

/-- A store of context `t` enters the write buffer (R198). -/
def State.buffer (s : State) (t a : Nat) (d : List Byte) : State :=
  let u := a / 32
  if s.wbuf.any fun e => e.unit = u then
    { s with wbuf := s.wbuf.map fun e =>
        if e.unit = u then { (e.put (a % 32) d) with ctxs := if e.ctxs.contains t then e.ctxs else e.ctxs ++ [t] } else e }
  else { s with wbuf := s.wbuf ++ [WEntry.put ⟨u, [], [t]⟩ (a % 32) d] }

/-- WRITE_BUFFER_DRAIN (R198): the oldest entry reaches the array. -/
def execWriteBufferDrain (s : State) : Result :=
  .next <|
    match s.wbuf with
    | [] => s
    | e :: r =>
      e.bytes.foldl (fun t x =>
        match x.2 with
        | some b => t.putBytes (32 * e.unit + x.1) [b]
        | none => t)
        ((List.range 4).foldl (fun t k =>
          let have_ := (List.range 8).filter fun j => (e.bytes.at (8 * k + j) none).isSome
          if have_.isEmpty then t
          else t.setMark (4 * e.unit + k) ((s.mark (32 * e.unit + 8 * k)).merge (have_.length = 8))) { s with wbuf := r })

/-- What a conductor instruction does (R206, R207): an exception, a stall, or the state after it with the value its
destination takes. -/
inductive CndOut where
  | fault (c : Cause)
  | stall
  | done (s : State) (v : Word)

/-- The value of scalar RA plus an offset, modulo 2^32. -/
def Seq.dataOff (q : Seq) (ra : Nat) (off : Int) : Nat := (q.sr ra + BitVec.ofInt 32 off).toNat

/-- A register that context `t` may write at a window offset. -/
def State.cndWritable (s : State) (t off : Nat) : Bool :=
  let w := s.seqWho (48 + t)
  match findReg (s.regKey w off) with
  | some h => h.reg.writable && s.mayWriteReg w h
  | none => false

/-- An offset that holds something to read. -/
def State.cndReadable (s : State) (t off : Nat) : Bool :=
  let key := s.regKey (s.seqWho (48 + t)) off
  (findReg key).isSome || (key % 4 = 0 &&
    ((0x40A000 ≤ key && key < 0x40A040) || (0x3004000 ≤ key && key < 0x3008000) || (0x4110000 ≤ key && key < 0x4118000)))

/-- A SYS instruction of context `t` (R207, R208). -/
def State.sysAct (s : State) (t : Nat) (q : Seq) (op : Op) (ra rb imm : Nat) : CndOut :=
  let w := s.seqWho (48 + t)
  let go := fun (x : State) => CndOut.done x 0
  match op with
  | .sysTick => if t ≠ 0 then .fault .sysDenied else go (s.setRun (bit imm 0))
  | .sysSeal => if s.on tickStatusSealed then go s else .stall
  | .sysCommit => if t ≠ 0 && imm % 4 ≠ 0 then .fault .sysDenied else go { s with commits := s.commits ++ [⟨t, imm % 16, s.cycle + 8⟩] }
  | .sysFlow =>
    let f := (q.sr rb).toNat
    (match s.dataAddr t (q.sr ra).toNat 16 16 with
      | none => .fault .addr
      | some a =>
        if 2 ^ 18 ≤ f || s.flowTen f ≠ t then .fault .sysDenied
        else if s.cndBad a 16 then .fault .dataEcc
        else go ((s.cndRead a 16).flowWrite (flowAddr f) ((s.cndBytes a 16).map fun b => (b, false))))
  | .sysMire => go (s.mireAsk t (imm = 2))
  | .sysTen =>
    if t ≠ 0 then .fault .sysDenied
    else (match s.dataAddr t (q.sr ra).toNat 32 1 with
      | none => .fault .addr
      | some a => if s.cndBad a 32 then .fault .dataEcc else go ((s.cndRead a 32).applyTen w (imm % 4) (s.cndBytes a 32)))
  | .sysEvt =>
    let r := bits (q.sr ra).toNat 11 8
    let b := bits (q.sr ra).toNat 3 0
    if 4 ≤ r || 12 ≤ b || s.blockTen (12 * r + b) ≠ t then .fault .sysDenied else go (s.setLine (12 * r + b) imm)
  | _ => go s

/-- A conductor instruction besides plain scalar work. -/
def State.cndAct (s : State) (t : Nat) (q : Seq) (x : SInst) : CndOut :=
  let i := 48 + t
  if q.misplaced x then .fault .bundle
  else if q.loopsFull x then .fault .loopDepth
  else if s.waitStalls q x then .stall
  else match x with
  | .fence => if s.wbuf.any fun e => e.ctxs.contains t then .stall else .done s 0
  | .sig n => .done (s.signal t n) 0
  | .cndLd _ ra off =>
    (match s.dataAddr t (q.dataOff ra off) 4 4 with
      | none => .fault .addr
      | some a => if s.cndBad a 4 then .fault .dataEcc
        else .done (s.cndRead a 4) (BitVec.ofNat 32 (leVal (s.cndBytes a 4))))
  | .cndSt rd ra off =>
    (match s.dataAddr t (q.dataOff ra off) 4 4 with
      | none => .fault .addr
      | some a => if 16 ≤ s.wbuf.length then .stall else .done (s.buffer t a (leBytes 4 (q.sr rd).toNat)) 0)
  | .cndCsrr _ ra =>
    let off := (q.sr ra).toNat
    if !s.cndReadable t off then .fault .csr
    else
      let w := s.seqWho i
      let key := s.regKey w off
      if s.unanswered key then .fault .dataEcc
      else
      let (s1, v, _) := s.readKey w key
      .done { s1 with reply := s.reply } (BitVec.ofNat 32 v)
  | .cndCsrw rd ra =>
    if s.cndWritable t (q.sr rd).toNat then .done (s.regWrite (s.seqWho i) (q.sr rd).toNat (q.sr ra).toNat) 0 else .fault .csr
  | .sys op ra rb imm => s.sysAct t q op ra rb imm
  | _ => .done s 0

/-- The registers a conductor instruction leaves; `v` is what it read. -/
def cndRegs (q : Seq) (x : SInst) (v : Word) : Seq :=
  match x with
  | .alu o d ra b => q.put d (aluOp o (q.sr ra) (q.src b))
  | .const _ d c => q.put d c
  | .cmp pd c ra b => q.setP pd (cmpOp c (q.sr ra) (q.src b))
  | .cndLd rd _ _ | .cndCsrr rd _ => q.setS rd v
  | _ => q

/-- What DATA_ECC of a conductor instruction logs. -/
def State.cndEcc (s : State) (t : Nat) (q : Seq) (x : SInst) : State :=
  match x with
  | .cndLd _ ra off => match s.dataAddr t (q.dataOff ra off) 4 4 with | some a => s.cndRead a 4 | none => s
  | .cndCsrr .. => { s with silent := false }
  | .sys .sysFlow ra _ _ => match s.dataAddr t (q.sr ra).toNat 16 16 with | some a => s.cndRead a 16 | none => s
  | .sys .sysTen ra _ _ => match s.dataAddr t (q.sr ra).toNat 32 1 with | some a => s.cndRead a 32 | none => s
  | _ => s

/-- A context's instruction is carried out: what it does, then its registers and PC, which keep what the instruction's
own effect did to this context's state. -/
def State.cndDone (s : State) (t : Nat) (q : Seq) (x : SInst) (act : Bool) : State :=
  let i := 48 + t
  let eff := if act then x else .nop
  match s.cndAct t q eff with
  | .stall => s.setSeq i { q with stalled := true, first := false }
  | .fault c => ((if c = .dataEcc then s.cndEcc t q eff else s)).except i c 0
  | .done s1 v =>
    let now := s1.seq i
    let q1 := q.flow 65536 x act { cndRegs q eff v with evt := now.evt, stopping := now.stopping, dying := now.dying }
    let same := { now with evt := q.evt, stopping := q.stopping, dying := q.dying } = q
    let s2 := if same then s1.setSeq i { q1 with stalled := false, first := false } else s1
    if eff = .frameEnd then s2.retireEnd i else s2

/-- Context `t` issues the instruction at its PC if `sel` picks it. -/
def State.issueCtx (s : State) (t : Nat) (sel : SInst → Bool) : State :=
  let i := 48 + t
  let q := s.seq i
  let a := 0x01A000000000 + s.get cndMemIbase t * 4096 + 4 * q.pc
  if !q.ready then s
  else if s.get cndMemIsize t * 1024 ≤ q.pc then (s.issueTime q).except i .pcRange 0
  else if s.badRange a 4 then (((s.issueTime q).readWords a 4).1).except i .imemEcc 0
  else
    let x := decodeSlot q (leVal (s.bytes a 4)) (decodeS true)
    let s0 := s.issueTime q
    let s1 := if q.stalled then s0 else (s0.readWords a 4).1
    match x.inst with
    | none => if x.act then s1.except i .illegal 0 else s1.cndDone t q .nop false
    | some y => if sel y then s1.cndDone t q y x.act else s

/-! ## Commands -/

/-- A sequencer issues, if it holds an instruction `o`. -/
def State.issue (s : State) (q : SeqId) (o : Op) : State :=
  match q with
  | .blk r b => s.issueBlock (12 * r + b) fun x => x.holds o
  | .ctx t => s.issueCtx t fun x => x.op = o

/-- A block issues, if its bundle holds an instruction `o`. -/
def State.issueB (s : State) (r : Fin 4) (b : Fin 12) (o : Op) : State := s.issueBlock (12 * r + b) fun x => x.holds o

/-- A context issues, if it holds an instruction `o`. -/
def State.issueT (s : State) (t : Fin 4) (o : Op) : State := s.issueCtx t fun x => x.op = o

/-- STALL_RESOLVED (R190): a stalled sequencer tries its bundle again. -/
def execStallResolved (q : SeqId) (s : State) : Result :=
  .next <|
    if !(s.seq (SeqId.num q)).stalled then s
    else match q with
      | .blk r b => s.issueBlock (12 * r + b) fun _ => true
      | .ctx t => s.issueCtx t fun _ => true

/-- NOP (R200). -/
def execNop (q : SeqId) (s : State) : Result := .next (s.issue q .nop)

/-- ADD (R203). -/
def execAdd (q : SeqId) (s : State) : Result := .next (s.issue q .add)

/-- SUB (R203). -/
def execSub (q : SeqId) (s : State) : Result := .next (s.issue q .sub)

/-- AND (R203). -/
def execAnd (q : SeqId) (s : State) : Result := .next (s.issue q .and)

/-- OR (R203). -/
def execOr (q : SeqId) (s : State) : Result := .next (s.issue q .or)

/-- XOR (R203). -/
def execXor (q : SeqId) (s : State) : Result := .next (s.issue q .xor)

/-- SHL (R203). -/
def execShl (q : SeqId) (s : State) : Result := .next (s.issue q .shl)

/-- SHR (R203). -/
def execShr (q : SeqId) (s : State) : Result := .next (s.issue q .shr)

/-- SRA (R203). -/
def execSra (q : SeqId) (s : State) : Result := .next (s.issue q .sra)

/-- LI (R203). -/
def execLi (q : SeqId) (s : State) : Result := .next (s.issue q .li)

/-- LUI (R203). -/
def execLui (q : SeqId) (s : State) : Result := .next (s.issue q .lui)

/-- CMP (R203). -/
def execCmp (q : SeqId) (s : State) : Result := .next (s.issue q .cmp)

/-- BR (R189, R204). -/
def execBr (q : SeqId) (s : State) : Result := .next (s.issue q .br)

/-- BRP (R189, R204). -/
def execBrp (q : SeqId) (s : State) : Result := .next (s.issue q .brp)

/-- LOOP (R188). -/
def execLoop (q : SeqId) (s : State) : Result := .next (s.issue q .loop)

/-- WAIT.TICK (R204). -/
def execWaitTick (q : SeqId) (s : State) : Result := .next (s.issue q .waitTick)

/-- WAIT.EVT (R192). -/
def execWaitEvt (q : SeqId) (s : State) : Result := .next (s.issue q .waitEvt)

/-- SIG (R204). -/
def execSig (q : SeqId) (s : State) : Result := .next (s.issue q .sig)

/-- CSRR (R181). -/
def execCsrr (q : SeqId) (s : State) : Result := .next (match q with | .blk r b => s.issueB r b .csrr | .ctx t => s.issueT t .cndCsrr)

/-- CSRW (R181). -/
def execCsrw (q : SeqId) (s : State) : Result := .next (match q with | .blk r b => s.issueB r b .csrw | .ctx t => s.issueT t .cndCsrw)

/-- FENCE (R198, R205). -/
def execFence (q : SeqId) (s : State) : Result := .next (s.issue q .fence)

/-- FRAME.END (R187). -/
def execFrameEnd (q : SeqId) (s : State) : Result := .next (s.issue q .frameEnd)

/-- HALT (R185). -/
def execHalt (q : SeqId) (s : State) : Result := .next (s.issue q .halt)

/-- MV.LD (R182, R209). -/
def execMvLd (r : Fin 4) (b : Fin 12) (s : State) : Result := .next (s.issueB r b .mvLd)

/-- MV.ST (R182, R209). -/
def execMvSt (r : Fin 4) (b : Fin 12) (s : State) : Result := .next (s.issueB r b .mvSt)

/-- MV.DESC (R210). -/
def execMvDesc (r : Fin 4) (b : Fin 12) (s : State) : Result := .next (s.issueB r b .mvDesc)

/-- MV.WAITB (R192). -/
def execMvWaitb (r : Fin 4) (b : Fin 12) (s : State) : Result := .next (s.issueB r b .mvWaitb)

/-- MV.SPILL (R209). -/
def execMvSpill (r : Fin 4) (b : Fin 12) (s : State) : Result := .next (s.issueB r b .mvSpill)

/-- VADD (R212). -/
def execVadd (r : Fin 4) (b : Fin 12) (s : State) : Result := .next (s.issueB r b .vadd)

/-- VSUB (R212). -/
def execVsub (r : Fin 4) (b : Fin 12) (s : State) : Result := .next (s.issueB r b .vsub)

/-- VMUL (R212). -/
def execVmul (r : Fin 4) (b : Fin 12) (s : State) : Result := .next (s.issueB r b .vmul)

/-- VMAC (R212). -/
def execVmac (r : Fin 4) (b : Fin 12) (s : State) : Result := .next (s.issueB r b .vmac)

/-- VMOVS (R174). -/
def execVmovs (r : Fin 4) (b : Fin 12) (s : State) : Result := .next (s.issueB r b .vmovs)

/-- VRNDC (R173). -/
def execVrndc (r : Fin 4) (b : Fin 12) (s : State) : Result := .next (s.issueB r b .vrndc)

/-- VCMP (R212). -/
def execVcmp (r : Fin 4) (b : Fin 12) (s : State) : Result := .next (s.issueB r b .vcmp)

/-- VSEL (R212). -/
def execVsel (r : Fin 4) (b : Fin 12) (s : State) : Result := .next (s.issueB r b .vsel)

/-- VPACK (R212). -/
def execVpack (r : Fin 4) (b : Fin 12) (s : State) : Result := .next (s.issueB r b .vpack)

/-- VMAXI (R175). -/
def execVmaxi (r : Fin 4) (b : Fin 12) (s : State) : Result := .next (s.issueB r b .vmaxi)

/-- VMINI (R175). -/
def execVmini (r : Fin 4) (b : Fin 12) (s : State) : Result := .next (s.issueB r b .vmini)

/-- VROWMAX (R175). -/
def execVrowmax (r : Fin 4) (b : Fin 12) (s : State) : Result := .next (s.issueB r b .vrowmax)

/-- VROWSUM (R175). -/
def execVrowsum (r : Fin 4) (b : Fin 12) (s : State) : Result := .next (s.issueB r b .vrowsum)

/-- CX.START (R218). -/
def execCxStart (r : Fin 4) (b : Fin 12) (s : State) : Result := .next (s.issueB r b .cxStart)

/-- CX.PRELOAD (R133, R218). -/
def execCxPreload (r : Fin 4) (b : Fin 12) (s : State) : Result := .next (s.issueB r b .cxPreload)

/-- CX.DUMP, write-back (R134, R218). -/
def execCxDumpWriteback (r : Fin 4) (b : Fin 12) (s : State) : Result := .next (s.issueB r b .cxDumpWriteback)

/-- CX.DUMP, close (R135, R218). -/
def execCxDumpClose (r : Fin 4) (b : Fin 12) (s : State) : Result := .next (s.issueB r b .cxDumpClose)

/-- CX.SAVE (R148, R218). -/
def execCxSave (r : Fin 4) (b : Fin 12) (s : State) : Result := .next (s.issueB r b .cxSave)

/-- CX.RESTORE (R148, R218). -/
def execCxRestore (r : Fin 4) (b : Fin 12) (s : State) : Result := .next (s.issueB r b .cxRestore)

/-- CX.CLEAR (R218). -/
def execCxClear (r : Fin 4) (b : Fin 12) (s : State) : Result := .next (s.issueB r b .cxClear)

/-- CX.WAIT (R191). -/
def execCxWait (r : Fin 4) (b : Fin 12) (s : State) : Result := .next (s.issueB r b .cxWait)

/-- CB.START (R218). -/
def execCbStart (r : Fin 4) (b : Fin 12) (s : State) : Result := .next (s.issueB r b .cbStart)

/-- CELL.SPARE (R218). -/
def execCellSpare (r : Fin 4) (b : Fin 12) (s : State) : Result := .next (s.issueB r b .cellSpare)

/-- MV.LD of the conductor (R198, R206). -/
def execCondMvLd (t : Fin 4) (s : State) : Result := .next (s.issueT t .cndLd)

/-- MV.ST of the conductor (R198, R206). -/
def execCondMvSt (t : Fin 4) (s : State) : Result := .next (s.issueT t .cndSt)

/-- CSRR of the conductor (R206). -/
def execCondCsrr (t : Fin 4) (s : State) : Result := .next (s.issueT t .cndCsrr)

/-- CSRW of the conductor (R199, R206). -/
def execCondCsrw (t : Fin 4) (s : State) : Result := .next (s.issueT t .cndCsrw)

/-- SYS.TICK (R207). -/
def execSysTick (t : Fin 4) (s : State) : Result := .next (s.issueT t .sysTick)

/-- SYS.SEAL (R207). -/
def execSysSeal (t : Fin 4) (s : State) : Result := .next (s.issueT t .sysSeal)

/-- SYS.COMMIT (R207, R208). -/
def execSysCommit (t : Fin 4) (s : State) : Result := .next (s.issueT t .sysCommit)

/-- SYS.FLOW (R207). -/
def execSysFlow (t : Fin 4) (s : State) : Result := .next (s.issueT t .sysFlow)

/-- SYS.MIRE (R207). -/
def execSysMire (t : Fin 4) (s : State) : Result := .next (s.issueT t .sysMire)

/-- SYS.TEN (R207). -/
def execSysTen (t : Fin 4) (s : State) : Result := .next (s.issueT t .sysTen)

/-- SYS.EVT (R207). -/
def execSysEvt (t : Fin 4) (s : State) : Result := .next (s.issueT t .sysEvt)

end Sys2Proof.Machine
end

