-- ==== Sys2Proof/Machine/Tick.lean ====
section
/-! DEFINITION. Frame ticks (R21 to R26): where an FT falls, whether it is placed, forced or coasted, and everything that
comes about at it. -/

namespace Sys2Proof.Machine

/-! ## Where it falls -/

/-- A tick wanted at cycle `c` is never closer to an earlier one than a nominal frame less SKEW.MAX (R25). -/
def State.spaced (s : State) (c : Nat) : Nat :=
  if s.tick.ftCycle = 0 then c else max c (s.tick.ftCycle + 160 * s.frameLen - s.skewMax)

/-- `TICK.SKEW.LAST` after arrivals `l`: latest minus earliest in units of 0.5 µs, rounded up, at most 255. -/
def skewLast (l : List (Nat × Nat)) : Nat :=
  match earliest l, latestOf l with
  | some a, some b => min 255 ((b - a + 624) / 625)
  | _, _ => 0

/-! ## What an FT does -/

/-- A table's banks swap (R34). -/
def State.swapTable (s : State) (t : Table) : State :=
  match t with
  | .bw u =>
    let m := (List.range 48).foldl (fun (a : BitVec 48) b => if s.blockTen b = u then a ||| (1#48 <<< b) else a) 0
    { s with tick := { s.tick with liveBw := s.tick.liveBw ^^^ m } }
  | t =>
    let l := s.tick.live
    { s with tick := { s.tick with live := if l.contains t then l.erase t else l ++ [t] } }

/-- The pending swaps take effect, those deferred become pending for the next FT, and held writes land (R34, R35). -/
def State.tickBanks (s : State) : State :=
  let s1 := s.tick.swapNext.foldl State.swapTable s
  ({ s1 with tick := { s1.tick with swapNext := s.tick.swapThen, swapThen := [] } }).landHeld

/-- The work of the frame in hand ends: beams send what they owe, and overruns and slacks are settled (R28 to R32). -/
def State.endWork (s : State) : State :=
  (List.range 48).foldl State.tickBlock ((List.range 4).foldl State.tickSlacks s.formBeams.closeBeams)

/-- The frame in hand ends: samples that have not arrived are lost (R22, R23, R63), and its work ends. -/
def State.endFrame (s : State) : State :=
  ((List.range 8).foldl (fun a n => ((a.fillFrame s.frame n).formHeads s.frame n).lateFines s.frame n) s).endWork

/-- The tick unit's registers after FT `k`; `coast` tells whether it was coasted, `last` what SKEW.LAST reads. -/
def State.tickRegs (s : State) (k last : Nat) (coast : Bool) : State :=
  let s1 := (s.set tickFrameFrame k).setReg tickFtTod 0 0 s.todStamp
  let s2 := ((s1.set tickSkewLast last).set tickStatusSealed 0).set tickStatusCoasting (b2n coast)
  { s2 with tick := { s2.tick with seen := true, first := none, ftCycle := s2.cycle, passed := 0 } }

/-- Frame `k` begins in the sequencers, the beams, the tables, the ports and the rings (R27, R34, R35, R65 to R67, R96,
R114 to R121, R185, R232, R264, R292, R299). -/
def State.beginFrame (s : State) (k : Nat) : State :=
  let s1 := (List.range 48).foldl State.tickSeq s.snapCounts.tickBanks
  let s2 := (List.range 4).foldl State.tickContext s1
  let s3 := (List.range 8).foldl (fun a n => (a.tickHold k n).tickPort k n) s2
  let s4 := (List.range 8).foldl State.tickTwin s3
  let s5 := (List.range 4).foldl State.resyncRegion ((s4.trimChains k).losing fun t => t.tickMire k)
  let s6 := (s5.tickGate.tickEgress 0).tickEgress 1
  { s6 with
    throttled := [], used := []
    linkloss := Sparse.drop s6.linkloss fun f => decide (s6.aheadFrame f k < -64) }

/-- FT `k` is raised now. At the first one since RUN was set, work left from the frame that was in hand when it was
cleared ends (R30). -/
def State.raiseFt (s : State) (k last : Nat) (coast : Bool) : State :=
  let s1 := if s.tick.seen then s.endFrame else if s.tick.ftCycle = 0 then s else s.endWork
  ((s1.tickBeams k).tickRegs k last coast).beginFrame k

/-! ## The commands -/

/-- FRAME_TICK: the first FT after RUN is set (R26), or the FT that the latest boundary of the frame in hand places, all
ports that are UP having delivered it in time (R21, R25). -/
def execFrameTick (s : State) : Result :=
  .next <|
    if !s.on tickCtrlRun then s
    else if !s.tick.seen then
      match s.tick.first with
      | some (k, a) =>
        let l := (s.arrivals k).filter fun x => decide (x.2 ≤ a + s.skewMax)
        (s.elapseTo (s.spaced (s.tickFrom a))).raiseFt (s.nextFrame k) (skewLast l) false
      | none => s
    else
      match latestOf s.inSkew with
      | some a =>
        if s.inSkew.length = s.upPorts.length then
          (s.elapseTo (s.spaced (s.tickFrom a))).raiseFt (s.nextFrame s.frame) (skewLast s.inSkew) false
        else s
      | none => s

/-- SKEW_FORCED_TICK (R22): a port that is UP has not delivered the boundary within SKEW.MAX of the earliest. -/
def execSkewForcedTick (s : State) : Result :=
  .next <|
    if !s.ticking then s
    else
      match earliest s.counted with
      | some a =>
        if s.inSkew.length = s.upPorts.length then s
        else
          let s1 := s.elapseTo (s.spaced (s.tickFrom (a + s.skewMax)))
          (s1.raiseFt (s.nextFrame s.frame) (skewLast s.inSkew) false).setW1c tickStatusSkewForced |>.raise 128
      | none => s

/-- COAST_TICK (R23): no boundary that counts came by the coast deadline. With COAST_EN = 0 ticking stops instead. -/
def execCoastTick (s : State) : Result :=
  .next <|
    if !s.ticking || (earliest s.counted).isSome then s
    else
      let s1 := s.elapseTo s.coastAt
      if !s1.on tickCtrlCoastEn then s1.setRun false
      else (s1.raiseFt (s.nextFrame s.frame) 0 true).raise 129

end Sys2Proof.Machine
end

