-- ==== Sys2Proof/Machine/Dispatch.lean ====
section
/-! DEFINITION. Which meaning each command has. -/

namespace Sys2Proof.Machine

/-- The effect of a command on everything but the queue. -/
def exec (i : Instr) (s : State) : Host.Outcome State Fault Refusal :=
  match i with
  | .registerWrite w off v => Sys2Proof.Machine.execRegisterWrite w off v s
  | .peakRead w off => Sys2Proof.Machine.execPeakRead w off s
  | .frameTick => Sys2Proof.Machine.execFrameTick s
  | .skewForcedTick => Sys2Proof.Machine.execSkewForcedTick s
  | .coastTick => Sys2Proof.Machine.execCoastTick s
  | .sealPoint => Sys2Proof.Machine.execSealPoint s
  | .tickCtrlWrite w v => Sys2Proof.Machine.execTickCtrlWrite w v s
  | .commitEq w => Sys2Proof.Machine.execCommitEq w s
  | .commitDly w => Sys2Proof.Machine.execCommitDly w s
  | .commitBw w => Sys2Proof.Machine.execCommitBw w s
  | .commitWt w => Sys2Proof.Machine.execCommitWt w s
  | .shadowTableWrite w addr data => Sys2Proof.Machine.execShadowTableWrite w addr data s
  | .tenReserveWrite w t v => Sys2Proof.Machine.execTenReserveWrite w t v s
  | .ingestPacket n p => Sys2Proof.Machine.execIngestPacket n p s
  | .outOfPacketBlock n type => Sys2Proof.Machine.execOutOfPacketBlock n type s
  | .laneBlockLock n k phase => Sys2Proof.Machine.execLaneBlockLock n k phase s
  | .laneLoss n k why => Sys2Proof.Machine.execLaneLoss n k why s
  | .markerLock n k logical late => Sys2Proof.Machine.execMarkerLock n k logical late s
  | .markerLockLoss n k => Sys2Proof.Machine.execMarkerLockLoss n k s
  | .presentChange n seated => Sys2Proof.Machine.execPresentChange n seated s
  | .fwdClockQualified n => Sys2Proof.Machine.execFwdClockQualified n s
  | .fwdClockFault n => Sys2Proof.Machine.execFwdClockFault n s
  | .trainTimeout n => Sys2Proof.Machine.execTrainTimeout n s
  | .markerTimeout n => Sys2Proof.Machine.execMarkerTimeout n s
  | .receiversOff n => Sys2Proof.Machine.execReceiversOff n s
  | .buttonPress n => Sys2Proof.Machine.execButtonPress n s
  | .ingestCtrlWrite w n v => Sys2Proof.Machine.execIngestCtrlWrite w n v s
  | .ingestSlip w n lane => Sys2Proof.Machine.execIngestSlip w n lane s
  | .ingestClrcnt w n => Sys2Proof.Machine.execIngestClrcnt w n s
  | .ingestRejoin w n => Sys2Proof.Machine.execIngestRejoin w n s
  | .ingestDrain w n => Sys2Proof.Machine.execIngestDrain w n s
  | .prbsCtrlWrite w n v => Sys2Proof.Machine.execPrbsCtrlWrite w n v s
  | .prbsCheckerLock n k locked errors => Sys2Proof.Machine.execPrbsCheckerLock n k locked errors s
  | .feCfgWrite w v => Sys2Proof.Machine.execFeCfgWrite w v s
  | .feCtrlWrite w n spike v => Sys2Proof.Machine.execFeCtrlWrite w n spike v s
  | .feCtrlEffect n => Sys2Proof.Machine.execFeCtrlEffect n s
  | .dcClr w n => Sys2Proof.Machine.execDcClr w n s
  | .feClrcnt w n => Sys2Proof.Machine.execFeClrcnt w n s
  | .fineSampleFormed n g j k t differs => Sys2Proof.Machine.execFineSampleFormed n g j k t differs s
  | .holdRelease n => Sys2Proof.Machine.execHoldRelease n s
  | .feInitDone => Sys2Proof.Machine.execFeInitDone s
  | .mvDoorbell w e tail => Sys2Proof.Machine.execMvDoorbell w e tail s
  | .mvRingCfgWrite w e v => Sys2Proof.Machine.execMvRingCfgWrite w e v s
  | .descriptorFetch e => Sys2Proof.Machine.execDescriptorFetch e s
  | .descriptorComplete e moved => Sys2Proof.Machine.execDescriptorComplete e moved s
  | .mireCmdFreeze w => Sys2Proof.Machine.execMireCmdFreeze w s
  | .mireCmdThaw w => Sys2Proof.Machine.execMireCmdThaw w s
  | .mireMarkWrite w v => Sys2Proof.Machine.execMireMarkWrite w v s
  | .seqStart w r b => Sys2Proof.Machine.execSeqStart w r b s
  | .seqStop w r b => Sys2Proof.Machine.execSeqStop w r b s
  | .cndStart w t => Sys2Proof.Machine.execCndStart w t s
  | .cndStop w t => Sys2Proof.Machine.execCndStop w t s
  | .cndMemWrite w t v => Sys2Proof.Machine.execCndMemWrite w t v s
  | .nop q => Sys2Proof.Machine.execNop q s
  | .add q => Sys2Proof.Machine.execAdd q s
  | .sub q => Sys2Proof.Machine.execSub q s
  | .and q => Sys2Proof.Machine.execAnd q s
  | .or q => Sys2Proof.Machine.execOr q s
  | .xor q => Sys2Proof.Machine.execXor q s
  | .shl q => Sys2Proof.Machine.execShl q s
  | .shr q => Sys2Proof.Machine.execShr q s
  | .sra q => Sys2Proof.Machine.execSra q s
  | .li q => Sys2Proof.Machine.execLi q s
  | .lui q => Sys2Proof.Machine.execLui q s
  | .cmp q => Sys2Proof.Machine.execCmp q s
  | .br q => Sys2Proof.Machine.execBr q s
  | .brp q => Sys2Proof.Machine.execBrp q s
  | .loop q => Sys2Proof.Machine.execLoop q s
  | .waitTick q => Sys2Proof.Machine.execWaitTick q s
  | .waitEvt q => Sys2Proof.Machine.execWaitEvt q s
  | .sig q => Sys2Proof.Machine.execSig q s
  | .csrr q => Sys2Proof.Machine.execCsrr q s
  | .csrw q => Sys2Proof.Machine.execCsrw q s
  | .fence q => Sys2Proof.Machine.execFence q s
  | .frameEnd q => Sys2Proof.Machine.execFrameEnd q s
  | .frameEndRetire q => Sys2Proof.Machine.execFrameEndRetire q s
  | .halt q => Sys2Proof.Machine.execHalt q s
  | .stallResolved q => Sys2Proof.Machine.execStallResolved q s
  | .mvLd r b => Sys2Proof.Machine.execMvLd r b s
  | .mvSt r b => Sys2Proof.Machine.execMvSt r b s
  | .mvDesc r b => Sys2Proof.Machine.execMvDesc r b s
  | .mvWaitb r b => Sys2Proof.Machine.execMvWaitb r b s
  | .mvSpill r b => Sys2Proof.Machine.execMvSpill r b s
  | .condMvLd t => Sys2Proof.Machine.execCondMvLd t s
  | .condMvSt t => Sys2Proof.Machine.execCondMvSt t s
  | .condCsrr t => Sys2Proof.Machine.execCondCsrr t s
  | .condCsrw t => Sys2Proof.Machine.execCondCsrw t s
  | .writeBufferDrain => Sys2Proof.Machine.execWriteBufferDrain s
  | .sysTick t => Sys2Proof.Machine.execSysTick t s
  | .sysSeal t => Sys2Proof.Machine.execSysSeal t s
  | .sysCommit t => Sys2Proof.Machine.execSysCommit t s
  | .sysFlow t => Sys2Proof.Machine.execSysFlow t s
  | .sysMire t => Sys2Proof.Machine.execSysMire t s
  | .sysTen t => Sys2Proof.Machine.execSysTen t s
  | .sysEvt t => Sys2Proof.Machine.execSysEvt t s
  | .vadd r b => Sys2Proof.Machine.execVadd r b s
  | .vsub r b => Sys2Proof.Machine.execVsub r b s
  | .vmul r b => Sys2Proof.Machine.execVmul r b s
  | .vmac r b => Sys2Proof.Machine.execVmac r b s
  | .vmovs r b => Sys2Proof.Machine.execVmovs r b s
  | .vrndc r b => Sys2Proof.Machine.execVrndc r b s
  | .vcmp r b => Sys2Proof.Machine.execVcmp r b s
  | .vsel r b => Sys2Proof.Machine.execVsel r b s
  | .vpack r b => Sys2Proof.Machine.execVpack r b s
  | .vmaxi r b => Sys2Proof.Machine.execVmaxi r b s
  | .vmini r b => Sys2Proof.Machine.execVmini r b s
  | .vrowmax r b => Sys2Proof.Machine.execVrowmax r b s
  | .vrowsum r b => Sys2Proof.Machine.execVrowsum r b s
  | .cxStart r b => Sys2Proof.Machine.execCxStart r b s
  | .cxPreload r b => Sys2Proof.Machine.execCxPreload r b s
  | .cxDumpWriteback r b => Sys2Proof.Machine.execCxDumpWriteback r b s
  | .cxDumpClose r b => Sys2Proof.Machine.execCxDumpClose r b s
  | .cxSave r b => Sys2Proof.Machine.execCxSave r b s
  | .cxRestore r b => Sys2Proof.Machine.execCxRestore r b s
  | .cxClear r b => Sys2Proof.Machine.execCxClear r b s
  | .cxWait r b => Sys2Proof.Machine.execCxWait r b s
  | .cbStart r b => Sys2Proof.Machine.execCbStart r b s
  | .cellSpare r b => Sys2Proof.Machine.execCellSpare r b s
  | .cellRunEnd r b c => Sys2Proof.Machine.execCellRunEnd r b c s
  | .x2ForcedSpill r b c => Sys2Proof.Machine.execX2ForcedSpill r b c s
  | .cellDumpDone r b c => Sys2Proof.Machine.execCellDumpDone r b c s
  | .redoStart r b => Sys2Proof.Machine.execRedoStart r b s
  | .redoEnd r b => Sys2Proof.Machine.execRedoEnd r b s
  | .gateRelease r b x => Sys2Proof.Machine.execGateRelease r b x s
  | .gateReleaseEffect r b x => Sys2Proof.Machine.execGateReleaseEffect r b x s
  | .gateFill r b x => Sys2Proof.Machine.execGateFill r b x s
  | .beamCfgWrite w beam out v => Sys2Proof.Machine.execBeamCfgWrite w beam out v s
  | .blockBeamWrite w r b v => Sys2Proof.Machine.execBlockBeamWrite w r b v s
  | .beamClrcnt w => Sys2Proof.Machine.execBeamClrcnt w s
  | .voltagePacket beam r c0 t0 => Sys2Proof.Machine.execVoltagePacket beam r c0 t0 s
  | .powerPeriodClose beam r => Sys2Proof.Machine.execPowerPeriodClose beam r s
  | .watchRelease => Sys2Proof.Machine.execWatchRelease s
  | .fabricRequest init id qos ten addr acc => Sys2Proof.Machine.execFabricRequest init id qos ten addr acc s
  | .segmentGrant port => Sys2Proof.Machine.execSegmentGrant port s
  | .fabricResponse target => Sys2Proof.Machine.execFabricResponse target s
  | .starvePromotion port => Sys2Proof.Machine.execStarvePromotion port s
  | .peripheralTimeout => Sys2Proof.Machine.execPeripheralTimeout s
  | .dramCommand p => Sys2Proof.Machine.execDramCommand p s
  | .refreshDue p => Sys2Proof.Machine.execRefreshDue p s
  | .towerInit w => Sys2Proof.Machine.execTowerInit w s
  | .selfRefreshEnter w => Sys2Proof.Machine.execSelfRefreshEnter w s
  | .selfRefreshResidency p => Sys2Proof.Machine.execSelfRefreshResidency p s
  | .selfRefreshExit w => Sys2Proof.Machine.execSelfRefreshExit w s
  | .memtrPatw w live => Sys2Proof.Machine.execMemtrPatw w live s
  | .memtrPatr w live => Sys2Proof.Machine.execMemtrPatr w live s
  | .memtrSweepr w live => Sys2Proof.Machine.execMemtrSweepr w live s
  | .memtrSweepw w live => Sys2Proof.Machine.execMemtrSweepw w live s
  | .memtrApply w live => Sys2Proof.Machine.execMemtrApply w live s
  | .memtrDone w => Sys2Proof.Machine.execMemtrDone w s
  | .memtrTrain w => Sys2Proof.Machine.execMemtrTrain w s
  | .memtrOpDone res => Sys2Proof.Machine.execMemtrOpDone res s
  | .memRetrain h temp => Sys2Proof.Machine.execMemRetrain h temp s
  | .memPllLock h => Sys2Proof.Machine.execMemPllLock h s
  | .pageRetire w p granule noCopy => Sys2Proof.Machine.execPageRetire w p granule noCopy s
  | .pageRetireDone p => Sys2Proof.Machine.execPageRetireDone p s
  | .correctionWriteback addr => Sys2Proof.Machine.execCorrectionWriteback addr s
  | .scrubWord u => Sys2Proof.Machine.execScrubWord u s
  | .scrubSlow u => Sys2Proof.Machine.execScrubSlow u s
  | .twinRearm w n => Sys2Proof.Machine.execTwinRearm w n s
  | .logClr w l => Sys2Proof.Machine.execLogClr w l s
  | .sramBankRetire w u bank => Sys2Proof.Machine.execSramBankRetire w u bank s
  | .sramBankRetireDone u => Sys2Proof.Machine.execSramBankRetireDone u s
  | .keyLoad w slot long ten => Sys2Proof.Machine.execKeyLoad w slot long ten s
  | .keyErase w slot => Sys2Proof.Machine.execKeyErase w slot s
  | .productStage => Sys2Proof.Machine.execProductStage s
  | .sluiceSelect p => Sys2Proof.Machine.execSluiceSelect p s
  | .flowContextWrite w f start data => Sys2Proof.Machine.execFlowContextWrite w f start data s
  | .ethernetRxFrame p frame fcs => Sys2Proof.Machine.execEthernetRxFrame p frame fcs s
  | .egressLinkChange p aligned fecLock localFault remoteFault => Sys2Proof.Machine.execEgressLinkChange p aligned fecLock localFault remoteFault s
  | .tsqHiRead w p => Sys2Proof.Machine.execTsqHiRead w p s
  | .ptprxPop w p => Sys2Proof.Machine.execPtprxPop w p s
  | .ptprxClr w p => Sys2Proof.Machine.execPtprxClr w p s
  | .todSecRead w => Sys2Proof.Machine.execTodSecRead w s
  | .todSetsec w sec => Sys2Proof.Machine.execTodSetsec w sec s
  | .todSecondCarry => Sys2Proof.Machine.execTodSecondCarry s
  | .noteNextRead w t => Sys2Proof.Machine.execNoteNextRead w t s
  | .noteWordRead w t => Sys2Proof.Machine.execNoteWordRead w t s
  | .noteDrop w t => Sys2Proof.Machine.execNoteDrop w t s
  | .noteClr w t => Sys2Proof.Machine.execNoteClr w t s
  | .refActivityChange x sg active => Sys2Proof.Machine.execRefActivityChange x sg active s
  | .frequencyGateEnd fofs0 fofs1 => Sys2Proof.Machine.execFrequencyGateEnd fofs0 fofs1 s
  | .referenceBoundary x ofs => Sys2Proof.Machine.execReferenceBoundary x ofs s
  | .referenceSwitchDone => Sys2Proof.Machine.execReferenceSwitchDone s
  | .wtrExpiry => Sys2Proof.Machine.execWtrExpiry s
  | .holdmaxExpiry servo => Sys2Proof.Machine.execHoldmaxExpiry servo s
  | .tbCfgWrite w v => Sys2Proof.Machine.execTbCfgWrite w v s
  | .tbQualWrite w v => Sys2Proof.Machine.execTbQualWrite w v s
  | .tbPstepWrite w v => Sys2Proof.Machine.execTbPstepWrite w v s
  | .pstepDone => Sys2Proof.Machine.execPstepDone s
  | .ptpMeasurement w ofs => Sys2Proof.Machine.execPtpMeasurement w ofs s
  | .ptpsMeasTimeout => Sys2Proof.Machine.execPtpsMeasTimeout s
  | .ptpsCfgWrite w v => Sys2Proof.Machine.execPtpsCfgWrite w v s
  | .rootPllLock => Sys2Proof.Machine.execRootPllLock s
  | .clockMonitorFail src stopped => Sys2Proof.Machine.execClockMonitorFail src stopped s
  | .clockRestore w => Sys2Proof.Machine.execClockRestore w s
  | .clockGate w unit => Sys2Proof.Machine.execClockGate w unit s
  | .clockUngate w unit => Sys2Proof.Machine.execClockUngate w unit s
  | .clockForcedGate w unit => Sys2Proof.Machine.execClockForcedGate w unit s
  | .gateIdleStop => Sys2Proof.Machine.execGateIdleStop s
  | .gateRefused => Sys2Proof.Machine.execGateRefused s
  | .feedLoss f => Sys2Proof.Machine.execFeedLoss f s
  | .feedBack f => Sys2Proof.Machine.execFeedBack f s
  | .leaseRenewal => Sys2Proof.Machine.execLeaseRenewal s
  | .leaseExpiry => Sys2Proof.Machine.execLeaseExpiry s
  | .take f => Sys2Proof.Machine.execTake f s
  | .savedStateWrite ok => Sys2Proof.Machine.execSavedStateWrite ok s
  | .resync f crcGood romMatches => Sys2Proof.Machine.execResync f crcGood romMatches s
  | .handover w => Sys2Proof.Machine.execHandover w s
  | .railFault cause rail => Sys2Proof.Machine.execRailFault cause rail s
  | .thermalPoll die towers => Sys2Proof.Machine.execThermalPoll die towers s
  | .thermCfgWrite w v => Sys2Proof.Machine.execThermCfgWrite w v s
  | .thermalTrip => Sys2Proof.Machine.execThermalTrip s
  | .peatGet w => Sys2Proof.Machine.execPeatGet w s
  | .peatSet w => Sys2Proof.Machine.execPeatSet w s
  | .peatDelete w => Sys2Proof.Machine.execPeatDelete w s
  | .peatCompact w => Sys2Proof.Machine.execPeatCompact w s
  | .peatCommandDone flashOk => Sys2Proof.Machine.execPeatCommandDone flashOk s
  | .calUserWrite w entry v => Sys2Proof.Machine.execCalUserWrite w entry v s
  | .por f torn => Sys2Proof.Machine.execPor f torn s
  | .resetPin low => Sys2Proof.Machine.execResetPin low s
  | .perst asserted => Sys2Proof.Machine.execPerst asserted s
  | .rstChip w => Sys2Proof.Machine.execRstChip w s
  | .rstRegion w n => Sys2Proof.Machine.execRstRegion w n s
  | .rstProgram w n blocks ctxs => Sys2Proof.Machine.execRstProgram w n blocks ctxs s
  | .programResetDone q => Sys2Proof.Machine.execProgramResetDone q s
  | .chipResetRelease => Sys2Proof.Machine.execChipResetRelease s
  | .pwrRun w => Sys2Proof.Machine.execPwrRun w s
  | .pwrIdle w => Sys2Proof.Machine.execPwrIdle w s
  | .pwrStandby w => Sys2Proof.Machine.execPwrStandby w s
  | .pwrDormant w => Sys2Proof.Machine.execPwrDormant w s
  | .wakeTimer => Sys2Proof.Machine.execWakeTimer s
  | .linkDown => Sys2Proof.Machine.execLinkDown s
  | .functionLevelReset f => Sys2Proof.Machine.execFunctionLevelReset f s
  | .bar2Access f off acc => Sys2Proof.Machine.execBar2Access f off acc s
  | .tenCmd w t => Sys2Proof.Machine.execTenCmd w t s
  | .evtRaise w source => Sys2Proof.Machine.execEvtRaise w source s
  | .evtEnableWrite w word v => Sys2Proof.Machine.execEvtEnableWrite w word v s
  | .msixUnmask f vec => Sys2Proof.Machine.execMsixUnmask f vec s
  | .msixEnable f d0 => Sys2Proof.Machine.execMsixEnable f d0 s
  | .cellOperationEnd r b c => Sys2Proof.Machine.execCellOperationEnd r b c s
  | .packetEligible p => Sys2Proof.Machine.execPacketEligible p s
  | .clockSourceGood src => Sys2Proof.Machine.execClockSourceGood src s
  | .holdValid mean => Sys2Proof.Machine.execHoldValid mean s
  | .holdoverHistory => Sys2Proof.Machine.execHoldoverHistory s
  | .selfRefreshExitDone p => Sys2Proof.Machine.execSelfRefreshExitDone p s
  | .hostLinkUp width speed => Sys2Proof.Machine.execHostLinkUp width speed s
  | .d3hotEntry f => Sys2Proof.Machine.execD3hotEntry f s
  | .weightInitDone => Sys2Proof.Machine.execWeightInitDone s

end Sys2Proof.Machine
end

