-- ==== Sys2Proof/Safety.lean ====
section
/-! DEFINITION. What counts as a sound state, in the terms the statements use: the stores in canonical form. -/

namespace Sys2Proof

/-- Keys strictly rising: every key is listed at most once. -/
def Sparse.rising {α : Type} (l : Sparse α) : Bool :=
  match l with
  | [] => true
  | (k, _) :: r => (match r with | [] => true | (k', _) :: _ => decide (k < k')) && Sparse.rising r

namespace Machine

/-- The memory is in canonical form: addresses strictly rising, no byte equal to what an unlisted one reads (0). -/
def Memory.wf (m : List Host.Cell) : Bool := Sparse.wf m 0

/-- The state's stores are sound: the memory and the word marks canonical, the register file without a key twice. -/
def State.sound (s : State) : Bool := Memory.wf s.mem && Sparse.wf s.marks none && Sparse.rising s.regs

/-- The offsets of the registers that raising a source may change: `EVT.STATw`, and PEAK, STATUS and LOST of a note
queue. -/
def eventReg (k : Nat) : Bool :=
  (List.range 16).any (fun w => k = evtStat.key w 0)
    || (List.range 4).any fun t => k = noteStatus.key t 0 || k = notePeak.key t 0 || k = noteLost.key t 0

/-- Every register whose offset does not satisfy `p` reads in `t` what it reads in `s`. -/
def State.regsKept (s t : State) (p : Nat → Bool) : Prop :=
  ∀ k d, p k = false → Sparse.at t.regs k d = Sparse.at s.regs k d

/-- `t` differs from `s` at most in registers, note queues and MSI-X messages. -/
def State.sameBut (s t : State) : Prop :=
  t = { s with regs := t.regs, notes := t.notes, msiPend := t.msiPend, msiSent := t.msiSent }

/-- From `s` to `t` nothing changes but registers whose offset satisfies `p`. -/
def State.onlyRegs (s t : State) (p : Nat → Bool) : Prop := t = { s with regs := t.regs } ∧ s.regsKept t p

/-- From `s` to `t` nothing changes but registers whose offset satisfies `p`, and what raising a source changes. -/
def State.onlyEvents (s t : State) (p : Nat → Bool) : Prop := s.sameBut t ∧ s.regsKept t fun k => eventReg k || p k

/-- No register. -/
def noReg : Nat → Bool := fun _ => false

/-- The registers of ingest port `n`. -/
def portReg (n k : Nat) : Bool := decide (0x1000000 + 0x10000 * n ≤ k ∧ k < 0x1000400 + 0x10000 * n)

/-- From `s` to `t` a write of `w` to `off` was refused (R366): the event of its function is raised, the capture register
of its function takes the first refused write, and nothing else changes. -/
def State.refused (s t : State) (w : Who) (off : Nat) : Prop :=
  s.onlyEvents t (fun k => k = evtReject.key w.fn 0) ∧ t.evtOn (48 + w.fn.val) = true ∧ t.on evtRejectValid w.fn = true ∧
    (s.on evtRejectValid w.fn = true → t.reg evtReject w.fn 0 = s.reg evtReject w.fn 0) ∧
    (s.on evtRejectValid w.fn = false → t.get evtRejectPath w.fn = pathCode w.path ∧ t.get evtRejectAddr w.fn = off % 2 ^ 48)

/-- The registers that move with time: those of the timebase, and the time counters of the regions. -/
def timeReg (k : Nat) : Bool := decide (0x200000 ≤ k ∧ k < 0x200300) || (List.range 4).any fun r => k = rgnNs.key r 0

/-- From `s` to `t` `n` core cycles pass, and nothing changes but what moves with time: the timebase, the regions' time
counters, and the commits the tick unit accepts meanwhile. A CHIP reset holds them all. -/
def State.later (s t : State) (n : Nat) : Prop :=
  t = { s with
    cycle := if s.power.inReset then s.cycle else s.cycle + n
    regs := t.regs, tb := t.tb, nsHold := t.nsHold, commits := t.commits, notes := t.notes, msiPend := t.msiPend
    msiSent := t.msiSent
    tick := { s.tick with passed := t.tick.passed, swapNext := t.tick.swapNext, swapThen := t.tick.swapThen } } ∧
  s.regsKept t (fun k => eventReg k || timeReg k) ∧
  (s.commits = [] → t.commits = [] ∧ t.tick.swapNext = s.tick.swapNext ∧ t.tick.swapThen = s.tick.swapThen)

/-- When the boundary of frame `k` arrived at port `n`, if it has. -/
def State.arrived (s : State) (n k : Nat) : Option Nat := ((s.port n).bounds.find? fun x => x.1 = k).map (·.2)

/-- A tick never comes closer to the latest one than a nominal frame less TICK.SKEW.MAX (R25). -/
def State.spacing (s : State) : Nat := if s.tick.ftCycle = 0 then 0 else s.tick.ftCycle + 160 * s.frameLen - s.skewMax

/-- The tick of a boundary that arrived at `e` counts: while coasting within TICK.SKEW.MAX of the coasted one, otherwise by
the coast deadline (R23). -/
def State.inTime (s : State) (e : Nat) : Prop :=
  if s.on tickStatusCoasting then s.skewOk e s.coastAt = true else e ≤ s.coastAt

/-- The registers from offset `lo` up to `hi`, and those that raising a source may change. -/
def evtOr (lo hi k : Nat) : Bool := eventReg k || decide (lo ≤ k ∧ k < hi)

/-- `t` differs from `s` at most in the timebase: its registers and what it holds besides, free values drawn, and what
raising a source changes. -/
def State.timebaseOnly (s t : State) : Prop :=
  t = { s with regs := t.regs, refs := t.refs, tb := t.tb, fresh := t.fresh, notes := t.notes, msiPend := t.msiPend,
               msiSent := t.msiSent } ∧
    s.regsKept t (evtOr 0x200000 0x200300)

/-- A request of function 0 reaches the register at `off`, and the unit there answers (R234). -/
abbrev State.lets (s : State) (w : Who) (off : Nat) : Prop :=
  s.reachable w off = true ∧ s.unanswered off = false ∧ w.fn = 0

/-- A request of `w` reads the register at `key`: it is reached, its unit answers, and it is not hidden from its function. -/
abbrev State.reads (s : State) (w : Who) (key : Nat) : Prop :=
  s.reachable w key = true ∧ s.unanswered key = false ∧ s.admitted w key = true ∧ hiddenFrom w.fn key = false

/-- The `n` bytes from address `a` on lie in words that are clean. -/
abbrev State.cleanRange (s : State) (a n : Nat) : Prop := ∀ w ∈ touched a n, s.mark (8 * w.1) = .clean

/-- The bundle at the PC of block `i`. -/
def State.bundleAt (s : State) (i : Nat) : Bundle :=
  bundleOf (s.seq i) (s.bytes (blockBase (i / 12) (i % 12) + 0xE00000 + 16 * (s.seq i).pc) 16)

/-- Block `i` may issue, and the bundle at its PC is fetched without error. -/
abbrev State.atBundle (s : State) (i : Nat) : Prop :=
  (s.seq i).ready = true ∧ (s.seq i).pc < 4096 ∧
    s.cleanRange (blockBase (i / 12) (i % 12) + 0xE00000 + 16 * (s.seq i).pc) 16

/-- Where context `t` fetches. -/
def State.cndFetch (s : State) (t : Nat) : Nat := 0x01A000000000 + s.get cndMemIbase t * 4096 + 4 * (s.seq (48 + t)).pc

/-- Context `t` may issue, and the instruction at its PC, fetched without error, acts and is `y`. -/
abbrev State.atInst (s : State) (t : Nat) (y : SInst) : Prop :=
  (s.seq (48 + t)).ready = true ∧ (s.seq (48 + t)).pc < s.get cndMemIsize t * 1024 ∧ s.cleanRange (s.cndFetch t) 4 ∧
    decodeSlot (s.seq (48 + t)) (leVal (s.bytes (s.cndFetch t) 4)) (decodeS true) = ⟨true, some y⟩

/-- Block `i` is about to issue the S-slot instruction `y`, its predicate true, with nothing else in the bundle. -/
abbrev State.blockHoldsS (s : State) (i : Nat) (y : SInst) : Prop :=
  s.atBundle i ∧ (s.bundleAt i).c.inst = some .nop ∧ (s.bundleAt i).m.inst = some .nop ∧
    (s.bundleAt i).v.inst = some .nop ∧ (s.bundleAt i).s = ⟨true, some y⟩

/-- Sequencer `q` is about to issue the S-slot instruction `y`, its predicate true, with nothing else in the bundle. -/
def State.holdsS (s : State) (q : SeqId) (y : SInst) : Prop :=
  match q with
  | .blk r b => s.blockHoldsS (12 * r + b) y
  | .ctx t => s.atInst t y

/-- Block `i` is about to issue the M-slot instruction `y`, its predicate true, with nothing else in the bundle. -/
abbrev State.holdsM (s : State) (i : Nat) (y : MInst) : Prop :=
  s.atBundle i ∧ (s.bundleAt i).c.inst = some .nop ∧ (s.bundleAt i).m = ⟨true, some y⟩ ∧
    (s.bundleAt i).v.inst = some .nop ∧ (s.bundleAt i).s.inst = some .nop

/-- Block `i` is about to issue the V-slot instruction `y`, its predicate true, with nothing else in the bundle. -/
abbrev State.holdsV (s : State) (i : Nat) (y : VInst) : Prop :=
  s.atBundle i ∧ (s.bundleAt i).c.inst = some .nop ∧ (s.bundleAt i).m.inst = some .nop ∧
    (s.bundleAt i).v = ⟨true, some y⟩ ∧ (s.bundleAt i).s.inst = some .nop

/-- Block `i` is about to issue the C-slot instruction `y`, its predicate true, with nothing else in the bundle. -/
abbrev State.holdsC (s : State) (i : Nat) (y : CInst) : Prop :=
  s.atBundle i ∧ (s.bundleAt i).c = ⟨true, some y⟩ ∧ (s.bundleAt i).m.inst = some .nop ∧
    (s.bundleAt i).v.inst = some .nop ∧ (s.bundleAt i).s.inst = some .nop

/-- The state in which sequencer `i` issues: that of the command, but for the first bundle of a frame, which issues at
TICKPHASE 4 (R186). -/
abbrev State.issued (s : State) (i : Nat) : State := s.issueTime (s.seq i)

/-- Sequencer `i` after a bundle that leaves the registers of `now`: it has passed on to the next bundle (R188, R189), whose
C slot sees a block's masks as they were before this one (R193). -/
def State.passed (s : State) (i : Nat) (now : Seq) : Seq :=
  { now.advance with stalled := false, first := false, seen := if i < 48 then (s.seq i).masks else now.seen }

/-- Sequencer `i` stalled where it is (R190). -/
def State.waiting (s : State) (i : Nat) : Seq := { s.seq i with stalled := true, first := false }

/-- Sequencer `q` is about to issue the S-slot instruction `y`, its predicate false, with nothing else in the bundle. -/
def State.skipsS (s : State) (q : SeqId) (y : SInst) : Prop :=
  match q with
  | .blk r b => s.atBundle (12 * r + b) ∧ (s.bundleAt (12 * r + b)).c.inst = some .nop ∧
      (s.bundleAt (12 * r + b)).m.inst = some .nop ∧ (s.bundleAt (12 * r + b)).v.inst = some .nop ∧
      (s.bundleAt (12 * r + b)).s = ⟨false, some y⟩
  | .ctx t => (s.seq (48 + t)).ready = true ∧ (s.seq (48 + t)).pc < s.get cndMemIsize t * 1024 ∧
      s.cleanRange (s.cndFetch t) 4 ∧
      decodeSlot (s.seq (48 + t)) (leVal (s.bytes (s.cndFetch t) 4)) (decodeS true) = ⟨false, some y⟩

/-- From `s` to `t` sequencer `i` has taken an exception (R194, R195): it is in FAULT where it was, its exception register
holds the cause, the slot and the PC, the event is raised, and nothing else changes. -/
def State.excepted (s t : State) (i cause slot : Nat) : Prop :=
  let q := s.seq i
  (s.setSeq i { q with st := .fault, stalled := false, faultRun := q.st = .run, faultNew := q.st = .run }).onlyEvents t
    (fun k => if i < 48 then k = blkExc.key (i / 12) (i % 12) else k = cndExc.key (i - 48) 0) ∧
  (if i < 48 then
    t.get blkExcCause (i / 12) (i % 12) = cause ∧ t.get blkExcSlot (i / 12) (i % 12) = slot ∧
      t.get blkExcPc (i / 12) (i % 12) = q.pc % 4096 ∧ t.evtOn (192 + 48 * (i / 12) + 5) = true
   else t.get cndExcCause (i - 48) = cause ∧ t.get cndExcPc (i - 48) = q.pc % 65536 ∧ t.evtOn 141 = true)

/-- What 16 operand bytes of a channel buffer hold: a sample, or none where it is flagged (R125). -/
def State.operandsAt (s : State) (base i0 : Nat) : List (Option (Int × Int)) :=
  if s.chipInputs ≤ i0 then List.replicate 16 none
  else (s.bytes (base + i0) 16).map fun x =>
    let re := sext 4 (x.toNat / 16)
    let im := sext 4 (x.toNat % 16)
    if re = -8 || im = -8 then none else some (re, im)

/-- Where fine time `t` of channel buffer `buf` of region `r` starts. -/
def State.bufAt (s : State) (r buf t : Nat) : Nat := regionBase r + buf * (s.chipInputs * s.lenL) + t * s.chipInputs

/-- The set `x` with `n` fine samples of sub-tile `q` from fine time `t` of a channel buffer on (R125). -/
def State.sampled (s : State) (r buf q t n : Nat) (x : CellSet) : CellSet :=
  (List.range n).foldl (fun y k =>
    y.sample (s.operandsAt (s.bufAt r buf (t + k)) ((subOf q).row 0)) (s.operandsAt (s.bufAt r buf (t + k)) ((subOf q).col 0))) x

/-- The 48-bit accumulators of a physical set in block SRAM (R139, R221). -/
def State.slotSet (s : State) (i : Nat) (phys : Bool) : CellSet :=
  loadParts {} ((s.bytes (s.slotAddr i phys) 3392).map fun b => (b, false)) 6 3072 3328

/-- The stores that statements look things up in list no key twice, a vector register has 32 lanes, and a staged flow context
16 bytes; the Peat store is empty or its active half committed, the accumulator of the time of day is short of a second, a
gate request names a unit, and a Peat command its code. -/
def State.ordered (s : State) : Bool :=
  Sparse.rising s.ports && Sparse.rising s.streams && Sparse.rising s.engines && Sparse.rising s.seqs &&
    Sparse.rising s.cells && Sparse.rising s.hold && Sparse.rising s.thr && Sparse.rising s.gain && Sparse.rising s.poly &&
    Sparse.rising s.periods &&
    Sparse.rising s.notes && Sparse.rising s.egress && Sparse.rising s.ctls && Sparse.rising s.refs && Sparse.rising s.alerts &&
    Sparse.rising s.targets && Sparse.rising s.holdback && Sparse.rising s.delays && Sparse.rising s.scrubs &&
    Sparse.rising s.twins && Sparse.rising s.keys && Sparse.rising s.logs &&
    (s.ctls.all fun e => Sparse.rising e.2.rows) &&
    Sparse.rising s.flowStage && (s.flowStage.all fun e => decide (e.2.length = 16)) &&
    (s.wbuf.all fun e => Sparse.rising e.bytes) &&
    Sparse.rising s.peat.data && (s.peat.half.gen.isSome || s.peat.empty) && decide (s.tb.acc < secondUnits) &&
    (s.gating.all fun u => decide (u < 62)) && (s.peat.cmd.all fun c => decide (1 ≤ c ∧ c ≤ 4)) &&
    s.seqs.all fun e => Sparse.rising e.2.s && Sparse.rising e.2.v && Sparse.rising e.2.masks &&
      e.2.v.all fun r => decide (r.2.lanes.length = 32)

/-- A memory whose bytes are stored and read as they are. -/
def plainMem (a : Nat) : Bool :=
  match memKind a with
  | .dram _ | .pool _ | .block _ _ | .context _ _ _ | .cndData | .host => true
  | _ => false

/-- Each of the `n` bytes from `a` on lies in a plain memory that serves requests. -/
abbrev State.servedRange (s : State) (a n : Nat) : Prop := ∀ k, k < n → plainMem (a + k) = true ∧ s.service (a + k) = .served

/-- The `n` bytes from `a` on are served, in words that are clean. -/
abbrev State.readable (s : State) (a n : Nat) : Prop := s.cleanRange a n ∧ s.servedRange a n

/-- From `s` to `t` the bytes of `n` addresses from `a` on may change, and those of no other address. -/
def State.onlyBytes (s t : State) (a n : Nat) : Prop := ∀ k, (k < a ∨ a + n ≤ k) → t.byte k = s.byte k

/-- What a write leaves in bits `hi` to `lo` of a field with access code `a` that no program owns: a read-write or
program-owned field takes the written value, a read-only or write-only one stays, and a write-1-to-clear one loses the
bits written as 1 (R7). -/
def Acc.after (a : Acc) (old new width : Nat) : Nat :=
  match a with
  | .rw | .po => new
  | .ro | .wo => old
  | .w1c => old &&& (2 ^ width - 1 - new)

end Machine
end Sys2Proof
end

