-- ==== Sys2Proof/Certificates/Slice0/Obligations.lean ====
section
/-! DEFINITION. The statements about the model, each with the rule of the spec it formalises. -/

section

open Sys2Proof Sys2Proof.Machine

/-! ## The queue -/

/-- A step runs the command at the front of the queue, on the state with the queue's rest. -/
def Obligations.StepRunsFront : Prop :=
  ∀ (c : Instr) (rest : List Instr) (s : State),
    s.pending = c :: rest → step s = exec c { s with pending := rest }

/-- With nothing commanded the block idles for one core cycle (the model's choice: log entry 2): nothing changes but what
moves with time. No command is refused and none faults: every command answers a next state (log entry 10). -/
def Obligations.EveryCommandAnswers : Prop :=
  (∀ s : State, s.pending = [] → ∃ t, step s = .next t ∧ s.later t 1) ∧
  (∀ (c : Instr) (s : State), ∃ t, exec c s = .next t)

/-! ## Frame ticks (R21 to R26) -/

/-- R21, with R20 for the number: once the boundary that ends the frame in hand has arrived at every port that is UP, with no
more than TICK.SKEW.MAX between the earliest and the latest, and its tick counts against the coast deadline, FRAME_TICK
raises the FT of the next frame D_fe + 12 µs after the latest arrival, but never closer to the latest FT than R25 allows;
SKEW.LAST is the difference in units of 0.5 µs, rounded up. R26: after RUN has gone from 0 to 1 the first FT is placed
from the first boundary: if it ends frame `k` and arrived at cycle `a`, FRAME_TICK raises the FT of the frame after `k`,
D_fe + 12 µs after `a`. Where R25 holds a tick back is the model's reading (log entry 19), the deadline while coasting
too (log entry 20). -/
def Obligations.TicksArePlaced : Prop :=
  (∀ (s : State) (arr : Nat → Nat) (e a : Nat),
    s.on tickCtrlRun = true → s.tick.seen = true →
    (∀ n ∈ s.upPorts, s.arrived n s.frame = some (arr n) ∧ e ≤ arr n ∧ arr n ≤ a) →
    (∃ n ∈ s.upPorts, arr n = e) → (∃ n ∈ s.upPorts, arr n = a) → s.inTime e → a ≤ e + s.skewMax →
    exec .frameTick s = .next
      ((s.elapseTo (max (a + 160 * s.get feDfeSamples + 15000) s.spacing)).raiseFt (s.nextFrame s.frame)
        (min 255 ((a - e + 624) / 625)) false)) ∧
  (∀ (s : State) (k a e b : Nat),
    s.on tickCtrlRun = true → s.tick.seen = false → s.tick.first = some (k, a) →
    (∀ n ∈ s.upPorts, ∀ x, s.arrived n k = some x → e ≤ x ∧ (x ≤ b ∨ a + s.skewMax < x)) →
    (∃ n ∈ s.upPorts, s.arrived n k = some e) → (∃ n ∈ s.upPorts, s.arrived n k = some b) → b ≤ a + s.skewMax →
    exec .frameTick s = .next
      ((s.elapseTo (max (a + 160 * s.get feDfeSamples + 15000) s.spacing)).raiseFt (s.nextFrame k)
        (min 255 ((b - e + 624) / 625)) false))

/-- R22: when a port that is UP has not delivered the boundary within TICK.SKEW.MAX of the earliest, SKEW_FORCED_TICK
raises the FT at the earliest arrival + TICK.SKEW.MAX + D_fe + 12 µs, sets SKEW_FORCED and raises source 128; SKEW.LAST
leaves the late ports out. R23: when no port that is UP has delivered the boundary of the frame in hand in time for the
coast deadline, COAST_TICK raises the FT at the deadline, with COASTING set and SKEW.LAST 0, and raises source 129; with
COAST_EN = 0 ticking stops instead: RUN, SEALED and COASTING read 0, no tick is derived, and nothing else changes where
no write is held and no drain is pending. The deadlines while coasting are the model's reading (log entry 20). -/
def Obligations.ForcedTicksArePlaced : Prop :=
  (∀ (s : State) (e a : Nat),
    s.on tickCtrlRun = true → s.tick.seen = true → s.inTime e →
    (∃ n ∈ s.upPorts, s.arrived n s.frame = some e) →
    (∀ n ∈ s.upPorts, ∀ x, s.arrived n s.frame = some x → e ≤ x ∧ (x ≤ a ∨ e + s.skewMax < x)) →
    (∃ n ∈ s.upPorts, s.arrived n s.frame = some a) → a ≤ e + s.skewMax →
    (∃ n ∈ s.upPorts, ∀ x, s.arrived n s.frame = some x → e + s.skewMax < x) →
    exec .skewForcedTick s = .next
      ((((s.elapseTo (max (e + s.skewMax + 160 * s.get feDfeSamples + 15000) s.spacing)).raiseFt (s.nextFrame s.frame)
        (min 255 ((a - e + 624) / 625)) false).setW1c tickStatusSkewForced).raise 128)) ∧
  (∀ s : State, s.on tickCtrlRun = true → s.tick.seen = true → s.on tickCtrlCoastEn = true →
    (∀ n ∈ s.upPorts, ∀ x, s.arrived n s.frame = some x → ¬ s.inTime x) →
    exec .coastTick s = .next (((s.elapseTo s.coastAt).raiseFt (s.nextFrame s.frame) 0 true).raise 129)) ∧
  (∀ s : State, s.sound = true → s.on tickCtrlRun = true → s.tick.seen = true → s.on tickCtrlCoastEn = false →
    (∀ n ∈ s.upPorts, ∀ x, s.arrived n s.frame = some x → ¬ s.inTime x) →
    s.tick.held = [] → (∀ n ∈ s.upPorts, s.on ingPstateDrainPend n = false) →
    ∃ u t, s.later u (s.coastAt - s.cycle) ∧ exec .coastTick s = .next t ∧
      t = { u with regs := t.regs, tick := { u.tick with seen := false, first := none }, formed := [], hold := []
                   released := 0, mire := t.mire } ∧
      t.mire = { u.mire with choice := .undecided, late := false, keepPend := t.mire.keepPend } ∧
      t.on tickCtrlRun = false ∧ t.on tickStatusSealed = false ∧ t.on tickStatusCoasting = false ∧
      u.regsKept t fun k => k = tickCtrl.key 0 0 || k = tickStatus.key 0 0)

/-- R20, R21, R23, R26, R33, R34: what an FT leaves in the tick unit, however it was placed. TICK.FRAME holds its number,
FT_TOD the time of day at which it came and SKEW.LAST the skew; COASTING tells whether it was coasted, and SEALED reads 0;
swaps that were deferred are now the pending ones, and none is deferred. -/
def Obligations.TicksAreShown : Prop :=
  ∀ (s : State) (k last : Nat) (coast : Bool), s.sound = true → k < 2 ^ 34 → last < 256 →
    let t := s.raiseFt k last coast
    t.frame = k ∧ t.reg tickFtTod 0 0 = s.todStamp % 2 ^ 64 ∧ t.get tickSkewLast = last ∧
      t.on tickStatusCoasting = coast ∧ t.on tickStatusSealed = false ∧ t.tick.seen = true ∧ t.tick.first = none ∧
      t.tick.ftCycle = s.cycle ∧ t.tick.swapNext = s.tick.swapThen ∧ t.tick.swapThen = [] ∧ t.throttled = [] ∧
      t.used = [] ∧ t.reg tickCtrl 0 0 = s.reg tickCtrl 0 0 ∧ t.cycle = s.cycle ∧ t.tb = s.tb

/-! ## Commits, the seal point and the tick unit's registers (R26, R33, R34, R37, R45) -/

/-- R34, R37: a commit of a table its writer may commit. Before the seal point the swap is pending at the next FT, merging
with one that is already; from the seal point on it is pending at the FT after next, what was pending at the next FT
stays, and source 130 is raised. Nothing else changes but the event unit. R37: a commit bit of the equaliser gains or the
delay polynomials that a tenancy other than 0 writes changes nothing and raises the rejected-write event of its
function. -/
def Obligations.CommitsPend : Prop :=
  (∀ (s : State) (w : Who) (c : Instr) (b : Table),
    ((c = .commitEq w ∧ b = .eq ∧ w.fn = 0) ∨ (c = .commitDly w ∧ b = .dly ∧ w.fn = 0) ∨
      (c = .commitBw w ∧ b = .bw w.fn) ∨ (c = .commitWt w ∧ b = .wt w.fn)) →
    s.reachable w (tickCommit.key 0 0) = true → s.admitted w (tickCommit.key 0 0) = true →
    (s.on tickStatusSealed = false →
      exec c s = .next { s with tick := { s.tick with
        swapNext := if b ∈ s.tick.swapNext then s.tick.swapNext else s.tick.swapNext ++ [b] } }) ∧
    (s.on tickStatusSealed = true → s.sound = true →
      ∃ t, exec c s = .next t ∧ t.evtOn 130 = true ∧
        State.onlyEvents { s with tick := { s.tick with
          swapThen := if b ∈ s.tick.swapThen then s.tick.swapThen else s.tick.swapThen ++ [b] } } t noReg)) ∧
  (∀ (s : State) (w : Who) (c : Instr), s.sound = true → (c = .commitEq w ∨ c = .commitDly w) → w.fn ≠ 0 →
    s.reachable w (tickCommit.key 0 0) = true →
    ∃ t, exec c s = .next t ∧ s.refused t w (tickCommit.key 0 0))

/-- R33: the seal point. It is the earliest of D_fe + 8 µs after the boundary's arrival at the last port that is UP, 4 µs
before the tick that R22 would force, and, with COAST_EN = 1, 4 µs before the coast deadline; with COAST_EN = 0 and no
boundary the frame has none. From it on SEALED reads 1, and what the ring will do with the next frame is chosen (R114).
R26, R45: writes of `TICK.CTRL` and `TENt.RESERVE` by function 0. A write of L_SEL while RUN is 1 changes nothing and raises
the rejected-write event (that one which leaves its value as it is acts on the other fields is log entry 104). Setting or
clearing RUN voids what the seal point had chosen. A reservation whose sums stay within 1,024 and 128, and whose WATCH is
at most EGR, is taken whole, and another is rejected. -/
def Obligations.SealPointAndTickUnit : Prop :=
  (∀ (s : State) (e a c : Nat), s.sound = true → s.power.inReset = false → s.on tickCtrlRun = true → s.tick.seen = true →
    s.on tickStatusSealed = false →
    (((∀ n ∈ s.upPorts, ∀ x, s.arrived n s.frame = some x → ¬ s.inTime x) ∧ s.on tickCtrlCoastEn = true ∧
        c = s.coastAt - 5000) ∨
     (s.inTime e ∧ (∃ n ∈ s.upPorts, s.arrived n s.frame = some e) ∧ (∃ n ∈ s.upPorts, s.arrived n s.frame = some a) ∧
        (∀ n ∈ s.upPorts, ∀ x, s.arrived n s.frame = some x → e ≤ x ∧ x ≤ a) ∧
        c = min (min (if ∀ n ∈ s.upPorts, (s.arrived n s.frame).isSome = true then a else e + s.skewMax) (e + s.skewMax)
            + 160 * s.get feDfeSamples + 10000)
          (if s.on tickCtrlCoastEn then s.coastAt - 5000 else e + s.skewMax + 160 * s.get feDfeSamples + 10000))) →
    ∃ t, exec .sealPoint s = .next t ∧ t.on tickStatusSealed = true ∧ t.cycle = max s.cycle c ∧ t.mire.choice ≠ .undecided ∧
      t.mem = s.mem ∧ t.marks = s.marks ∧ t.seqs = s.seqs ∧ t.cells = s.cells ∧ t.ports = s.ports ∧ t.streams = s.streams ∧
      t.tick.live = s.tick.live ∧ t.tick.seen = true ∧
      s.regsKept t (fun k => eventReg k || timeReg k || k = tickStatus.key 0 0 || k = mireStatus.key 0 0 ||
        k = mireMark.key 0 0 || (List.range 64).any fun x => k = mireDir.key x 0)) ∧
  (∀ s : State, s.on tickCtrlRun = true → s.tick.seen = true → s.on tickCtrlCoastEn = false →
    s.on tickStatusSealed = false → (∀ n ∈ s.upPorts, ∀ x, s.arrived n s.frame = some x → ¬ s.inTime x) →
    exec .sealPoint s = .next s) ∧
  (∀ (s : State) (w : Who) (v : Word), s.sound = true → s.lets w (tickCtrl.key 0 0) →
    (s.on tickCtrlRun = false ∨ bits v.toNat 5 4 = s.get tickCtrlLSel) →
    s.tick.held = [] → (∀ n ∈ s.upPorts, s.on ingPstateDrainPend n = false) →
    ∃ t, exec (.tickCtrlWrite w v) s = .next t ∧
      t.get tickCtrlLSel = bits v.toNat 5 4 ∧ t.get tickCtrlCoastEn = bits v.toNat 8 8 ∧
      t.get tickCtrlEpochAuto = bits v.toNat 1 1 ∧ t.get tickCtrlRun = bits v.toNat 0 0 ∧
      (bit v.toNat 0 = s.on tickCtrlRun → t.tick = s.tick ∧ t.mire = s.mire ∧
        t = { s with regs := t.regs, ports := t.ports, linkloss := t.linkloss }) ∧
      (bit v.toNat 0 ≠ s.on tickCtrlRun → t.tick = { s.tick with seen := false, first := none } ∧
        t.mire = { s.mire with choice := .undecided, late := false, keepPend := t.mire.keepPend } ∧
        t = { s with regs := t.regs, ports := t.ports, linkloss := t.linkloss, tick := t.tick, mire := t.mire, formed := []
                     hold := [], released := 0 }) ∧
      (bits v.toNat 5 4 = s.get tickCtrlLSel → t.ports = s.ports ∧ t.linkloss = s.linkloss) ∧
      (s.on tickCtrlRun = true → bit v.toNat 0 = false → t.on tickStatusSealed = false ∧ t.on tickStatusCoasting = false) ∧
      s.regsKept t (fun k => k = tickCtrl.key 0 0 ||
        (s.on tickCtrlRun && !bit v.toNat 0 && decide (k = tickStatus.key 0 0)))) ∧
  (∀ (s : State) (w : Who) (v : Word), s.sound = true → s.lets w (tickCtrl.key 0 0) → s.on tickCtrlRun = true →
    bits v.toNat 5 4 ≠ s.get tickCtrlLSel →
    ∃ t, exec (.tickCtrlWrite w v) s = .next t ∧ s.refused t w (tickCtrl.key 0 0)) ∧
  (∀ (s : State) (w : Who) (n : Fin 4) (v : Word), s.sound = true → s.lets w (tenReserve.key n 0) →
    (s.reserved tenReserveEgr n (bits v.toNat 25 15) ≤ 1024 → s.reserved tenReserveDram n (bits v.toNat 7 0) ≤ 128 →
      bits v.toNat 31 26 ≤ bits v.toNat 25 15 →
      ∃ t, exec (.tenReserveWrite w n v) s = .next t ∧ s.onlyRegs t (fun k => k = tenReserve.key n 0) ∧
        t.get tenReserveWatch n = bits v.toNat 31 26 ∧ t.get tenReserveEgr n = bits v.toNat 25 15 ∧
        t.get tenReserveDram n = bits v.toNat 7 0) ∧
    ((1024 < s.reserved tenReserveEgr n (bits v.toNat 25 15) ∨ 128 < s.reserved tenReserveDram n (bits v.toNat 7 0) ∨
        bits v.toNat 25 15 < bits v.toNat 31 26) →
      ∃ t, exec (.tenReserveWrite w n v) s = .next t ∧ s.refused t w (tenReserve.key n 0)))

/-! ## Registers (R7, R10, R124, R296, R298, R301, R366) -/

/-- R7: in every register of the maps, a write leaves each field what its access code says, and every bit outside the
register's fields what it was. -/
def Obligations.FieldsFollowTheirCodes : Prop :=
  ∀ r ∈ allRegs, ∀ (old v : Nat), old < 2 ^ r.width →
    (∀ f ∈ r.fields, bits (writeFields r.fields old v) f.hi f.lo =
      f.acc.after (bits old f.hi f.lo) (bits v f.hi f.lo) (f.hi + 1 - f.lo)) ∧
    (∀ i, (∀ f ∈ r.fields, i < f.lo ∨ f.hi < i) → bit (writeFields r.fields old v) i = bit old i)

/-- REGISTER_WRITE of a register that has no effects of its own. R7: by a requester with the right to write it, the register
takes the value field by field, every other register keeps its value, and nothing else changes; a 32-bit register takes the
low 32 bits. By a requester whose access is read-only the write is ignored. R359, R366: by a function without a tenancy it
changes nothing and raises the rejected-write event. R10: a write where no register stands is ignored. -/
def Obligations.RegisterWrites : Prop :=
  (∀ (s : State) (w : Who) (off : Word) (v : BitVec 64) (h : RegHit), s.sound = true →
    w.path ≠ .config → beyondBar w off.toNat = false → findReg (s.regKey w off.toNat) = some h →
    (∀ e ∈ writers, e.1.base ≠ h.reg.base) → s.reachable w (s.regKey w off.toNat) = true →
    s.reachable w (h.reg.key h.i h.j) = true → s.unanswered (h.reg.key h.i h.j) = false →
    (s.admitted w (h.reg.key h.i h.j) = true →
      (s.mayWriteReg w h = true →
        ∃ t, exec (.registerWrite w off v) s = .next t ∧ s.onlyRegs t (fun k => k = h.reg.key h.i h.j) ∧
          t.reg h.reg h.i h.j =
            writeFields h.reg.fields (s.reg h.reg h.i h.j) (s.wholeValue w h v.toNat) % 2 ^ h.reg.width ∧
          (h.reg.width = 32 → h.high = false → t.reg h.reg h.i h.j =
            writeFields h.reg.fields (s.reg h.reg h.i h.j) (v.toNat % 2 ^ 32) % 2 ^ 32)) ∧
      (s.mayWriteReg w h = false → exec (.registerWrite w off v) s = .next s)) ∧
    (s.admitted w (h.reg.key h.i h.j) = false →
      ∃ t, exec (.registerWrite w off v) s = .next t ∧ s.refused t w (h.reg.key h.i h.j))) ∧
  (∀ (s : State) (w : Who) (off : Word) (v : BitVec 64), w.path ≠ .config →
    (beyondBar w off.toNat = true ∨ findReg (s.regKey w off.toNat) = none) →
    exec (.registerWrite w off v) s = .next s)

/-- R124: reading a peak register returns the highest occupancy since the last read, and starts again from the occupancy
in hand: `MVe.PEAK`, `EGRp.TSQ_PEAK`, `NOTEt.PEAK` and `MCp.OCC`. R296, R298, R301: the reads that take something.
TSQ_HI_READ returns the oldest stamp's entry, removes it and holds its time in `EGRp.TSQ_TOD`, and returns 0 of an empty
queue; TOD_SEC_READ returns the seconds and holds the nanoseconds in `TOD.NS`; NOTE_NEXT_READ opens the note of the highest
priority, the oldest among equals, shows the open one again, and returns 0 of an empty queue; NOTE_WORD_READ returns the
next word of the open note, which the read of its last word removes. -/
def Obligations.ReadsThatTake : Prop :=
  (∀ (s : State) (w : Who) (off : Word) (r : RegDef) (f : RField) (i occ : Nat), s.sound = true →
    beyondBar w off.toNat = false → s.regKey w off.toNat = r.key i 0 → s.reads w (r.key i 0) → i < r.count1 →
    s.reg r i 0 < 2 ^ 32 →
    ((r = mvPeak ∧ f = mvPeakValue ∧ occ = s.ringOcc i) ∨
     (r = egrpTsqPeak ∧ f = egrpTsqPeakValue ∧ occ = (s.egr i).stamps.length) ∨
     (r = notePeak ∧ f = notePeakValue ∧ occ = (s.noteQ i).used) ∨
     (r = mcOcc ∧ f = mcOccPeak ∧ occ = s.get mcOccCount i)) →
    ∃ t, exec (.peakRead w off) s = .next t ∧ t = { s with regs := t.regs, reply := t.reply } ∧
      t.reply = some ⟨0, 0, .ok, leBytes 4 (setBits (s.reg r i 0) f.hi f.lo (max (s.get f i) occ))⟩ ∧
      t.get f i = occ % 2 ^ (f.hi + 1 - f.lo) ∧ s.regsKept t (fun k => k = r.key i 0)) ∧
  (∀ (s : State) (w : Who) (p : Fin 2), s.reads w (egrpTsqHi.key p 0) →
    (∀ (x : Stamp) (r : List Stamp), s.sound = true → (s.egr p).stamps = x :: r →
      ∃ t, exec (.tsqHiRead w p) s = .next t ∧ t.reply = some ⟨0, 0, .ok, leBytes 8 x.high⟩ ∧
        t.reg egrpTsqTod p 0 = x.stamp.toNat ∧ t.egress = s.egress.put p { s.egr p with stamps := r } {} ∧
        t = { s with regs := t.regs, egress := t.egress, reply := t.reply } ∧
        s.regsKept t (fun k => k = egrpTsqTod.key p 0)) ∧
    ((s.egr p).stamps = [] →
      exec (.tsqHiRead w p) s = .next { s with reply := some ⟨0, 0, .ok, leBytes 8 0⟩ })) ∧
  (∀ (s : State) (w : Who), s.sound = true → s.reads w (todSec.key 0 0) →
    ∃ t, exec (.todSecRead w) s = .next t ∧ t.reply = some ⟨0, 0, .ok, leBytes 8 (s.tb.sec % 2 ^ 48)⟩ ∧
      t.get todNsNs = s.todNs % 2 ^ 30 ∧ t = { s with regs := t.regs, reply := t.reply } ∧
      s.regsKept t (fun k => k = todNs.key 0 0)) ∧
  (∀ (s : State) (w : Who) (n : Fin 4), s.reads w (noteNext.key n 0) → w.fn = n →
    (∀ (x : Note) (l r : List Note), (s.noteQ n).opened = none → (s.noteQ n).notes = l ++ x :: r →
      (∀ y ∈ l, y.pri < x.pri) → (∀ y ∈ r, y.pri ≤ x.pri) →
      ∃ t, exec (.noteNextRead w n) s = .next t ∧ t.reply = some ⟨0, 0, .ok, leBytes 4 (x.header false)⟩ ∧
        t = { s with notes := s.notes.put n ⟨l ++ r, some (x, 0)⟩ {}, reply := t.reply }) ∧
    (∀ (x : Note) (i : Nat), (s.noteQ n).opened = some (x, i) →
      exec (.noteNextRead w n) s = .next { s with reply := some ⟨0, 0, .ok, leBytes 4 (x.header true)⟩ }) ∧
    ((s.noteQ n).opened = none → (s.noteQ n).notes = [] →
      exec (.noteNextRead w n) s = .next { s with reply := some ⟨0, 0, .ok, leBytes 4 0⟩ })) ∧
  (∀ (s : State) (w : Who) (n : Fin 4), s.reads w (noteWord.key n 0) → w.fn = n →
    (∀ (x : Note) (i : Nat), (s.noteQ n).opened = some (x, i) →
      ∃ t, exec (.noteWordRead w n) s = .next t ∧ t.reply = some ⟨0, 0, .ok, leBytes 4 (nth x.words i 0).toNat⟩ ∧
        t = { s with notes := s.notes.put n ⟨(s.noteQ n).notes, if i + 1 < x.words.length then some (x, i + 1) else none⟩ {},
                     reply := t.reply }) ∧
    ((s.noteQ n).opened = none →
      exec (.noteWordRead w n) s = .next { s with reply := some ⟨0, 0, .ok, leBytes 4 0⟩ }))

/-! ## Ingest ports (R47 to R75) -/

/-- R65: what moves an ingest port from state to state. 0 is DARK, 1 DETECT, 2 TRAIN, 3 ALIGN, 4 UP, 5 DRAIN. Every move
sets STATE_CHG (source 64 + 8n). A training failure counts in CNT_TRAIN and sets status bit 5, and the third in a row sets
FAULT; a surprise removal counts in CNT_SURPRISE and sets status bit 1, and bit 7 for a clock fault; entering DETECT powers
the receivers and clears the streams; going to DARK turns the receivers off. A cable pulled in UP passes DRAIN and ends in
DARK. Nothing changes but the port's own registers and state, its streams and filters, the LINKLOSS marks and the event
unit. R65: RECEIVERS_OFF in DRAIN with the cable seated turns the receivers off, and the lane status reads 0. -/
def Obligations.PortStatesMove : Prop :=
  (∀ (s : State) (n : Fin 8) (c : Instr) (dst : Nat), s.sound = true → s.power.inReset = false →
    s.ordered = true →
    ((c = .presentChange n true ∧ s.pstate n = 0 ∧ s.on ingCtrlEnable n = true ∧ s.on ingCtrlTest n = false ∧ dst = 1) ∨
     (c = .fwdClockQualified n ∧ s.pstate n = 1 ∧ dst = 2) ∨
     (∃ k phase, c = .laneBlockLock n k phase ∧ s.pstate n = 2 ∧ setBits (s.get ingLanestatBlocklock n) k k 1 = 255 ∧ dst = 3) ∨
     (c = .trainTimeout n ∧ s.pstate n = 2 ∧ dst = 1) ∨
     (c = .markerTimeout n ∧ s.pstate n = 3 ∧ s.on ingCtrlMarkerless n = false ∧ s.get ingLanestatAmlock n ≠ 255 ∧ dst = 1) ∨
     (∃ k, c = .laneLoss n k .blockLock ∧ s.pstate n = 3 ∧ dst = 2) ∨
     (∃ k why, c = .laneLoss n k why ∧ s.pstate n = 4 ∧ dst = 5) ∨
     (∃ k, c = .markerLockLoss n k ∧ s.on ingCtrlMarkerless n = false ∧ s.pstate n = 4 ∧ dst = 5) ∨
     (c = .fwdClockFault n ∧ s.pstate n = 4 ∧ dst = 5) ∨
     (c = .presentChange n false ∧ s.pstate n ≠ 0 ∧ dst = 0) ∨
     (c = .receiversOff n ∧ s.pstate n = 5 ∧
        (s.on ingPstatePrsnt n = false ∨ s.on ingCtrlEnable n = false ∨ s.on ingCtrlTest n = true) ∧ dst = 0)) →
    ∃ t, exec c s = .next t ∧ t.pstate n = dst ∧ t.evtOn (64 + 8 * n.val) = true ∧
      t = { s with regs := t.regs, ports := t.ports, streams := t.streams, chains := t.chains, feActive := t.feActive
                   linkloss := t.linkloss, notes := t.notes, msiPend := t.msiPend, msiSent := t.msiSent } ∧
      s.regsKept t (fun k => eventReg k || portReg n k) ∧ (∀ m : Fin 8, m ≠ n → t.port m = s.port m) ∧
      (∀ k, k / 64 ≠ n.val → t.stream k = s.stream k) ∧ (∀ k, k / 4096 ≠ n.val → t.chain k = s.chain k) ∧
      (dst = 1 → (t.port n).rxOn = true ∧ ∀ k, k / 64 = n.val → t.stream k = {}) ∧
      (dst = 0 → (t.port n).rxOn = false ∧ t.reg ingLanestat n 0 = 0 ∧ t.on ingPstateFault n = false) ∧
      ((c = .trainTimeout n ∨ c = .markerTimeout n) →
        t.get ingCntCount n 5 = min (s.get ingCntCount n 5 + 1) (2 ^ 32 - 1) ∧ t.evtOn (64 + 8 * n.val + 5) = true ∧
        (t.port n).fails = (s.port n).fails + 1 ∧ (3 ≤ (s.port n).fails + 1 → t.on ingPstateFault n = true)) ∧
      (s.pstate n = 4 →
        t.get ingCntCount n 4 = min (s.get ingCntCount n 4 + 1) (2 ^ 32 - 1) ∧ t.evtOn (64 + 8 * n.val + 1) = true ∧
        (t.port n).useTo = some (s.nextFrame s.frame) ∧ t.on ingPstateDrainPend n = false ∧
        (c = .fwdClockFault n → t.evtOn (64 + 8 * n.val + 7) = true)) ∧
      (s.pstate n ≠ 4 → t.linkloss = s.linkloss)) ∧
  (∀ (s : State) (n : Fin 8), s.sound = true → s.ordered = true → s.pstate n = 5 →
    s.on ingPstatePrsnt n = true → s.on ingCtrlEnable n = true → s.on ingCtrlTest n = false →
    ∃ t, exec (.receiversOff n) s = .next t ∧ (t.port n) = { s.port n with rxOn := false } ∧
      (∀ m : Fin 8, m ≠ n → t.port m = s.port m) ∧ t.reg ingLanestat n 0 = 0 ∧
      t = { s with regs := t.regs, ports := t.ports } ∧ s.regsKept t (fun k => k = ingLanestat.key n 0))

/-- R65, R67, R69: requests to drain and to rejoin, by the button or by function 0 through `INGn.CMD`. In UP while FTs
are raised the drain waits for the next FT, and while none are raised it acts at once; in DETECT, TRAIN and ALIGN it acts at
once; in DRAIN a press or REJOIN starts again at DETECT. A press sets BUTTON, source 64 + 8n + 6; one in DARK, or in UP with
a drain already pending, or with BTN_EN = 0, does nothing. -/
def Obligations.DrainsAndRejoins : Prop :=
  (∀ (s : State) (n : Fin 8) (w : Who) (c : Instr), s.sound = true → s.lets w (ingCmd.key n 0) →
    ((c = .buttonPress n ∧ s.on ingCtrlBtnEn n = true ∧ s.on ingPstateDrainPend n = false) ∨ c = .ingestDrain w n) →
    (s.pstate n = 4 → s.ticking = true →
      ∃ t, exec c s = .next t ∧ t.pstate n = 4 ∧ t.on ingPstateDrainPend n = true ∧
        (c = .buttonPress n → t.evtOn (64 + 8 * n.val + 6) = true) ∧
        s.onlyEvents t (fun k => k = ingPstate.key n 0 || k = ingStatus.key n 0) ∧
        (c = .ingestDrain w n → s.onlyRegs t (fun k => k = ingPstate.key n 0))) ∧
    ((s.pstate n = 4 ∧ s.ticking = false) ∨
      (1 ≤ s.pstate n ∧ s.pstate n ≤ 3 ∧ s.on ingPstatePrsnt n = true ∧ s.on ingCtrlEnable n = true ∧
        s.on ingCtrlTest n = false) →
      ∃ t, exec c s = .next t ∧ t.pstate n = 5 ∧ t.on ingPstateDrainPend n = (if s.pstate n = 4 then false else
          s.on ingPstateDrainPend n) ∧ t.evtOn (64 + 8 * n.val) = true ∧
        (c = .buttonPress n → t.evtOn (64 + 8 * n.val + 6) = true) ∧
        t = { s with regs := t.regs, ports := t.ports, notes := t.notes, msiPend := t.msiPend, msiSent := t.msiSent } ∧
        s.regsKept t (fun k => eventReg k || portReg n k) ∧ ∀ m : Fin 8, m ≠ n → t.port m = s.port m)) ∧
  (∀ (s : State) (n : Fin 8) (w : Who) (c : Instr), s.sound = true → s.lets w (ingCmd.key n 0) →
    ((c = .buttonPress n ∧ s.on ingCtrlBtnEn n = true) ∨ c = .ingestRejoin w n) → s.pstate n = 5 →
    s.on ingPstatePrsnt n = true → s.on ingCtrlEnable n = true → s.on ingCtrlTest n = false →
    s.ordered = true →
    ∃ t, exec c s = .next t ∧ t.pstate n = 1 ∧ t.evtOn (64 + 8 * n.val) = true ∧ (t.port n).rxOn = true ∧
      (c = .buttonPress n → t.evtOn (64 + 8 * n.val + 6) = true) ∧
      t = { s with regs := t.regs, ports := t.ports, streams := t.streams, chains := t.chains, feActive := t.feActive
                   notes := t.notes, msiPend := t.msiPend, msiSent := t.msiSent } ∧
      s.regsKept t (fun k => eventReg k || portReg n k) ∧ ∀ m : Fin 8, m ≠ n → t.port m = s.port m) ∧
  (∀ (s : State) (n : Fin 8),
    (s.on ingCtrlBtnEn n = false ∨ s.pstate n = 0 ∨ (s.pstate n = 4 ∧ s.on ingPstateDrainPend n = true)) →
    exec (.buttonPress n) s = .next s)

/-- R62: ingest packets. One whose blocks lose the framing, or whose header fails check 2, is counted in CNT_HDR (the counter
of index 1), sets HDR_ERR with source 64 + 8n + 3, ends FRAMED, and brings no sample into the front end. One that is late, or
too far ahead of its port or of the frame in hand, is counted in CNT_STALE (index 3) and dropped. One whose CRC is wrong is
counted in CNT_CRC (index 0) with source 64 + 8n + 2, and its stream goes on; one that passes every check is accepted: its
SEQ, COUNTER and PARTNER_ID stand in `INGn.LAST` and `INGn.PARTNER`. Either way its stream next expects COUNTER + 128, and
packets missed before it are counted in CNT_SEQ (index 2) with source 64 + 8n + 4. R73: a port in a near-end loop takes
none. -/
def Obligations.PacketsAccepted : Prop :=
  (∀ (s : State) (n : Fin 8) (p : Packet), s.sound = true → s.power.inReset = false →
    (s.pstate n = 3 ∨ s.pstate n = 4) → s.nearLoop n = false → s.ordered = true →
    (deframe (s.descrambled n p.blocks).1 = none ∨
      ∃ x y z, deframe (s.descrambled n p.blocks).1 = some (x, y, z) ∧ s.headerOk n (parseHeader x) = false) →
    ∃ t, exec (.ingestPacket n p) s = .next t ∧
      t.get ingCntCount n 1 = min (s.get ingCntCount n 1 + 1) (2 ^ 32 - 1) ∧ t.evtOn (64 + 8 * n.val + 3) = true ∧
      t.on ingPstateFramed n = false ∧
      t = { s with regs := t.regs, ports := t.ports, notes := t.notes, msiPend := t.msiPend, msiSent := t.msiSent } ∧
      s.regsKept t (fun k => eventReg k || k = ingCnt.key n 1 || k = ingStatus.key n 0 || k = ingPstate.key n 0) ∧
      (∀ m : Fin 8, m ≠ n → t.port m = s.port m) ∧
      t.port n = { s.port n with line := (descrambleAll (s.port n).line p.blocks).2, okRun := 0 }) ∧
  (∀ (s : State) (n : Fin 8) (p : Packet) (x y : List Byte) (z : Nat), s.sound = true → s.power.inReset = false →
    (s.pstate n = 3 ∨ s.pstate n = 4) → s.nearLoop n = false → s.ordered = true →
    deframe (s.descrambled n p.blocks).1 = some (x, y, z) → s.headerOk n (parseHeader x) = true →
    let h := parseHeader x
    let key := streamKey n h.group h.chan
    let ok := decide (crc32c (x ++ y) = z)
    let stale := s.timely h.counter = false ∨
      ∃ e, (s.stream key).expected = some e ∧ (ahead48 h.counter e < 0 ∨ s.leadOk n h.counter = false)
    let gap := match (s.port n).lastSeq with | none => 0 | some q => (h.seq + 131072 - q - 1) % 65536
    let skip := match (s.stream key).expected with | none => 0 | some e => (ahead48 h.counter e).toNat / 128
    (stale → ∃ t, exec (.ingestPacket n p) s = .next t ∧
      t.get ingCntCount n 3 = min (s.get ingCntCount n 3 + 1) (2 ^ 32 - 1) ∧ t.evtOn (64 + 8 * n.val + 3) = true ∧
      (t.port n).lastSeq = some h.seq ∧ (t.port n).okRun = (if ok then (s.port n).okRun + 1 else 0) ∧
      t = { s with regs := t.regs, ports := t.ports, notes := t.notes, msiPend := t.msiPend, msiSent := t.msiSent } ∧
      s.regsKept t (fun k => eventReg k || k = ingCnt.key n 3 || k = ingStatus.key n 0 || k = ingPstate.key n 0) ∧
      ∀ m : Fin 8, m ≠ n → t.port m = s.port m) ∧
    (¬ stale → (∀ k, s.marks.at (chainPlace k / 8) none = none) →
      ∃ t, exec (.ingestPacket n p) s = .next t ∧ (t.stream key).expected = some ((h.counter + 128) % 2 ^ 48) ∧
        (t.stream key).next = some ((h.counter + 128) % 2 ^ 48) ∧ (∀ k, k ≠ key → t.stream k = s.stream k) ∧
        (t.port n).lastSeq = some h.seq ∧ (t.port n).okRun = (if ok then (s.port n).okRun + 1 else 0) ∧
        (ok = true → t.get ingLastSeq n = h.seq % 2 ^ 16 ∧ t.get ingLastCounter n = h.counter % 2 ^ 48 ∧
          t.get ingPartnerId n = h.partner % 2 ^ 32 ∧ t.get ingCntCount n 0 = s.get ingCntCount n 0) ∧
        (ok = false → t.get ingCntCount n 0 = min (s.get ingCntCount n 0 + 1) (2 ^ 32 - 1) ∧
          t.evtOn (64 + 8 * n.val + 2) = true ∧ t.reg ingLast n 0 = s.reg ingLast n 0 ∧
          t.reg ingPartner n 0 = s.reg ingPartner n 0) ∧
        t.get ingCntCount n 2 = min (s.get ingCntCount n 2 + max skip gap) (2 ^ 32 - 1) ∧
        (max skip gap ≠ 0 → t.evtOn (64 + 8 * n.val + 4) = true) ∧
        t = { s with regs := t.regs, ports := t.ports, streams := t.streams, chains := t.chains, counts := t.counts
                     countsNext := t.countsNext, linkloss := t.linkloss, dcClear := t.dcClear, feActive := t.feActive
                     tick := { s.tick with first := t.tick.first }, notes := t.notes, msiPend := t.msiPend
                     msiSent := t.msiSent } ∧
        s.regsKept t (fun k => eventReg k || portReg n k || k = tickEpoch.key 0 0 || k = tickCtrl.key 0 0 ||
          k = tickStatus.key 0 0))) ∧
  (∀ (s : State) (n : Fin 8) (p : Packet), s.nearLoop n = true → exec (.ingestPacket n p) s = .next s)

/-- R47, R49, R51 to R54: lanes and blocks. A control block of an unknown type outside a packet counts in CNT_HDR; a lane that
locks shows its lock and its block phase; a lane with marker lock shows its logical lane, and once every lane is locked
within 64 UI of skew the deskew delays remove it; a lane that loses its lock or its marker outside UP clears its bit. R71,
R72: a PRBS checker shows lock after 64 error-free bits in a row and counts errors while locked. R54, R62, R71, R73: the
other registers of a port, written by function 0. SLIP delays a lane by one more UI, from 0 to 131 and round again; CLRCNT
clears the six counters; a write of `INGn.PRBS` selects generators and checkers; a write of `INGn.CTRL` in DARK is taken
whole, and one that would change FMT, MARKERLESS, PORTID or PORTID_ANY, or select a near-end loop without TEST, in another
state changes nothing but raises the rejected-write event. -/
def Obligations.PortsAndLanesReport : Prop :=
  (∀ (s : State) (n : Fin 8) (x : Block), s.sound = true → s.ordered = true →
    (s.pstate n = 3 ∨ s.pstate n = 4) → s.nearLoop n = false →
    let l := (s.descrambled n [x]).1
    let odd := (l.all fun y => y.1 = 2#2 && !(isControl 0x1E y || isControl 0x3C y || isControl 0xC3 y)) = true
    ∃ t, exec (.outOfPacketBlock n x) s = .next t ∧ t = { s with regs := t.regs, ports := t.ports } ∧
      t.port n = { s.port n with line := (descramble (s.port n).line x.line).2 } ∧
      (∀ m : Fin 8, m ≠ n → t.port m = s.port m) ∧
      (odd → t.get ingCntCount n 1 = min (s.get ingCntCount n 1 + 1) (2 ^ 32 - 1) ∧
        s.regsKept t (fun k => k = ingCnt.key n 1)) ∧
      (¬ odd → t.regs = s.regs)) ∧
  (∀ (s : State) (n k : Fin 8) (phase : BitVec 7), s.sound = true → (s.pstate n = 3 ∨ s.pstate n = 4) →
    ∃ t, exec (.laneBlockLock n k phase) s = .next t ∧
      t.get ingLanestatBlocklock n = setBits (s.get ingLanestatBlocklock n) k k 1 % 2 ^ 8 ∧
      t.get ingLaneDlyPhase n k = phase.toNat % 66 ∧
      t.get ingLaneDlyLogical n k = (if s.on ingCtrlMarkerless n then k.val else s.get ingLaneDlyLogical n k) ∧
      s.onlyRegs t (fun x => x = ingLanestat.key n 0 || x = ingLaneDly.key n k)) ∧
  (∀ (s : State) (n k logical : Fin 8) (late : BitVec 8), s.sound = true → s.ordered = true →
    (s.pstate n = 3 ∨ s.pstate n = 4) → s.on ingCtrlMarkerless n = false →
    ∃ t, exec (.markerLock n k logical late) s = .next t ∧
      t.get ingLanestatAmlock n = setBits (s.get ingLanestatAmlock n) k k 1 % 2 ^ 8 ∧
      t.get ingLaneDlyLogical n k = logical.val ∧
      t.port n = { s.port n with lates := (s.port n).lates.put k late.toNat 0 } ∧
      (∀ m : Fin 8, m ≠ n → t.port m = s.port m) ∧ t = { s with regs := t.regs, ports := t.ports } ∧
      (t.deskewed n = true → ∀ j l : Fin 8, (∀ i : Fin 8, t.late n i ≤ t.late n l) → t.late n l < 256 →
        t.get ingLaneDlyDly n j = t.late n l - t.late n j) ∧
      (t.deskewed n = false → ∀ j : Fin 8, t.get ingLaneDlyDly n j = s.get ingLaneDlyDly n j) ∧
      s.regsKept t (fun x => x = ingLanestat.key n 0 || (List.range 8).any fun j => x = ingLaneDly.key n j)) ∧
  (∀ (s : State) (n k : Fin 8) (c : Instr), s.sound = true →
    ((c = .laneLoss n k .blockLock ∧ s.pstate n = 2) ∨
      (c = .markerLockLoss n k ∧ s.on ingCtrlMarkerless n = false ∧ s.pstate n ≠ 4)) →
    ∃ t, exec c s = .next t ∧ s.onlyRegs t (fun x => x = ingLanestat.key n 0) ∧
      (c = .markerLockLoss n k → bit (t.get ingLanestatAmlock n) k = false ∧
        t.get ingLanestatBlocklock n = s.get ingLanestatBlocklock n) ∧
      (c = .laneLoss n k .blockLock → bit (t.get ingLanestatBlocklock n) k = false ∧
        t.get ingLanestatAmlock n = s.get ingLanestatAmlock n)) ∧
  (∀ (s : State) (w : Who) (n lane : Fin 8), s.sound = true → s.lets w (ingCmd.key n 0) → s.pstate n = 3 →
    s.on ingCtrlMarkerless n = true →
    ∃ t, exec (.ingestSlip w n lane) s = .next t ∧ s.onlyRegs t (fun x => x = ingLaneDly.key n lane) ∧
      t.get ingLaneDlyDly n lane = (s.get ingLaneDlyDly n lane + 1) % 132 ∧
      t.get ingLaneDlyPhase n lane = s.get ingLaneDlyPhase n lane ∧
      t.get ingLaneDlyLogical n lane = s.get ingLaneDlyLogical n lane) ∧
  (∀ (s : State) (n k : Fin 8) (raw : List Bool) (lost : Bool), s.sound = true → s.ordered = true →
    bit (s.get ingPrbsChk n) k = true → s.on ingCtrlTest n = true → s.get ingCtrlLoop n = 0 →
    let x := checkBits (s.checker n k) (s.on ingPrbsErrLock n k) 0 raw
    ∃ t, exec (.prbsCheckerLock n k raw lost) s = .next t ∧
      t.checker n k = (if lost then {} else x.1) ∧ t.on ingPrbsErrLock n k = (x.2.1 && !lost) ∧
      t.get ingPrbsErrErrors n k = min (s.get ingPrbsErrErrors n k + x.2.2) (2 ^ 31 - 1) ∧
      t = { s with regs := t.regs, ports := t.ports } ∧ s.regsKept t (fun x => x = ingPrbsErr.key n k)) ∧
  (∀ (c : Checker) (l : List Bool) (b : Bool),
    (checkBits c true 0 l).2.1 = true ∧
    (checkBits c true 0 [b]).2.2 = (if b = prbsNext c.last then 0 else 1) ∧
    (checkBits c false 0 [b]).2.2 = 0 ∧
    ((checkBits c false 0 [b]).2.1 = true ↔ b = prbsNext c.last ∧ c.seen = 31 ∧ 63 ≤ c.run)) ∧
  (∀ (s : State) (w : Who) (n : Fin 8), s.sound = true → s.lets w (ingCmd.key n 0) →
    ∃ t, exec (.ingestClrcnt w n) s = .next t ∧ (∀ c : Fin 6, t.get ingCntCount n c = 0) ∧
      s.onlyRegs t (fun x => (List.range 6).any fun c => x = ingCnt.key n c)) ∧
  (∀ (s : State) (w : Who) (n : Fin 8) (v : Word), s.sound = true → s.lets w (ingPrbs.key n 0) →
    ∃ t, exec (.prbsCtrlWrite w n v) s = .next t ∧ t = { s with regs := t.regs, ports := t.ports } ∧
      t.get ingPrbsChk n = bits v.toNat 15 8 ∧ t.get ingPrbsGen n = bits v.toNat 7 0 ∧
      (∀ k : Fin 8, bit v.toNat (8 + k) = true → bit (s.get ingPrbsChk n) k = false →
        t.reg ingPrbsErr n k = 0 ∧ t.checker n k = {}) ∧
      (∀ k : Fin 8, bit v.toNat (8 + k) = true → bit (s.get ingPrbsChk n) k = true →
        t.reg ingPrbsErr n k = s.reg ingPrbsErr n k) ∧
      (∀ k : Fin 8, bit v.toNat (8 + k) = false → t.on ingPrbsErrLock n k = false ∧
        t.get ingPrbsErrErrors n k = s.get ingPrbsErrErrors n k) ∧
      s.regsKept t (fun x => x = ingPrbs.key n 0 || (List.range 8).any fun k => x = ingPrbsErr.key n k)) ∧
  (∀ (s : State) (w : Who) (n : Fin 8) (v : Word), s.sound = true → s.lets w (ingCtrl.key n 0) → s.pstate n = 0 →
    (bit v.toNat 0 = false ∨ bit v.toNat 5 = true ∨ s.on ingPstatePrsnt n = false) →
    ∃ t, exec (.ingestCtrlWrite w n v) s = .next t ∧ t = { s with regs := t.regs, fresh := t.fresh } ∧
      t.reg ingCtrl n 0 = writeFields ingCtrl.fields (s.reg ingCtrl n 0) v.toNat % 2 ^ 32 ∧
      t.get ingCtrlFmt n = bits v.toNat 9 8 ∧ t.get ingCtrlPortid n = bits v.toNat 14 12 ∧
      t.get ingCtrlLoop n = bits v.toNat 7 6 ∧ t.get ingCtrlMarkerless n = bits v.toNat 3 3 ∧
      t.get ingCtrlBtnEn n = bits v.toNat 1 1 ∧ t.get ingCtrlTest n = bits v.toNat 5 5 ∧
      t.get ingCtrlEnable n = bits v.toNat 0 0 ∧
      s.regsKept t (fun x => x = ingCtrl.key n 0 || (bit v.toNat 4 && !s.on ingCtrlAdaptFreeze n &&
        (List.range 8).any fun k => x = ingLaneEq.key n k))) ∧
  (∀ (s : State) (w : Who) (n : Fin 8) (v : Word), s.sound = true → s.lets w (ingCtrl.key n 0) → s.pstate n ≠ 0 →
    (bits v.toNat 9 8 ≠ s.get ingCtrlFmt n ∨ bits v.toNat 3 3 ≠ s.get ingCtrlMarkerless n ∨
      bits v.toNat 14 12 ≠ s.get ingCtrlPortid n ∨ bits v.toNat 11 11 ≠ s.get ingCtrlPortidAny n ∨
      ((bits v.toNat 7 6 = 1 ∨ bits v.toNat 7 6 = 2) ∧ bit v.toNat 5 = false)) →
    ∃ t, exec (.ingestCtrlWrite w n v) s = .next t ∧ s.refused t w (ingCtrl.key n 0))

/-! ## Front end, tables, move engines and the frame ring (R79 to R124, R158, R159) -/

/-- R79, R81, R89, R96: the front end's controls. `FE.CFG` is taken whole while RUN is 0 and its row is one of the five, and
`FE.DFE` then reads the group delay P·T + ⌊W/2⌋ + 26; a new row starts frame numbers anew. A write while RUN is 1, or of
another row, is refused. `FEn.CTRL` and `FEn.SPIKE` are taken whole, and once they take effect they act on every coarse
sample from the port's foremost on. DC_CLR waits for the next coarse sample of its port alone; CLRCNT clears the port's
counters and snapshot. -/
def Obligations.FrontEndControls : Prop :=
  (∀ (s : State) (w : Who) (v : Word), s.sound = true → s.lets w (feCfg.key 0 0) → s.on tickCtrlRun = false →
    bits v.toNat 2 0 < 5 →
    ∃ t, exec (.feCfgWrite w v) s = .next t ∧ t = { s with regs := t.regs, ports := t.ports, linkloss := t.linkloss } ∧
      t.reg feCfg 0 0 = writeFields feCfg.fields (s.reg feCfg 0 0) v.toNat % 2 ^ 32 ∧
      t.get feDfeSamples = t.chanP * t.taps + t.spikeWin / 2 + 26 ∧
      (bits v.toNat 2 0 = s.get feCfgPSel → t = { s with regs := t.regs }) ∧
      (bits v.toNat 2 0 ≠ s.get feCfgPSel → s.get feCfgPSel < 5 → t.linkloss = [] ∧
        ∀ n, t.port n = { s.port n with bounds := [], judge := [], good := false, useFrom := none, useTo := none }) ∧
      s.regsKept t (fun k => k = feCfg.key 0 0 || k = feDfe.key 0 0)) ∧
  (∀ (s : State) (w : Who) (v : Word), s.sound = true → s.lets w (feCfg.key 0 0) →
    (s.on tickCtrlRun = true ∨ 5 ≤ bits v.toNat 2 0) →
    ∃ t, exec (.feCfgWrite w v) s = .next t ∧ s.refused t w (feCfg.key 0 0)) ∧
  (∀ (s : State) (w : Who) (n : Fin 8) (spike : Bool) (v : Word), s.sound = true →
    s.lets w ((if spike then feSpike else feCtrl).key n 0) →
    ∃ t, exec (.feCtrlWrite w n spike v) s = .next t ∧
      s.onlyRegs t (fun k => k = (if spike then feSpike else feCtrl).key n 0) ∧
      t.reg (if spike then feSpike else feCtrl) n 0 =
        writeFields (if spike then feSpike else feCtrl).fields (s.reg (if spike then feSpike else feCtrl) n 0) v.toNat %
          2 ^ 32) ∧
  (∀ (s : State) (n : Fin 8),
    ∃ t, exec (.feCtrlEffect n) s = .next t ∧ t = { s with feActive := t.feActive } ∧
      (∀ c, (∀ d, farthest true (s.nextSamples n) = some d → 0 ≤ ahead48 c d) →
        t.feCtl n c = (s.reg feCtrl n 0, s.reg feSpike n 0)) ∧
      ∀ m c, m ≠ n.val → t.feCtl m c = s.feCtl m c) ∧
  (∀ (s : State) (w : Who) (n : Fin 8), s.lets w (feCmd.key n 0) →
    exec (.dcClr w n) s = .next { s with dcClear := s.dcClear ||| (1#8 <<< n.val) }) ∧
  (∀ (s : State) (w : Who) (n : Fin 8), s.sound = true → s.lets w (feCmd.key n 0) →
    ∃ t, exec (.feClrcnt w n) s = .next t ∧ t.get feCntCount n 0 = 0 ∧ t.get feCntCount n 1 = 0 ∧
      (∀ i : Fin 256, ∀ x : Fin 3, t.counts.at (3 * (256 * n.val + i.val) + x.val) 0 = 0 ∧
        t.countsNext.at (3 * (256 * n.val + i.val) + x.val) 0 = 0 ∧
        t.snapshot.at (3 * (256 * n.val + i.val) + x.val) 0 = 0) ∧
      (∀ k, k / 768 ≠ n.val → t.counts.at k 0 = s.counts.at k 0 ∧ t.countsNext.at k 0 = s.countsNext.at k 0 ∧
        t.snapshot.at k 0 = s.snapshot.at k 0) ∧
      t = { s with regs := t.regs, counts := t.counts, countsNext := t.countsNext, snapshot := t.snapshot } ∧
      s.regsKept t (fun k => k = feCnt.key n 0 || k = feCnt.key n 1))

/-- R35, R79, R98, R99, R158, R159, R171: writes of the shadowed tables. One that its writer may not make, or of a live view,
or of a user coefficient while RUN is 1, is refused. One that waits, for the FT after the seal point or for the fill of its
memory, is held, and no table changes. Any other one lands: a byte of an inactive bank of weights, thresholds, gains or
polynomials reads back through its view, and every live view reads what it read. FE_INIT_DONE sets INIT_DONE, and
WEIGHT_INIT_DONE leaves every byte of both weight banks 0 and clean; then what waited for the fill lands, in order. -/
def Obligations.ShadowWrites : Prop :=
  (∀ (s : State) (w : Who) (a : BitVec 48) (d : List Byte), s.sound = true → isView a.toNat = true →
    s.reachable w 0x1000000 = true →
    (s.tableRefused w a.toNat = true →
      ∃ t, exec (.shadowTableWrite w a d) s = .next t ∧ s.refused t w a.toNat) ∧
    (s.tableRefused w a.toNat = false → s.blocked a.toNat = true →
      exec (.shadowTableWrite w a d) s =
        .next { s with tick := { s.tick with held := s.tick.held ++ [⟨w, a.toNat, d, []⟩] } })) ∧
  (∀ (s : State) (w : Who) (a : BitVec 48) (x : Byte), s.sound = true → s.ordered = true → s.reachable w 0x1000000 = true →
    s.tableRefused w a.toNat = false → s.blocked a.toNat = false →
    ((∃ r b o, memKind a.toNat = .weights false r b o ∧ o < s.weightBytes r b) ∨
      (∃ r u o, memKind a.toNat = .thresholds false r u o) ∨
      ∃ n o k, memKind a.toNat = .table n o ∧ 0x1000000 ≤ o ∧ (s.tableWord n o = some (.gain k) ∨ s.tableWord n o = some (.poly k))) →
    ∃ t, exec (.shadowTableWrite w a [x]) s = .next t ∧ t.viewByte a.toNat = x ∧
      t = { s with mem := t.mem, marks := t.marks, lines := t.lines, thr := t.thr, gain := t.gain, poly := t.poly
                   badGain := t.badGain } ∧
      ∀ y, ((∃ r b o, memKind y = .weights true r b o) ∨ (∃ r u o, memKind y = .thresholds true r u o) ∨
        (∃ n o, memKind y = .table n o ∧ (o < 0x1000000 ∨ 0x2000000 ≤ o ∧ o < 0x3000000 ∨ 0x3800000 ≤ o))) →
        t.viewByte y = s.viewByte y) ∧
  (∀ (s : State) (w : Who) (a : Nat),
    (∀ n o, memKind a = .table n o →
      (s.tableRefused w a = true ↔ w.fn ≠ 0 ∨ (o < 0x2000 ∧ s.on tickCtrlRun = true) ∨ (0x2000000 ≤ o ∧ o < 0x2400000) ∨
        (0x3800000 ≤ o ∧ o < 0x3802000)) ∧
      (a < 2 ^ 50 → (s.blocked a = true ↔ s.on feStatusInitDone = false ∨ (s.on tickStatusSealed = true ∧ 0x1000000 ≤ o)))) ∧
    (∀ live r b o, memKind a = .weights live r b o →
      (s.tableRefused w a = true ↔ live = true ∨ w.fn.val ≠ s.blockTen (12 * r + b)) ∧
      (a < 2 ^ 50 → live = false → (s.blocked a = true ↔ s.filling = true ∨ s.on tickStatusSealed = true))) ∧
    (∀ r u o, memKind a = .thresholds false r u o →
      (s.tableRefused w a = true ↔ w.fn ≠ 0 ∧ w.fn.val ≠ u) ∧
      (a < 2 ^ 50 → (s.blocked a = true ↔ s.on tickStatusSealed = true)))) ∧
  (∀ s : State, s.sound = true → s.power.inReset = false →
    let u := s.set feStatusInitDone 1
    ∃ t, exec .feInitDone s = .next t ∧ t.on feStatusInitDone = true ∧
      t.tick = { s.tick with held := s.tick.held.filter fun h => u.blocked h.addr } ∧
      t = { s with regs := t.regs, tick := t.tick, c0 := t.c0, f0 := t.f0, coef := t.coef, gain := t.gain, poly := t.poly
                   thr := t.thr, mem := t.mem, marks := t.marks, lines := t.lines, badGain := t.badGain } ∧
      s.regsKept t (fun k => k = feStatus.key 0 0) ∧
      ((∀ h ∈ s.tick.held, u.blocked h.addr = true) → t = { s with regs := t.regs }) ∧
      ∀ h, s.tick.held = [h] → u.blocked h.addr = false →
        t = ({ u with tick := { s.tick with held := [] } } : State).landTable h.addr h.data h.bad) ∧
  (∀ s : State, s.sound = true → s.power.inReset = false → s.filling = true →
    ∃ u : State, exec .weightInitDone s = .next u.landHeld ∧
      u = { s with mem := u.mem, marks := u.marks, lines := u.lines, weighted := 15, filling := false } ∧
      (∀ a, (inBanks a).isSome = true → u.byte a = 0 ∧ u.mark a = .clean) ∧
      ∀ a, inBanks a = none → u.byte a = s.byte a ∧ u.mark a = s.mark a)

/-- R84, R86, R90, R95: the fine samples of a stream form in order of their time. One of the coming frame waits in its port's
hold, with each input flagged that has more flagged samples in its window than LIMIT, or nothing else; one of the frame in
hand, of a port out of the data flow, or after the hold's release leaves at once, one element for each fine channel.
HOLD_RELEASE, after the seal point, empties the hold the same way. Where the bank forms samples before the first FT is the
model's choice (log entry 109). -/
def Obligations.FineSamplesFormAndWait : Prop :=
  (∀ (s : State) (n : Fin 8) (g : Fin 4) (j : Fin 16) (k : BitVec 34) (x : BitVec 13) (ds : List (BitVec 8 × Fin 8)),
    s.fineFrame k.toNat = true → x.toNat < s.lenL → x.toNat = s.nextFine (streamKey n g j) k.toNat →
    s.windowIn n g j k.toNat x.toNat = true →
    let size := if s.wide then 32 else 64
    ∃ t, exec (.fineSampleFormed n g j k x ds) s = .next t ∧ t.nextFine (streamKey n g j) k.toNat = x.toNat + 1 ∧
      (∀ m, m ≠ streamKey n g j → t.formed.at m (2 ^ 40, 0) = s.formed.at m (2 ^ 40, 0)) ∧
      (s.fineInFlow n k.toNat = true → s.tick.seen = true → k.toNat = s.nextFrame s.frame → k.toNat ≠ s.frame →
        s.nextFrame k.toNat ≠ s.frame → bit s.released.toNat n = false → (s.hold.at n []).length < s.holdMax →
        s.sound = true → s.on feCfgCoefSrc = false → (∀ k, s.marks.at (chainPlace k / 8) none = none) →
        t.staging = s.staging ∧ t.mem = s.mem ∧
          s.regsKept t (fun q => q = feCnt.key n 0 || q = feStatusN.key n 0) ∧
          t = { s with formed := t.formed, hold := t.hold, regs := t.regs, linkloss := t.linkloss } ∧
          (∀ m, m ≠ n.val → t.hold.at m [] = s.hold.at m []) ∧
          ∃ f, t.hold.at n [] = s.hold.at n [] ++ [f] ∧ f.g = g.val ∧ f.j = j.val ∧ f.frame = k.toNat ∧
            f.t = x.toNat ∧ f.cols.length = size ∧
            ∀ i, i < size → ((nth f.cols i (true, [])).1 = true ↔
              let bad := ((List.range (s.chanP * s.taps)).filter fun q =>
                (s.filtered (chainKey n (size * g + i) j) (s.stream (streamKey n g j))
                  ((s.frameStart k.toNat + x.toNat * s.chanP + q) % 2 ^ 48)).flagged).length
              s.get feFlaglimLimit < bad ∨ bad = s.chanP * s.taps ∨
                ∃ q, q < s.chanP * s.taps ∧ (s.filtered (chainKey n (size * g + i) j) (s.stream (streamKey n g j))
                  ((s.frameStart k.toNat + x.toNat * s.chanP + q) % 2 ^ 48)).bad = true)) ∧
      ((s.fineInFlow n k.toNat = false ∨ bit s.released.toNat n = true ∨ (s.tick.seen = true ∧ k.toNat = s.frame)) →
        t.hold = s.hold ∧ ∃ l, t.staging = s.staging ++ l ∧ l.length = s.chanP ∧
          ∀ m, m < s.chanP → ∃ y, l[m]? = some y ∧ y.port = n.val ∧ y.g = g.val ∧ y.frame = k.toNat ∧ y.t = x.toNat ∧
            y.c = s.chanP * j + m ∧ y.bytes.length = size ∧
            (s.fineInFlow n k.toNat = false → y.bytes = List.replicate size 0x88))) ∧
  (∀ (s : State) (n : Fin 8), s.on tickStatusSealed = true → bit s.released.toNat n = false → s.ordered = true →
    ∃ t, exec (.holdRelease n) s = .next t ∧ t.hold.at n [] = [] ∧ t.released = s.released ||| (1#8 <<< n.val) ∧
      (∀ m, m ≠ n.val → t.hold.at m [] = s.hold.at m []) ∧
      ∃ l, t.staging = s.staging ++ l ∧ l.length = s.chanP * (s.hold.at n []).length ∧ ∀ y ∈ l, y.port = n.val)

/-- R101, R123, R124: a ring's doorbell and configuration. The tenancy of the ring writes TAIL; an engine that is enabled,
also one that had stopped at an entry it did not own, then has the entries up to TAIL waiting, no more and no fewer; PEAK
follows the occupancy, and WM with source 418 marks its crossing. Function 0 writes RING_CFG, which an engine that is busy
refuses; ENABLE receives what the ring holds and ends no stop. -/
def Obligations.RingRegisters : Prop :=
  (∀ (s : State) (w : Who) (e : Fin 16) (v : Word), s.sound = true → s.ordered = true →
    s.reachable w (mvTail.key e 0) = true → s.admitted w (mvTail.key e 0) = true → w.fn.val = s.get mvRingCfgTen e →
    let n := s.ringSize e
    ∃ t, exec (.mvDoorbell w e v) s = .next t ∧ t.get mvTailValue e = v.toNat % 2 ^ 16 ∧
      t.get mvPeakValue e = max (s.get mvPeakValue e) (t.ringOcc e) ∧
      { s with engines := t.engines }.sameBut t ∧ (∀ k, k ≠ e.val → t.engine k = s.engine k) ∧
      (s.on mvRingCfgEnable e = false → t.engines = s.engines) ∧
      (s.on mvRingCfgEnable e = true →
        t.engine e = { s.engine e with stopped := false, waiting := (t.engine e).waiting } ∧
        ((t.engine e).waiting.filter fun x => x = .ring).length =
          (v.toNat % 2 ^ 16 + n - (s.engine e).fetched % n) % n ∧
        ((t.engine e).waiting.filter fun x => x ≠ .ring) = ((s.engine e).waiting.filter fun x => x ≠ .ring)) ∧
      (crosses (s.get mvWmValue e) (s.ringOcc e) (t.ringOcc e) = true → t.on mvStatusWm e = true ∧ t.evtOn 418 = true ∧
        s.regsKept t (fun k => eventReg k || k = mvTail.key e 0 || k = mvPeak.key e 0 || k = mvStatus.key e 0)) ∧
      (crosses (s.get mvWmValue e) (s.ringOcc e) (t.ringOcc e) = false →
        t = { s with regs := t.regs, engines := t.engines } ∧
        s.regsKept t (fun k => k = mvTail.key e 0 || k = mvPeak.key e 0))) ∧
  (∀ (s : State) (w : Who) (e : Fin 16) (v : Word), s.sound = true → s.ordered = true → s.lets w (mvRingCfg.key e 0) →
    (s.engine e).jobs = [] →
    ∃ t, exec (.mvRingCfgWrite w e v) s = .next t ∧ t.get mvRingCfgEnable e = bits v.toNat 31 31 ∧
      t.get mvRingCfgTen e = bits v.toNat 17 16 ∧ t.get mvRingCfgNote e = bits v.toNat 8 8 ∧
      t.get mvRingCfgSize e = bits v.toNat 4 0 ∧ t = { s with regs := t.regs, engines := t.engines } ∧
      s.regsKept t (fun k => k = mvRingCfg.key e 0) ∧ (∀ k, k ≠ e.val → t.engine k = s.engine k) ∧
      t.engine e = { s.engine e with waiting := (t.engine e).waiting } ∧
      (bit v.toNat 31 = false → t.engines = s.engines) ∧
      (bit v.toNat 31 = true → ((t.engine e).waiting.filter fun x => x = .ring).length =
        (s.get mvTailValue e + t.ringSize e - (s.engine e).fetched % t.ringSize e) % t.ringSize e)) ∧
  (∀ (s : State) (w : Who) (e : Fin 16) (v : Word), s.sound = true → s.lets w (mvRingCfg.key e 0) →
    (s.engine e).jobs ≠ [] →
    ∃ t, exec (.mvRingCfgWrite w e v) s = .next t ∧ s.refused t w (mvRingCfg.key e 0))

/-- R101, R102, R107: an engine takes its next descriptor, read where memory serves it and no earlier request touches it. It
stops at a ring entry whose OWN is 0, with NOTOWN and source 417; any other one goes in progress as it stands, an empty one
with code 1 and a malformed one with code 4. R103, R106, R210: the oldest descriptor of an engine completes. A descriptor of
one element between plain memories has then moved it, and every other byte but its own bytes 56 to 63 is as it was. These
hold BYTES, CHECK, the completion code and OWN = 0; a code of 2 or more sets FAULT with source 416. A ring entry steps HEAD,
and where NOTE is set its completion note joins the tenancy's queue while it fits; one of a block frees its barrier and sets
its line. -/
def Obligations.DescriptorsRun : Prop :=
  (∀ (s : State) (e : Fin 16) (src : DescSource) (a : Nat), s.sound = true → s.power.inReset = false → s.ordered = true →
    s.nextSubmission e = some src → s.descAddr e src = a → a % 64 = 0 → engineReaches e a = true → s.cleanRange a 64 →
    s.servedRange a 64 → s.fetchHeld e a = false →
    ∃ t, exec (.descriptorFetch e) s = .next t ∧ (∀ k, k ≠ e.val → t.engine k = s.engine k) ∧
      t.used = (if a < dramEnd then s.used.put (s.sourceTen e src) (s.used.at (s.sourceTen e src) 0 + 64) 0 else s.used) ∧
      (src = .ring → (parseDesc (s.bytes a 64)).own = false →
        t.engine e = { s.engine e with stopped := true, waiting := (s.engine e).waiting.filter fun x => x ≠ .ring } ∧
        t.on mvStatusNotown e = true ∧ t.evtOn 417 = true ∧
        { s with engines := t.engines, used := t.used }.onlyEvents t (fun k => k = mvStatus.key e 0)) ∧
      ((src ≠ .ring ∨ (parseDesc (s.bytes a 64)).own = true) → t = { s with engines := t.engines, used := t.used } ∧
        ∃ j, t.engine e = { s.engine e with
            waiting := (s.engine e).waiting.erase src, jobs := (s.engine e).jobs ++ [j]
            fetched := if src = .ring then ((s.engine e).fetched + 1) % s.ringSize e else (s.engine e).fetched } ∧
          j.src = src ∧ j.addr = a ∧ j.desc = s.bytes a 64 ∧ j.ten = s.sourceTen e src ∧ j.frame = s.frame ∧
          ((parseDesc (s.bytes a 64)).total = 0 → j.code = some 1) ∧
          ((parseDesc (s.bytes a 64)).total ≠ 0 → (parseDesc (s.bytes a 64)).bad = true → j.code = some 4))) ∧
  (∀ (s : State) (e : Fin 16) (j : Job) (rest : List Job) (moved bytes c : Nat), s.sound = true →
    s.power.inReset = false → s.ordered = true → s.hostCut = false → (s.engine e).jobs = j :: rest → j.cut = false →
    j.addr % 64 = 0 → engineReaches e j.addr = true → s.servedRange j.addr 64 →
    let d := parseDesc j.desc
    ((j.code = some c ∧ bytes = 0) ∨
      (j.code = none ∧ j.stream = false ∧ d.c0 = 1 ∧ d.c1 = 1 ∧ d.c2 = 1 ∧ d.smode = 0 ∧ d.dmode = 0 ∧ d.mcast = 0 ∧
        d.shuf = 0 ∧ 0 < d.elem ∧ s.jobReady e j = true ∧ s.cleanRange d.src d.elem ∧ s.servedRange d.src d.elem ∧
        s.servedRange d.dst d.elem ∧ (d.dst + d.elem ≤ j.addr + 56 ∨ j.addr + 64 ≤ d.dst) ∧ bytes = d.elem ∧ c = 0)) →
    c < 256 →
    ∃ t, exec (.descriptorComplete e moved) s = .next t ∧ t.engine e = { s.engine e with jobs := rest } ∧
      (∀ k, k ≠ e.val → t.engine k = s.engine k) ∧
      t.bytes (j.addr + 56) 8 = leBytes 4 bytes ++ [0, 0, BitVec.ofNat 8 c, 0] ∧
      (j.code = none → t.bytes d.dst d.elem = s.bytes d.src d.elem) ∧
      (∀ x, (x < j.addr + 56 ∨ j.addr + 64 ≤ x) → (j.code = none → x < d.dst ∨ d.dst + d.elem ≤ x) →
        t.byte x = s.byte x) ∧
      (2 ≤ c → t.on mvStatusFault e = true ∧ t.evtOn 416 = true) ∧
      { s with mem := t.mem, marks := t.marks, lines := t.lines, engines := t.engines, used := t.used
               seqs := t.seqs }.sameBut t ∧
      s.regsKept t (fun k => eventReg k || k = mvStatus.key e 0 || k = mvHead.key e 0) ∧
      (j.src = .ring → t.seqs = s.seqs ∧ t.get mvHeadValue e = (s.get mvHeadValue e + 1) % s.ringSize e ∧
        (c < 2 → s.on mvRingCfgNote e = true → (s.noteQ j.ten).used + 4 ≤ 2048 →
          (⟨1, 1, [BitVec.ofNat 32 (e.val * 65536 + s.get mvHeadValue e), BitVec.ofNat 32 bytes, BitVec.ofNat 32 c]⟩ : Note)
            ∈ (t.noteQ j.ten).notes) ∧
        (c < 2 → s.on mvRingCfgNote e = false → t.notes = s.notes ∧ s.regsKept t (fun k => k = mvHead.key e 0))) ∧
      (∀ b x bar line, j.src = .block b x bar line → t.reg mvHead e 0 = s.reg mvHead e 0 ∧
        t.seq b = { s.seq b with
          moves := (s.seq b).moves.erase bar
          evt := match line with | some l => (s.seq b).evt ||| (1#32 <<< l) | none => (s.seq b).evt } ∧
        ∀ k, k ≠ b → t.seq k = s.seq k))

/-- R115, R117, R120, R121: freeze, thaw and mark. A request of a function that may act on the full ring is pending until the
FT where it would change the ring, and cancels what is pending where it would not; the function's own keep ring takes it
the same way. That a repeated request keeps the acceptance of the earlier one is the model's choice (log entry 114). A host
write of another function reaches its keep ring alone and raises the rejected-write event; one of a conductor context sets
DENIED. The mark takes only a frame the ring holds, and is cleared by bit 63. -/
def Obligations.MireRequests : Prop :=
  (∀ (s : State) (w : Who) (thaw : Bool), s.sound = true → s.reachable w (mireCmd.key 0 0) = true →
    s.admitted w (mireCmd.key 0 0) = true →
    let want := if thaw then 2 else 1
    let asked : Option (Bool × Bool) :=
      if bit s.mire.keepFrozen.toNat w.fn = thaw then
        (match s.mire.keepPend.at w.fn none with
          | some (x, l) => if x = thaw then some (x, l) else some (thaw, s.on tickStatusSealed)
          | none => some (thaw, s.on tickStatusSealed))
      else none
    let kept := if s.keepOn w.fn then s.mire.keepPend.put w.fn asked none else s.mire.keepPend
    ∃ t, exec (if thaw then .mireCmdThaw w else .mireCmdFreeze w) s = .next t ∧
      (s.mireAllowed w.fn = true →
        t.get mireStatusPend = (if s.on mireStatusFrozen = thaw then want else 0) ∧
        s.regsKept t (fun k => k = mireStatus.key 0 0) ∧ t.on mireStatusFrozen = s.on mireStatusFrozen ∧
        t.on mireStatusDenied = s.on mireStatusDenied ∧
        t = { s with regs := t.regs, mire := { s.mire with
          keepPend := kept
          late := if s.on mireStatusFrozen = thaw ∧ s.get mireStatusPend ≠ want then s.on tickStatusSealed
            else s.mire.late } }) ∧
      (s.mireAllowed w.fn = false → w.path = .bar0 →
        { s with mire := { s.mire with keepPend := kept } }.refused t w (mireCmd.key 0 0)) ∧
      (s.mireAllowed w.fn = false → w.path ≠ .bar0 → t.on mireStatusDenied = true ∧
        { s with mire := { s.mire with keepPend := kept } }.onlyRegs t (fun k => k = mireStatus.key 0 0))) ∧
  (∀ (s : State) (w : Who) (v : BitVec 64), s.sound = true → s.lets w (mireMark.key 0 0) →
    (bit v.toNat 63 = false → ∃ t, exec (.mireMarkWrite w v) s = .next t ∧ t.on mireMarkArmed = false ∧
      t.get mireMarkFrame = s.get mireMarkFrame ∧ s.onlyRegs t (fun k => k = mireMark.key 0 0)) ∧
    (bit v.toNat 63 = true → (s.ringSlotOf (bits v.toNat 33 0)).isSome = true →
      ∃ t, exec (.mireMarkWrite w v) s = .next t ∧ t.on mireMarkArmed = true ∧ t.get mireMarkFrame = bits v.toNat 33 0 ∧
        s.onlyRegs t (fun k => k = mireMark.key 0 0)) ∧
    (bit v.toNat 63 = true → s.ringSlotOf (bits v.toNat 33 0) = none →
      ∃ t, exec (.mireMarkWrite w v) s = .next t ∧ s.refused t w (mireMark.key 0 0)))

/-! ## Sequencers and the S slot (R176 to R208) -/

/-- R184, R185, R197, R273: START, STOP and the windows of a context. START, by function 0 or the tenancy that owns the
sequencer, acts in OFF, HALTED and FAULT, on a block that is not retired and a context of a tenancy that is assigned: the
sequencer is in INIT at INIT_PC with its registers anew, and its exception register reads 0; otherwise it does nothing. STOP
acts at the next FT while a frame program runs or has ended, and otherwise takes the sequencer to OFF, its queued cell
operations and the descriptors no engine has started dropped. Function 0 gives a context in OFF its windows, which must not
overlap another context's; a write in another state, or of windows that overlap, is refused. -/
def Obligations.StartsAndStops : Prop :=
  (∀ (s : State) (w : Who) (r : Fin 4) (b : Fin 12), s.reachable w (blkSeqcmd.key r b) = true →
    s.admitted w (blkSeqcmd.key r b) = true → (w.fn = 0 ∨ w.fn.val = s.blockTen (12 * r + b)) →
    let q := s.seq (12 * r + b)
    exec (.seqStart w r b) s = .next (if q.st.idle && !s.blockRetired (12 * r + b) then
      (s.setSeq (12 * r + b) { st := .init, pc := s.get blkProgInitPc r b, evt := q.evt, slack := q.slack, moves := q.moves
                               ports := q.ports, starts := q.starts }).setReg blkExc r b 0
      else s)) ∧
  (∀ (s : State) (w : Who) (n : Fin 4), s.sound = true → s.ordered = true → s.reachable w (cndCtrl.key n 0) = true →
    s.admitted w (cndCtrl.key n 0) = true → (w.fn = 0 ∨ w.fn.val = n.val) →
    let q := s.seq (48 + n)
    ∃ t, exec (.cndStart w n) s = .next t ∧ t = { s with regs := t.regs, seqs := t.seqs } ∧
      t.get cndCtrlRestart n = s.get cndCtrlRestart n ∧ (∀ k, k ≠ 48 + n.val → t.seq k = s.seq k) ∧
      (q.st.idle = true → s.assigned n = true → t.reg cndExc n 0 = 0 ∧ t.seq (48 + n) =
        { st := .init, pc := s.get cndProgInitPc n, evt := q.evt, slack := q.slack, moves := q.moves, ports := q.ports
          starts := q.starts } ∧ s.regsKept t (fun k => k = cndExc.key n 0 || k = cndCtrl.key n 0)) ∧
      ((q.st.idle = false ∨ s.assigned n = false) → t.seqs = s.seqs ∧ s.regsKept t (fun k => k = cndCtrl.key n 0))) ∧
  (∀ (s : State) (w : Who) (r : Fin 4) (b : Fin 12), s.ordered = true → s.reachable w (blkSeqcmd.key r b) = true →
    s.admitted w (blkSeqcmd.key r b) = true → (w.fn = 0 ∨ w.fn.val = s.blockTen (12 * r + b)) →
    let i := 12 * r.val + b.val
    let q := s.seq i
    let mine := fun (x : DescSource) => match x with | .block k _ _ _ => k = i | .ring => false
    ((q.st = .run ∨ q.st = .ended) → exec (.seqStop w r b) s = .next (s.setSeq i { q with stopping := true })) ∧
    (q.st = .off → exec (.seqStop w r b) s = .next s) ∧
    (q.st ≠ .run → q.st ≠ .ended → q.st ≠ .off →
      ∃ t, exec (.seqStop w r b) s = .next t ∧ (t.seq i).st = .off ∧ (t.seq i).stalled = false ∧
        (t.seq i).ending = false ∧ (t.seq i).stopping = false ∧ (t.seq i).loops = [] ∧ (t.seq i).target = none ∧
        (t.seq i).s = q.s ∧ (t.seq i).p = q.p ∧ (t.seq i).v = q.v ∧ (t.seq i).masks = q.masks ∧ (t.seq i).pc = q.pc ∧
        (∀ k, k ≠ i → t.seq k = s.seq k) ∧
        (∀ k, t.cell k = if k / 32 = i then (s.cell k).dropWaiting else s.cell k) ∧
        (∀ e, e < 16 → t.engine e = { s.engine e with waiting := (s.engine e).waiting.filter fun x => !mine x }) ∧
        ((∀ e, e < 16 → ∀ x ∈ (s.engine e).waiting, mine x = false) →
          t = { s with seqs := t.seqs, cells := t.cells, engines := t.engines }))) ∧
  (∀ (s : State) (w : Who) (n : Fin 4), s.sound = true → s.ordered = true → s.reachable w (cndCtrl.key n 0) = true →
    s.admitted w (cndCtrl.key n 0) = true → (w.fn = 0 ∨ w.fn.val = n.val) →
    let q := s.seq (48 + n)
    ∃ t, exec (.cndStop w n) s = .next t ∧ t = { s with regs := t.regs, seqs := t.seqs } ∧
      t.get cndCtrlRestart n = s.get cndCtrlRestart n ∧ s.regsKept t (fun k => k = cndCtrl.key n 0) ∧
      (∀ k, k ≠ 48 + n.val → t.seq k = s.seq k) ∧
      t.seq (48 + n) = (match q.st with
        | .off => q
        | .run | .ended => { q with stopping := true }
        | _ => { q with st := .off, stalled := false, ending := false, stopping := false, dying := false, target := none
                        delay := false, loops := [] })) ∧
  (∀ (s : State) (w : Who) (n : Fin 4) (v : Word), s.sound = true → s.lets w (cndMem.key n 0) →
    (s.seq (48 + n)).st = .off →
    (∀ u : Fin 4, u ≠ n →
      overlaps (bits v.toNat 23 16) (bits v.toNat 31 24) (s.get cndMemDbase u) (s.get cndMemDsize u) = false ∧
      overlaps (bits v.toNat 7 0) (bits v.toNat 15 8) (s.get cndMemIbase u) (s.get cndMemIsize u) = false) →
    ∃ t, exec (.cndMemWrite w n v) s = .next t ∧ t.reg cndMem n 0 = v.toNat ∧ s.onlyRegs t (fun k => k = cndMem.key n 0)) ∧
  (∀ (s : State) (w : Who) (n : Fin 4) (v : Word), s.sound = true → s.lets w (cndMem.key n 0) →
    ((s.seq (48 + n)).st ≠ .off ∨ ∃ u : Fin 4, u ≠ n ∧
      (overlaps (bits v.toNat 23 16) (bits v.toNat 31 24) (s.get cndMemDbase u) (s.get cndMemDsize u) = true ∨
       overlaps (bits v.toNat 7 0) (bits v.toNat 15 8) (s.get cndMemIbase u) (s.get cndMemIsize u) = true)) →
    ∃ t, exec (.cndMemWrite w n v) s = .next t ∧ s.refused t w (cndMem.key n 0))

/-- R200 to R207: words written out from the encoding tables decode to the instructions they stand for. -/
def Obligations.SlotWordsDecode : Prop :=
  decodeS false 0x00000000 = some .nop ∧
  decodeS false 0x01046001 = some (.alu .add (.s 1) 3 (.reg 1)) ∧
  decodeS false 0x01047FFF = some (.alu .add (.s 1) 3 (.imm 0xFFFFFFFF)) ∧
  decodeS false 0x09140005 = some (.const .li (.s 5) 5) ∧
  decodeS false 0x12901003 = some (.csrr (.m 4) 3) ∧
  decodeS false 0x0C000123 = some (.br none 0x123) ∧
  decodeS false 0x15000000 = some .frameEnd ∧
  decodeS true 0x17200001 = some (.sys .sysMire 0 0 1) ∧
  decodeS false 0x17200001 = none ∧
  decodeM 0x01088400 = some (.ld false 2 4 1 0) ∧
  decodeV 0x01123000 = some (.op .vadd 1 2 3 false 0 0) ∧
  decodeC 0x07200000 = some (.wait 1) ∧
  decodeC 0x01203280 = some (.start 1 false false 0 3 5)

/-- R179, R180, R203: an ALU instruction, LI or LUI, of a block or a context, leaves its result in its destination, a scalar
register (s0 discards it) or, of a block, a mask register; CMP leaves its result in a predicate register (p0 discards it).
NOP (R200) leaves nothing, nor does any S-slot instruction whose predicate is false; FENCE of a block leaves nothing but
waits while a store of its program is under way (R205). Control passes on to the next bundle, and nothing else changes. -/
def Obligations.ScalarResults : Prop :=
  (∀ (s : State) (q : SeqId) (c : Instr) (d : Dest) (y : SInst) (x : Word), s.holdsS q y →
    let i := SeqId.num q
    let z := s.seq i
    ((∃ (o : Op) (ra : Nat) (b : Src), y = .alu o d ra b ∧
        (c, o, x) ∈ [(Instr.add q, Op.add, z.sr ra + z.src b), (.sub q, .sub, z.sr ra - z.src b),
          (.and q, .and, z.sr ra &&& z.src b), (.or q, .or, z.sr ra ||| z.src b), (.xor q, .xor, z.sr ra ^^^ z.src b),
          (.shl q, .shl, z.sr ra <<< ((z.src b).toNat % 32)), (.shr q, .shr, z.sr ra >>> ((z.src b).toNat % 32)),
          (.sra q, .sra, (z.sr ra).sshiftRight ((z.src b).toNat % 32))]) ∨
     (∃ o, y = .const o d x ∧ (c, o) ∈ [(Instr.li q, Op.li), (.lui q, .lui)])) →
    exec c s = .next ((s.issued i).setSeq i (s.passed i (z.put d x)))) ∧
  (∀ (s : State) (q : SeqId) (pd k ra : Nat) (b : Src), s.holdsS q (.cmp pd k ra b) →
    let i := SeqId.num q
    let z := s.seq i
    exec (.cmp q) s = .next ((s.issued i).setSeq i (s.passed i (z.setP pd (cmpOp k (z.sr ra) (z.src b)))))) ∧
  (∀ (s : State) (q : SeqId), s.holdsS q .nop →
    exec (.nop q) s = .next ((s.issued (SeqId.num q)).setSeq (SeqId.num q)
      (s.passed (SeqId.num q) (s.seq (SeqId.num q))))) ∧
  (∀ (s : State) (q : SeqId) (c : Instr) (o : Op) (y : SInst), s.skipsS q y → y.op = o →
    (c, o) ∈ [(Instr.nop q, Op.nop), (.add q, .add), (.sub q, .sub), (.and q, .and), (.or q, .or), (.xor q, .xor),
      (.shl q, .shl), (.shr q, .shr), (.sra q, .sra), (.li q, .li), (.lui q, .lui), (.cmp q, .cmp), (.loop q, .loop),
      (.waitTick q, .waitTick), (.waitEvt q, .waitEvt), (.sig q, .sig), (.fence q, .fence), (.frameEnd q, .frameEnd),
      (.halt q, .halt)] →
    exec c s = .next ((s.issued (SeqId.num q)).setSeq (SeqId.num q)
      (s.passed (SeqId.num q) (s.seq (SeqId.num q))))) ∧
  (∀ (s : State) (r : Fin 4) (b : Fin 12), s.holdsS (.blk r b) .fence →
    let i := 12 * r.val + b.val
    let u := s.issued i
    exec (.fence (.blk r b)) s = .next (u.setSeq i
      (if (s.seq i).ports.any (fun m => decide (u.cycle < m.due) && !m.old.isEmpty) then s.waiting i
        else s.passed i (s.seq i)))) ∧
  (∀ (q : Seq) (n : Nat) (x : Word), Sparse.rising q.s = true → Sparse.rising q.masks = true →
    (q.put (.s n) x).sr n = (if n = 0 then 0 else x) ∧ (q.put (.s 0) x) = q ∧ (q.put (.m n) x).masks.at n 0 = x ∧
    (∀ k, k ≠ n → (q.put (.s n) x).sr k = q.sr k) ∧ (q.put (.m n) x).s = q.s) ∧
  (∀ (q : Seq) (n : Nat) (x : Bool), n < 8 → (q.setP n x).pr n = (n = 0 || x) ∧
    ∀ k, k < 8 → k ≠ n → (q.setP n x).pr k = q.pr k)

/-- R188, R189, R204: control flow. A branch that is taken leaves its target, or its register's value within the program
memory, waiting behind one delay bundle; LOOP opens its body for the given number of turns, and skips it when that is 0.
A bundle passes on to the target of the branch before it, to the first bundle of a loop that has turns left and ends here,
or else to the bundle after it. -/
def Obligations.ControlFlow : Prop :=
  (∀ (s : State) (q : SeqId) (ra : Option Nat) (a : Nat), s.holdsS q (.br ra a) →
    let i := SeqId.num q
    let z := s.seq i
    z.misplaced (.br ra a) = false →
    exec (.br q) s = .next ((s.issued i).setSeq i { s.passed i z with
      delay := true
      target := some (match ra with | some n => (z.sr n).toNat % (if i < 48 then 4096 else 65536) | none => a) })) ∧
  (∀ (s : State) (q : SeqId) (ps a : Nat) (neg : Bool), s.holdsS q (.brp ps neg a) →
    let i := SeqId.num q
    let z := s.seq i
    z.misplaced (.brp ps neg a) = false →
    exec (.brp q) s = .next ((s.issued i).setSeq i { s.passed i z with
      delay := true, target := if z.pr ps = neg then none else some a })) ∧
  (∀ (s : State) (q : SeqId) (n : Src) (len : Nat), s.holdsS q (.loop n len) →
    let i := SeqId.num q
    let z := s.seq i
    let turns := (z.src n).toNat % 65536
    let next := loopStep z.loops (z.pc + len)
    z.misplaced (.loop n len) = false → z.loopsFull (.loop n len) = false →
    exec (.loop q) s = .next ((s.issued i).setSeq i { s.passed i z with
      target := z.target
      pc := if turns = 0 then next.2 else z.pc + 1
      loops := if turns = 0 then next.1 else ⟨z.pc + 1, z.pc + len, turns⟩ :: z.loops })) ∧
  (∀ (q : Seq) (x : Loop) (l : List Loop) (t : Nat),
    (q.target = none → q.loops = [] → q.advance = { q with pc := q.pc + 1, delay := false }) ∧
    (q.target = none → q.loops = x :: l → x.last ≠ q.pc → q.advance = { q with pc := q.pc + 1, delay := false }) ∧
    (q.target = none → q.loops = x :: l → x.last = q.pc → 1 < x.left →
      q.advance = { q with pc := x.first, loops := { x with left := x.left - 1 } :: l, delay := false }) ∧
    (q.target = none → q.loops = [x] → x.last = q.pc → x.left ≤ 1 →
      q.advance = { q with pc := q.pc + 1, loops := [], delay := false }) ∧
    (q.target = some t → q.advance.pc = t ∧ q.advance.target = none ∧
      ∀ y ∈ q.loops, y.first ≤ t → t ≤ y.last → y ∈ q.advance.loops))

/-- R186, R190, R192, R204: waiting. WAIT.TICK goes on once so many cycles have passed since the FT (the first bundle of a
frame issues at cycle 4), WAIT.EVT once its line is set, which it clears; until then the sequencer stalls where it is. A
stalled sequencer tries the bundle it holds again, and one that is not stalled stays as it is. -/
def Obligations.Waits : Prop :=
  (∀ (s : State) (q : SeqId) (n : Src) (c : Instr), s.holdsS q (.waitTick n) →
    (c = .waitTick q ∨ (c = .stallResolved q ∧ (s.seq (SeqId.num q)).stalled = true)) →
    let i := SeqId.num q
    let z := s.seq i
    exec c s = .next ((s.issued i).setSeq i
      (if (if z.first then 4 else s.cycle - s.tick.ftCycle) < (z.src n).toNat then s.waiting i else s.passed i z))) ∧
  (∀ (s : State) (r : Fin 4) (b : Fin 12) (e : Nat) (c : Instr), s.holdsS (.blk r b) (.waitEvt e) →
    let i := 12 * r.val + b.val
    let z := s.seq i
    (c = .waitEvt (.blk r b) ∨ (c = .stallResolved (.blk r b) ∧ z.stalled = true)) →
    exec c s = .next ((s.issued i).setSeq i
      (if bit z.evt.toNat e then s.passed i { z with evt := z.evt &&& ~~~(1#32 <<< e) } else s.waiting i))) ∧
  (∀ (s : State) (q : SeqId), (s.seq (SeqId.num q)).stalled = false → exec (.stallResolved q) s = .next s) ∧
  (∀ (s : State) (i : Nat), (s.seq i).first = false → s.issued i = s) ∧
  (∀ (s : State) (i : Nat), s.sound = true → (s.seq i).first = true →
    s.later (s.issued i) (s.tick.ftCycle + 4 - s.cycle))

/-- R117, R181, R185, R187, R192, R196, R204: SIG raises source 448 + n, and requests a freeze where `MIRE.CFG` names the
number; HALT leaves the sequencer in HALTED; FRAME.END of a program with nothing outstanding ends it, to WAIT after INIT
and to ENDED after RUN, and otherwise it ends at FRAME_END_RETIRE, when the last operation is complete; CSRR reads a special
register, CSRW of EVT clears the lines whose bits are 1, and CSRW of a register of the program's own block writes it. That
HALT does not wait is the model's reading (log entry 43). -/
def Obligations.SignalsAndEnds : Prop :=
  (∀ (s : State) (q : SeqId) (n : Nat), s.sound = true → s.power.inReset = false → n < 64 → s.holdsS q (.sig n) →
    let i := SeqId.num q
    let u := s.issued i
    ∃ t, exec (.sig q) s = .next t ∧ t.evtOn (448 + n) = true ∧
      ((if s.on mireCfgSigEn && s.get mireCfgSig = n then u.mireAsk (s.seqTen i) false else u).setSeq i
        (s.passed i (s.seq i))).onlyEvents t noReg) ∧
  (∀ (s : State) (q : SeqId), s.holdsS q .halt →
    let i := SeqId.num q
    exec (.halt q) s = .next ((s.issued i).setSeq i { s.passed i (s.seq i) with st := .halted })) ∧
  (∀ (s : State) (q : SeqId), s.ordered = true → s.holdsS q .frameEnd →
    let i := SeqId.num q
    let z := s.seq i
    let u := s.issued i
    z.misplaced .frameEnd = false →
    ∃ t, exec (.frameEnd q) s = .next t ∧ t = { u with seqs := t.seqs } ∧ (∀ k, k ≠ i → t.seq k = s.seq k) ∧
      t.seq i = (if i < 48 ∧ u.blockQuiet i = false then { s.passed i z with ending := true }
        else if z.st = .run then { s.passed i z with st := .ended, ending := false, endCycle := some u.cycle }
        else { s.passed i z with st := .wait, ending := false })) ∧
  (∀ (s : State) (q : SeqId),
    let i := SeqId.num q
    let z := s.seq i
    let u := s.elapseTo ((z.ports.map (·.due)).foldl max 0)
    z.ending = true → (i < 48 → u.blockQuiet i = true) →
    (z.st = .run → exec (.frameEndRetire q) s = .next (u.setSeq i
      { z with st := .ended, ending := false, stalled := false, endCycle := some u.cycle })) ∧
    (z.st = .init → exec (.frameEndRetire q) s = .next (u.setSeq i
      { z with st := .wait, ending := false, stalled := false }))) ∧
  (∀ (s : State) (r : Fin 4) (b : Fin 12) (d : Dest) (csr : Nat), csrReadable (12 * r + b) csr = true →
    s.holdsS (.blk r b) (.csrr d csr) →
    let i := 12 * r.val + b.val
    let z := s.seq i
    let u := s.issued i
    let x := u.csrRead i csr
    exec (.csrr (.blk r b)) s = .next (u.setSeq i (s.passed i (z.put d x))) ∧
      (csr = 0 → x = BitVec.ofNat 32 s.frame) ∧ (csr = 1 → x = BitVec.ofNat 32 (s.frame / 2 ^ 32)) ∧
      (csr = 2 → x = BitVec.ofNat 32 z.slack) ∧
      (csr = 3 → x = BitVec.ofNat 32 (if z.first then 4 else s.cycle - s.tick.ftCycle)) ∧
      (csr = 4 → x = BitVec.ofNat 32 (s.blockTen i)) ∧ (csr = 5 → x = BitVec.ofNat 32 (r * 256 + b)) ∧
      (csr = 6 → x = z.evt)) ∧
  (∀ (s : State) (r : Fin 4) (b : Fin 12) (csr ra : Nat), s.sound = true → s.ordered = true →
    s.csrWritable (12 * r + b) csr = true → s.holdsS (.blk r b) (.csrw csr ra) →
    let i := 12 * r.val + b.val
    let z := s.seq i
    let u := s.issued i
    (csr = 6 → ∃ t, exec (.csrw (.blk r b)) s = .next t ∧ t = { u with seqs := t.seqs } ∧
      (∀ k, k ≠ i → t.seq k = s.seq k) ∧ t.seq i = s.passed i { z with evt := z.evt &&& ~~~(z.sr ra) }) ∧
    (∀ h, csr ≠ 6 → ownReg i csr = some h →
      exec (.csrw (.blk r b)) s = .next ((u.setSeq i (s.passed i z)).writeReg (s.seqWho i) h (z.sr ra).toNat)) ∧
    (ownReg i csr = some ⟨blkRedoBudget, r, b, false⟩ →
      s.reachable (s.seqWho i) (blkRedoBudget.key r b) = true →
      ∃ t, exec (.csrw (.blk r b)) s = .next t ∧ t.get blkRedoBudgetCycles r b = (z.sr ra).toNat ∧
        (u.setSeq i (s.passed i z)).onlyRegs t (fun k => k = blkRedoBudget.key r b)))

/-- R183, R188, R189, R194, R195, R197, R206: exceptions. A bundle that takes one changes no register and no memory: the
sequencer is in FAULT where it was, its exception register holds the cause, the slot and the PC, and the exception source of
its region, or of the conductor, is raised. So does an S slot that acts and is undefined (cause 1), a branch, LOOP or
FRAME.END where R188 and R189 allow none (2), a PC beyond the program memory (3), a CSR that may not be read or written (6),
and a fifth nested LOOP (7). -/
def Obligations.IllegalFaults : Prop :=
  (∀ (s : State) (r : Fin 4) (b : Fin 12) (x : Bundle), s.sound = true → s.power.inReset = false → s.ordered = true →
    s.atBundle (12 * r + b) → x = s.bundleAt (12 * r + b) → x.c.inst = some .nop → x.m.inst = some .nop →
    x.v.inst = some .nop → x.s = ⟨true, none⟩ →
    ∃ t, exec (.nop (.blk r b)) s = .next t ∧ (s.issued (12 * r + b)).excepted t (12 * r + b) 1 3) ∧
  (∀ (s : State) (n : Fin 4), s.sound = true → s.power.inReset = false → s.ordered = true →
    (s.seq (48 + n)).ready = true → (s.seq (48 + n)).pc < s.get cndMemIsize n * 1024 → s.cleanRange (s.cndFetch n) 4 →
    decodeSlot (s.seq (48 + n)) (leVal (s.bytes (s.cndFetch n) 4)) (decodeS true) = ⟨true, none⟩ →
    ∃ t, exec (.nop (.ctx n)) s = .next t ∧ (s.issued (48 + n)).excepted t (48 + n) 1 0) ∧
  (∀ (s : State) (q : SeqId) (c : Instr) (y : SInst), s.sound = true → s.power.inReset = false → s.ordered = true →
    s.holdsS q y →
    let i := SeqId.num q
    let z := s.seq i
    (z.misplaced y = true → (c, y.op) ∈ [(Instr.br q, Op.br), (.brp q, .brp), (.loop q, .loop), (.frameEnd q, .frameEnd)] →
      ∃ t, exec c s = .next t ∧ (s.issued i).excepted t i 2 3) ∧
    (z.misplaced y = false → z.loopsFull y = true → c = .loop q →
      ∃ t, exec c s = .next t ∧ (s.issued i).excepted t i 7 3) ∧
    ((∃ d csr, y = .csrr d csr ∧ csrReadable i csr = false ∧ c = .csrr q) ∨
        (∃ csr ra, y = .csrw csr ra ∧ s.csrWritable i csr = false ∧ c = .csrw q) → i < 48 →
      ∃ t, exec c s = .next t ∧ (s.issued i).excepted t i 6 3)) ∧
  (∀ (s : State) (q : SeqId), s.sound = true → s.power.inReset = false → s.ordered = true →
    let i := SeqId.num q
    (s.seq i).ready = true →
    (match q with
      | .blk _ _ => 4096 ≤ (s.seq i).pc
      | .ctx n => s.get cndMemIsize n * 1024 ≤ (s.seq i).pc) →
    ∃ t, exec (.nop q) s = .next t ∧ (s.issued i).excepted t i 3 0)

/-! ## The M, V and C slots (R139, R172 to R175, R191 to R193, R209 to R218) -/

/-- R182, R190, R192, R193, R194, R209, R210: the M slot. MV.LD reads four bytes into a scalar register (s0 discards them) or
128 bytes into a vector register with E = 0; where nothing races with it, they are what memory holds. MV.ST stores them, and
every other byte of memory stays. Both count against their barrier until their data are in place. MV.DESC hands a
descriptor to engine 8 to 11 and holds its barrier; MV.WAITB goes on when no move holds the barrier, and stalls until then;
MV.SPILL queues a forced spill in every cell of its mask that runs in X2. With 16 moves under way every one of them stalls;
an address that R182 does not give the program raises ADDR in slot M, a marked word DATA_ECC. How long the data of a move
are under way is the model's reading (log entry 41). -/
def Obligations.BlockMoves : Prop :=
  (∀ (s : State) (r : Fin 4) (b : Fin 12) (vec : Bool) (rd ra bar a : Nat) (off : Int),
    let i := 12 * r.val + b.val
    let z := s.seq i
    let u := s.issued i
    let n := moveSize vec
    let l := (u.drawn).loaded i a n
    let w := fun (k : Nat) => BitVec.ofNat 32 (leVal (slice l (4 * k) 4))
    s.ordered = true → s.holdsM i (.ld vec rd ra bar off) → z.moves.length + (u.portsOpen z).length < 16 →
    s.progAddr i (z.moveAddr ra off n) n = some a → s.cleanRange a n →
    ∃ t, exec (.mvLd r b) s = .next t ∧ t = { u.drawn with seqs := t.seqs } ∧ (∀ k, k ≠ i → t.seq k = s.seq k) ∧
      t.seq i = { s.passed i (if vec then { z with v := z.v.put rd ⟨(List.range 32).map w, 0⟩ {} } else z.setS rd (w 0)) with
        ports := { bar := bar, due := u.cycle + portDelay true vec (z.moveAddr ra off n) } :: u.portsOpen z } ∧
      ((∀ e ∈ s.engines, e.2.jobs = []) → (∀ e ∈ s.cells, e.1 / 32 = i → ∀ c, e.2 = some c → c.queue = []) →
        u.portsOpen z = [] → l = s.bytes a n)) ∧
  (∀ (s : State) (r : Fin 4) (b : Fin 12) (vec : Bool) (rd ra bar a : Nat) (off : Int),
    let i := 12 * r.val + b.val
    let z := s.seq i
    let u := s.issued i
    let n := moveSize vec
    s.sound = true → s.ordered = true → s.holdsM i (.st vec rd ra bar off) →
    z.moves.length + (u.portsOpen z).length < 16 → s.progAddr i (z.moveAddr ra off n) n = some a →
    ∃ t, exec (.mvSt r b) s = .next t ∧ t = { u with seqs := t.seqs, mem := t.mem, marks := t.marks, lines := t.lines } ∧
      (∀ k, k ≠ i → t.seq k = s.seq k) ∧
      t.seq i = { s.passed i z with
        ports := { bar := bar, due := u.cycle + portDelay false vec (z.moveAddr ra off n), addr := a
                   old := s.bytes a n } :: u.portsOpen z } ∧
      t.bytes a n = (if vec then (z.v.at (rd % 16) {}).lanes.flatMap (fun w => leBytes 4 w.toNat)
        else leBytes 4 (z.sr rd).toNat) ∧
      ∀ k, (k < a ∨ a + n ≤ k) → t.byte k = s.byte k) ∧
  (∀ (s : State) (r : Fin 4) (b : Fin 12) (eng bar ra : Nat) (line : Option Nat),
    let i := 12 * r.val + b.val
    let z := s.seq i
    let u := s.issued i
    s.ordered = true → s.holdsM i (.desc eng bar line ra) → z.moves.length + (u.portsOpen z).length < 16 →
    (z.sr ra).toNat % 64 = 0 → (z.sr ra).toNat < 0x200000 →
    ∃ t, exec (.mvDesc r b) s = .next t ∧ t = { u with seqs := t.seqs, engines := t.engines } ∧
      (∀ k, k ≠ i → t.seq k = s.seq k) ∧ t.seq i = { s.passed i z with moves := z.moves ++ [bar] } ∧
      t.engine (8 + eng) = { s.engine (8 + eng) with
        waiting := (s.engine (8 + eng)).waiting ++ [.block i (z.sr ra).toNat bar line] } ∧
      ∀ e, e ≠ 8 + eng → t.engine e = s.engine e) ∧
  (∀ (s : State) (r : Fin 4) (b : Fin 12) (bar : Nat),
    let i := 12 * r.val + b.val
    let z := s.seq i
    let u := s.issued i
    let l := u.portsOpen z
    s.holdsM i (.waitb bar) →
    exec (.mvWaitb r b) s = .next (u.setSeq i
      (if z.moves.length + l.length < 16 ∧ bar ∉ z.moves ∧ ∀ m ∈ l, m.bar ≠ bar then s.passed i z else s.waiting i))) ∧
  (∀ (s : State) (r : Fin 4) (b : Fin 12) (m : Nat),
    let i := 12 * r.val + b.val
    let z := s.seq i
    let u := s.issued i
    let cells := s.placed i (z.masks.at m 0)
    s.ordered = true → s.holdsM i (.spill m) → z.moves.length + (u.portsOpen z).length < 16 →
    (∀ rc ∈ cells, (s.cell (32 * i + rc.2)).queue.length < 4) →
    ∃ t, exec (.mvSpill r b) s = .next t ∧
      t = { u.setSeq i (s.passed i z) with cells := t.cells, stand := (s.noteStand i (z.masks.at m 0)).stand } ∧
      (∀ rc ∈ cells, let x := s.cell (32 * i + rc.2)
        t.cell (32 * i + rc.2) = { x with
          queue := x.queue ++ (if (x.get x.active).mode = .x2 then [.spill x.active] else []) }) ∧
      ∀ k, (∀ rc ∈ cells, k ≠ 32 * i + rc.2) → t.cell k = s.cell k) ∧
  (∀ (s : State) (r : Fin 4) (b : Fin 12) (c : Instr) (y : MInst),
    let i := 12 * r.val + b.val
    let z := s.seq i
    let u := s.issued i
    s.holdsM i y → (c, y.op) ∈ [(Instr.mvLd r b, Op.mvLd), (.mvSt r b, .mvSt), (.mvDesc r b, .mvDesc), (.mvSpill r b, .mvSpill)] →
    (16 ≤ z.moves.length + (u.portsOpen z).length → exec c s = .next (u.setSeq i (s.waiting i))) ∧
    (z.moves.length + (u.portsOpen z).length < 16 → s.sound = true → s.power.inReset = false → s.ordered = true →
      ((∃ vec rd ra bar off, (y = .ld vec rd ra bar off ∨ y = .st vec rd ra bar off) ∧
          s.progAddr i (z.moveAddr ra off (moveSize vec)) (moveSize vec) = none) ∨
        (∃ eng bar line ra, y = .desc eng bar line ra ∧ ((z.sr ra).toNat % 64 ≠ 0 ∨ 0x200000 ≤ (z.sr ra).toNat)) →
        ∃ t, exec c s = .next t ∧ u.excepted t i 5 1) ∧
      (∀ vec rd ra bar a off, y = .ld vec rd ra bar off →
        s.progAddr i (z.moveAddr ra off (moveSize vec)) (moveSize vec) = some a → s.badRange a (moveSize vec) = true →
        ∃ t, exec c s = .next t ∧ (u.readWords a (moveSize vec)).1.drawn.excepted t i 8 1)))

/-- R172, R173, R174, R175, R211 to R213: a V-slot instruction leaves what its rule gives (`vectorOut`) in a vector
register or in scalar registers, counts the lanes it clamped in `VSAT`, and control passes on; nothing else changes. What
the rules give: VADD, VSUB, VMUL and VMAC compute exactly, lane by lane, and clamp to 32 bits; VRNDC rounds half up by 2^imm
and adds imm to E; VSEL chooses lanes by the bits of RS; VCMP leaves one bit for each lane; VMAXI and VMINI leave the best
lane and the first index at which it stands, counted from RS; VPACK clamps 64 values to 8 or 16 bits and packs them in
order. -/
def Obligations.VectorResults : Prop :=
  (∀ (s : State) (r : Fin 4) (b : Fin 12) (c : Instr) (o : Op) (vd va vb rs imm : Nat) (bs : Bool),
    let i := 12 * r.val + b.val
    let z := s.seq i
    let x := vectorOut z (.op o vd va vb bs rs imm)
    let z1 := x.scal.foldl (fun (a : Seq) (y : Nat × Word) => a.setS y.1 y.2) z
    let now := match x.vec with | some (n, v) => { z1 with v := z1.v.put n v {} } | none => z1
    let t := (s.issued i).setSeq i (s.passed i now)
    s.holdsV i (.op o vd va vb bs rs imm) →
    (c, o) ∈ [(Instr.vadd r b, Op.vadd), (.vsub r b, .vsub), (.vmul r b, .vmul), (.vmac r b, .vmac), (.vmovs r b, .vmovs),
      (.vrndc r b, .vrndc), (.vcmp r b, .vcmp), (.vsel r b, .vsel), (.vpack r b, .vpack), (.vmaxi r b, .vmaxi),
      (.vmini r b, .vmini), (.vrowmax r b, .vrowmax), (.vrowsum r b, .vrowsum)] →
    exec c s = .next (if x.sat = 0 then t else t.count blkVsatCount x.sat r b) ∧
      (∀ n v, x.vec = some (n, v) → n = vd ∧ x.scal = []) ∧ ∀ p ∈ x.scal, p.1 = 2 * vd ∨ p.1 = 2 * vd + 1) ∧
  (∀ (q : Seq) (vd va vb rs imm k : Nat) (bs : Bool), k < 32 → imm ≤ 32 →
    (q.v.at va {}).lanes.length = 32 → (q.v.at vb {}).lanes.length = 32 → (q.v.at vd {}).lanes.length = 32 →
    let lane := fun (n j : Nat) => (nth (q.v.at n {}).lanes j 0).toInt
    let snd := fun (j : Nat) => if bs then (q.sr rs).toInt else lane vb j
    let res := fun (o : Op) => vectorOut q (.op o vd va vb bs rs imm)
    let out := fun (o : Op) => match (res o).vec with
      | some (_, v) => some ((nth v.lanes k 0).toInt, v.e)
      | none => none
    let fit := clampInt (-2147483648) 2147483647
    out .vadd = some (fit (lane va k + snd k), (q.v.at va {}).e) ∧
    out .vsub = some (fit (lane va k - snd k), (q.v.at va {}).e) ∧
    out .vmul = some (fit (lane va k * snd k), (q.v.at va {}).e) ∧
    out .vmac = some (fit (lane vd k + lane va k * snd k), (q.v.at va {}).e) ∧
    out .vrndc = some (fit (if imm = 0 then lane va k else (lane va k + 2 ^ (imm - 1)) / 2 ^ imm),
      min 32 ((q.v.at va {}).e + imm)) ∧
    out .vsel = some (if bit (q.sr rs).toNat k then lane va k else snd k, (q.v.at va {}).e) ∧
    (∃ m : Word, (res .vcmp).scal = [(2 * vd, m)] ∧ bit m.toNat k = vcond imm (lane va k) (snd k)) ∧
    (imm = 0 → ∃ j, j < 32 ∧ (res .vmaxi).scal = [(2 * vd, BitVec.ofInt 32 (lane va j)),
        (2 * vd + 1, BitVec.ofNat 32 ((q.sr rs).toNat + j))] ∧ lane va k ≤ lane va j ∧ (k < j → lane va k < lane va j)) ∧
    (imm = 0 → ∃ j, j < 32 ∧ (res .vmini).scal = [(2 * vd, BitVec.ofInt 32 (lane va j)),
        (2 * vd + 1, BitVec.ofNat 32 ((q.sr rs).toNat + j))] ∧ lane va j ≤ lane va k ∧ (k < j → lane va j < lane va k)) ∧
    ((imm = 8 ∨ imm = 16) → ∃ v, (res .vpack).vec = some (vd, v) ∧ v.e = (q.v.at va {}).e ∧
      ∀ m, m < 32 / imm → bits (nth v.lanes k 0).toNat (imm * m + imm - 1) (imm * m) =
        (let j := 32 / imm * k + m
         if j < 64 then toBits imm (clampInt (-(2 ^ (imm - 1))) (2 ^ (imm - 1) - 1)
           (if j < 32 then lane va j else snd (j - 32))) else 0)))

/-- R191, R214, R218: the C slot. An instruction of cells whose conditions (R217) hold, and none of whose cells' queues
is full, joins the queue of every cell that works for its mask, with that cell's rank, and control passes on; nothing else
changes but which spares stand in (R144). CX.START counts among the block's starts. R143, R190, R191: CX.WAIT goes on when
every cell of its mask is idle, and stalls until then; CELL.SPARE sets the block's spares and its redo budget; an instruction
one of whose cells' queues is full stalls. R217: one whose conditions do not hold raises ILLEGAL or ADDR in slot C, so
CX.START beyond tile 8447 or beyond the frame. Which spares stand in for retired cells is the model's reading (log entry
47). -/
def Obligations.CellOperationsQueue : Prop :=
  (∀ (s : State) (r : Fin 4) (b : Fin 12) (c : Instr) (x : CInst) (f : Nat → Nat → CellOp),
    let i := 12 * r.val + b.val
    let q := s.seq i
    let u := s.issued i
    let read := fun (rr : Nat) => x.mask q ≠ 0 → s.cleanRange (blockBase r b + (q.sr rr).toNat) 64 ∧
      s.servedRange (blockBase r b + (q.sr rr).toNat) 64 ∧ u.portsOpen q = []
    s.ordered = true → s.holdsC i x → s.cellFault? i q x = none → s.cellStalls i q x = false →
    ((∃ m x2 ns buf rt rn, c = .cxStart r b ∧ x = .start m x2 ns buf rt rn ∧ f = fun k _ => .start (!ns)
        (if x2 then .x2 else .x) buf (tileQ (q.sr rt) + k) (tileC (q.sr rt)) (rangeN (q.sr rn)) (rangeT (q.sr rn)) q.starts) ∨
     (∃ m rt rn, c = .cbStart r b ∧ x = .beam m rt rn ∧ f = fun k _ => .beam (bits (q.sr rt).toNat 31 22)
        (bits (q.sr rt).toNat 21 15) (bits (q.sr rt).toNat 14 8) (bits (q.sr rt).toNat 7 0 + 16 * k)
        (rangeN (q.sr rn)) (rangeT (q.sr rn))) ∨
     (∃ m rt rr, c = .cxPreload r b ∧ x = .preload m .zero rt rr ∧
        f = fun k _ => .preload .zero k (tileQ (q.sr rt) + k) (tileC (q.sr rt)) none) ∨
     (∃ m src rt rr, c = .cxPreload r b ∧ x = .preload m src rt rr ∧ src ≠ .zero ∧ read rr ∧
        f = fun k _ => .preload src k (tileQ (q.sr rt) + k) (tileC (q.sr rt))
          (some (parseRecord (s.bytes (blockBase r b + (q.sr rr).toNat) 64)))) ∨
     (∃ m close rt rr, c = (if close then .cxDumpClose r b else .cxDumpWriteback r b) ∧ x = .dump m close rt rr ∧ read rr ∧
        f = fun k _ => .dump close k (tileQ (q.sr rt) + k) (tileC (q.sr rt))
          (parseRecord (s.bytes (blockBase r b + (q.sr rr).toNat) 64))) ∨
     (∃ m active slot ra, c = .cxSave r b ∧ x = .save m active slot ra ∧
        f = fun k n => .save active (q.imageAddr i slot ra k n)) ∨
     (∃ m slot ra, c = .cxRestore r b ∧ x = .restore m slot ra ∧ f = fun k n => .restore (q.imageAddr i slot ra k n)) ∨
     (∃ m active, c = .cxClear r b ∧ x = .clear m active ∧ f = fun _ _ => .clear active)) →
    ∃ t, exec c s = .next t ∧
      t = { u with seqs := t.seqs, cells := t.cells, stand := (s.noteStand i (x.mask q)).stand } ∧
      (∀ k, k ≠ i → t.seq k = s.seq k) ∧
      t.seq i = { s.passed i q with starts := q.starts + (if c = .cxStart r b then 1 else 0) } ∧
      (∀ rc ∈ s.placed i (x.mask q), t.cell (32 * i + rc.2) =
        { s.cell (32 * i + rc.2) with queue := (s.cell (32 * i + rc.2)).queue ++ [f rc.1 rc.2] }) ∧
      ∀ k, (∀ rc ∈ s.placed i (x.mask q), k ≠ 32 * i + rc.2) → t.cell k = s.cell k) ∧
  (∀ (s : State) (r : Fin 4) (b : Fin 12) (m : Nat),
    let i := 12 * r.val + b.val
    s.holdsC i (.wait m) →
    exec (.cxWait r b) s = .next ((s.issued i).setSeq i
      (if s.waitOver i ((s.seq i).seen.at m 0) then s.passed i (s.seq i) else s.waiting i))) ∧
  (∀ (s : State) (r : Fin 4) (b : Fin 12) (m rb : Nat),
    let i := 12 * r.val + b.val
    s.sound = true → s.holdsC i (.spare m rb) → s.cellStalls i (s.seq i) (.spare m rb) = false →
    ∃ t, exec (.cellSpare r b) s = .next t ∧
      ((s.issued i).setSeq i (s.passed i (s.seq i))).onlyRegs t
        (fun k => k = blkSpare.key r b || k = blkRedoBudget.key r b) ∧
      t.get blkSpareMask r b = ((s.seq i).seen.at m 0).toNat ∧
      t.get blkRedoBudgetCycles r b = ((s.seq i).sr rb).toNat) ∧
  (∀ (s : State) (r : Fin 4) (b : Fin 12) (c : Instr) (x : CInst),
    let i := 12 * r.val + b.val
    let q := s.seq i
    s.holdsC i x →
    (c, x.op) ∈ [(Instr.cxStart r b, Op.cxStart), (.cxPreload r b, .cxPreload), (.cxDumpWriteback r b, .cxDumpWriteback),
      (.cxDumpClose r b, .cxDumpClose), (.cxSave r b, .cxSave), (.cxRestore r b, .cxRestore), (.cxClear r b, .cxClear),
      (.cbStart r b, .cbStart), (.cellSpare r b, .cellSpare)] →
    (s.cellStalls i q x = true → exec c s = .next ((s.issued i).setSeq i (s.waiting i))) ∧
    (s.cellStalls i q x = false → s.sound = true → s.power.inReset = false →
      ∀ e, (s.issued i).cellFault? i q x = some e →
        (e = .illegal ∨ e = .addr) ∧ ∃ t, exec c s = .next t ∧ (s.issued i).excepted t i e.code 0)) ∧
  (∀ (s : State) (i m buf rt rn : Nat) (x2 ns : Bool),
    let q := s.seq i
    (maskCells (q.seen.at m 0)).length ≠ 0 →
    (8447 < tileQ (q.sr rt) + (maskCells (q.seen.at m 0)).length - 1 ∨ bits (q.sr rt).toNat 31 26 ≠ 0 ∨
      s.lenL < rangeT (q.sr rn) + rangeN (q.sr rn)) →
    s.cellFault? i q (.start m x2 ns buf rt rn) = some .illegal)

/-! ## Cells (R125 to R144, R191, R215, R218, R220) and the release gate (R229 to R231) -/

/-- R144, R215: which cells work for a mask, each with its rank. Where none of the mask is retired, its cells do, in
ascending order; a retired cell works for no mask, and where no spare stands in for two cells, or for another while the mask
names it too, no cell works twice. A retired cell's work goes to the spare that stands in for it, or to the lowest idle spare
outside the mask, or to none. R191, R220: the head of a cell's queue waits for the cell's run where it is a start, or a save
or a clearing of the active set; an empty queue, and a dump at its head, change nothing here. When the head ends
(CELL_OPERATION_END): CX.CLEAR empties the set it names, its X2 slot too; CX.PRELOAD ZERO empties the standby set, ABS loads
it, and RUN loads the kept positions of an entry whose NF is not 0; CX.START exchanges the sets, clears the counters and
begins its run, a set preloaded in X going into its X2 slot; CB.START begins its run; CX.SAVE writes the set's image, and
CX.RESTORE reads one back; a forced spill adds the 16-bit accumulators into those of the slot. No other cell changes, and no
other memory. Which spares stand in is the model's reading (log entry 47). -/
def Obligations.CellRunsAndMasks : Prop :=
  (∀ (s : State) (i : Nat) (m : Word),
    ((∀ c, bit m.toNat c = true → s.cellRetired i c = false) →
      s.placed i m = (maskCells m).mapIdx fun k c => (k, c)) ∧
    (∀ rc ∈ s.placed i m, s.cellRetired i rc.2 = false ∧ rc.2 < 32 ∧ rc.1 < (maskCells m).length) ∧
    ((∀ c d, c < 32 → d < 32 → c ≠ d → s.stand.at (32 * i + c) 0 ≠ 0 →
        s.stand.at (32 * i + c) 0 ≠ s.stand.at (32 * i + d) 0) →
      (∀ c d, bit m.toNat c = true → d < 32 → s.stand.at (32 * i + d) 0 ≠ c + 1) →
      ((s.placed i m).map Prod.snd).Nodup) ∧
    ((s.placed i m).map Prod.fst).Pairwise (· < ·) ∧
    (∀ c, maskCells m = [c] → s.cellRetired i c = true →
      s.placed i m = match s.standIn i c, (s.idleSpares i).filter (fun x => x ≠ c) with
        | some x, _ => [(0, x)]
        | none, x :: _ => [(0, x)]
        | none, [] => [])) ∧
  (∀ (s : State) (r : Fin 4) (b : Fin 12) (c : Fin 32),
    let x := s.cell (384 * r.val + 32 * b.val + c.val)
    (x.queue = [] ∨ (∃ cl rank q cOut rec rest, x.queue = .dump cl rank q cOut rec :: rest) ∨
      ∃ o rest, x.queue = o :: rest ∧ o.waits = true ∧ x.run.isSome = true) →
    exec (.cellOperationEnd r b c) s = .next s) ∧
  (∀ (s : State) (r : Fin 4) (b : Fin 12) (c : Fin 32) (o : CellOp) (rest : List CellOp),
    let i := 384 * r.val + 32 * b.val + c.val
    let x := s.cell i
    let y := { x with queue := rest }
    let std := x.get (!x.active)
    let blank : CellSet := { tag := std.tag, mode := std.mode }
    s.sound = true → s.ordered = true → x.queue = o :: rest → (o.waits = true → x.run = none) →
    ∃ t : State, exec (.cellOperationEnd r b c) s = .next t ∧
    (∀ active, o = .clear active →
      let p := x.named active
      t = { s with cells := t.cells, mem := t.mem, marks := t.marks, lines := t.lines } ∧ (∀ k, k ≠ i → t.cell k = s.cell k) ∧
      t.cell i = (y.put p { x.get p with acc := [], cnt := [], res := [], sat := [], sticky := 0, frame := none }).filled p o ∧
      ((x.get p).mode ≠ .x2 → t.mem = s.mem) ∧
      ((x.get p).mode = .x2 → t.bytes (s.slotAddr i p) 3392 = List.replicate 3392 0 ∧
        s.onlyBytes t (s.slotAddr i p) 3392)) ∧
    (∀ rank q cOut rec, o = .preload .zero rank q cOut rec →
      t = { s with cells := t.cells, mem := t.mem, marks := t.marks, lines := t.lines } ∧ (∀ k, k ≠ i → t.cell k = s.cell k) ∧
      t.cell i = (y.put (!x.active) blank).filled (!x.active) o ∧
      (std.mode ≠ .x2 → t.mem = s.mem) ∧
      (std.mode = .x2 → t.bytes (s.slotAddr i (!x.active)) 3392 = List.replicate 3392 0 ∧
        s.onlyBytes t (s.slotAddr i (!x.active)) 3392)) ∧
    (∀ rank q cOut rec, o = .preload .abs rank q cOut (some rec) → std.mode ≠ .x2 →
      s.readable (rec.vBase + 2048 * rank) 2048 → (s.seq (12 * r + b)).ports = [] →
      let v := fun (p : Nat) => sext 32 (leVal (s.bytes (rec.vBase + 2048 * rank + 4 * p) 4))
      t = { s.useDram (s.blockTen (12 * r + b)) (rec.vBase + 2048 * rank) 2048 with cells := t.cells } ∧
      (∀ k, k ≠ i → t.cell k = s.cell k) ∧
      ∃ z : CellSet, t.cell i = (y.put (!x.active) { blank with acc := z.acc, res := z.res }).filled (!x.active) o ∧
        ∀ p, p < 512 → z.acc.at p 0 = v p ∧ z.res.at p 0 = mod15 (v p)) ∧
    (∀ rank q cOut rec, o = .preload .run rank q cOut (some rec) → std.mode ≠ .x2 →
      let ps := keptPositions rec.shape q
      let f := flagAddr rec cOut q
      let v := fun (p e : Nat) => sext 32 (leVal (s.bytes (valueAddr rec cOut (posIndex q p) + 4 * e) 4))
      s.readable f 4 →
      (∀ p ∈ ps, s.readable (valueAddr rec cOut (posIndex q p)) 8 ∧ s.readable (countAddr rec cOut (posIndex q p)) 2) →
      t = { s with cells := t.cells, restarts := s.restarts.filter fun k => k ≠ f, used := t.used } ∧
      (∀ k, k ≠ i → t.cell k = s.cell k) ∧
      ∃ z : CellSet, t.cell i = (y.put (!x.active) { blank with acc := z.acc, res := z.res }).filled (!x.active) o ∧
        (leVal (s.bytes f 4) / 256 = 0 → z.acc = [] ∧ z.res = []) ∧
        (leVal (s.bytes f 4) / 256 ≠ 0 → ∀ p e, p < 256 → e < 2 →
          z.acc.at (2 * p + e) 0 = (if p ∈ ps then v p e else 0) ∧
          z.res.at (2 * p + e) 0 = (if p ∈ ps then mod15 (v p e) else 0))) ∧
    (∀ ex mode buf q cOut n t0 serial, o = .start ex mode buf q cOut n t0 serial →
      let a := if ex then !x.active else x.active
      let same := ex = false ∨ (mode = .x2 ↔ std.mode = .x2)
      let z := x.get a
      let z1 : CellSet := if ex then { z with mode := mode, cnt := [] } else z
      let now := fun (w : CellSet) =>
        if n = 0 then ({ y with active := a }).put a w
        else { (({ y with active := a }).put a { w with frame := some (s.bufTag r buf) }).ranOn a o with
          run := some ⟨o, s.cycle, 0⟩ }
      (same → t = { s with cells := t.cells } ∧ (∀ k, k ≠ i → t.cell k = s.cell k) ∧ t.cell i = now z1) ∧
      (¬ same → mode = .x2 →
        (∃ src rank q cOut rec, (if a then x.fill1 else x.fill0) = some (.preload src rank q cOut rec)) →
        (if a then x.ran1 else x.ran0) = [] →
        t = { s with cells := t.cells, mem := t.mem, marks := t.marks, lines := t.lines } ∧
        (∀ k, k ≠ i → t.cell k = s.cell k) ∧ t.cell i = now { z1 with acc := [], res := [], sat := [] } ∧
        t.bytes (s.slotAddr i a) 3392 = z.partBytes 6 ++ z.resBytes ++ z.satBytes ∧
        s.onlyBytes t (s.slotAddr i a) 3392)) ∧
    (∀ chan nch ch0 b0 n t0, o = .beam chan nch ch0 b0 n t0 →
      t = { s with cells := t.cells } ∧ (∀ k, k ≠ i → t.cell k = s.cell k) ∧
      t.cell i = if nch = 0 ∨ n = 0 then y else { y with run := some ⟨o, s.cycle, 0⟩ }) ∧
    (∀ active a, o = .save active a → (x.get (x.named active)).mode ≠ .x2 → (x.get (x.named active)).mismatches = [] →
      s.servedRange a 2944 →
      t = { s with cells := t.cells, mem := t.mem, marks := t.marks, lines := t.lines, used := t.used } ∧
      (∀ k, k ≠ i → t.cell k = s.cell k) ∧ t.cell i = y ∧ t.bytes a 2944 = (x.get (x.named active)).image ∧ s.onlyBytes t a 2944) ∧
    (∀ a, o = .restore a → s.readable a 2944 → (s.seq (12 * r + b)).ports = [] →
      t = { s.useDram (s.blockTen (12 * r + b)) a 2944 with cells := t.cells } ∧ (∀ k, k ≠ i → t.cell k = s.cell k) ∧
      t.cell i = (y.put (!x.active) (imageSet ((s.bytes a 2944).map fun b => (b, false)))).filled (!x.active) o) ∧
    (∀ p, o = .spill p →
      ((x.get p).mode ≠ .x2 → t = { s with cells := t.cells } ∧ (∀ k, k ≠ i → t.cell k = s.cell k) ∧ t.cell i = y) ∧
      ((x.get p).mode = .x2 → (x.get p).mismatches = [] → s.readable (s.slotAddr i p) 3392 →
        let old := s.slotSet i p
        let new := t.slotSet i p
        (∀ k, k ≠ i → t.cell k = s.cell k) ∧ s.onlyBytes t (s.slotAddr i p) 3392 ∧
        (∃ z : BitVec 16, t.cell i = y.put p { x.get p with acc := [], res := [], sticky := z } ∧
          (new.sat = old.sat → z = (x.get p).sticky)) ∧
        ∀ k, k < 512 →
          (old.sat.at k false = false →
            new.acc.at k 0 = clampInt (-140737488355328) 140737488355327 (old.acc.at k 0 + (x.get p).acc.at k 0)) ∧
          (old.sat.at k false = true → new.acc.at k 0 = old.acc.at k 0))))

/-- R125, R127, R138, R142: one fine sample of 16 rows and 16 columns enters a set in mode X. A pair of which neither
operand is flagged adds x_i·x_j* to its two parts, exactly and held within 32 bits, and counts one; a pair with a flagged
operand, and a part that has saturated, add nothing; the companion follows modulo 15 where nothing is clamped, and a part
that is clamped sets its saturation bit and the sticky SATURATED bit. In X2 the parts are held within 16 bits. -/
def Obligations.SampleEnters : Prop :=
  ∀ (x : CellSet) (rows cols : List (Option (Int × Int))) (p : Nat), p < 256 →
    Sparse.rising x.acc = true → Sparse.rising x.cnt = true → Sparse.rising x.res = true → Sparse.rising x.sat = true →
    let y := x.sample rows cols
    let top : Int := if x.mode = .x2 then 32767 else 2147483647
    let part := fun (k : Nat) (d : Int) =>
      (x.sat.at k false = false → y.acc.at k 0 = clampInt (-top - 1) top (x.acc.at k 0 + d) ∧
        (-top - 1 ≤ x.acc.at k 0 + d → x.acc.at k 0 + d ≤ top →
          y.res.at k 0 = (x.res.at k 0 + (d % 15).toNat) % 15 ∧ y.sat.at k false = false) ∧
        ((x.acc.at k 0 + d < -top - 1 ∨ top < x.acc.at k 0 + d) →
          y.sat.at k false = true ∧ y.sticky.toNat.testBit 1 = true)) ∧
      (x.sat.at k false = true → y.acc.at k 0 = x.acc.at k 0 ∧ y.res.at k 0 = x.res.at k 0 ∧ y.sat.at k false = true)
    (∀ a b, nth rows (p / 16) none = some a → nth cols (p % 16) none = some b →
      part (2 * p) (a.1 * b.1 + a.2 * b.2) ∧ part (2 * p + 1) (a.2 * b.1 - a.1 * b.2) ∧
      y.cnt.at p 0 = min 65535 (x.cnt.at p 0 + 1)) ∧
    ((nth rows (p / 16) none = none ∨ nth cols (p % 16) none = none) →
      (∀ e, e < 2 → y.acc.at (2 * p + e) 0 = x.acc.at (2 * p + e) 0 ∧ y.res.at (2 * p + e) 0 = x.res.at (2 * p + e) 0 ∧
        y.sat.at (2 * p + e) false = x.sat.at (2 * p + e) false) ∧ y.cnt.at p 0 = x.cnt.at p 0) ∧
    y.mode = x.mode ∧ y.tag = x.tag ∧ y.frame = x.frame

/-- R134, R135, R138, R139, R140, R142, R143, R220: runs, spills and dumps. A correlation run in X adds the rest of its
samples to the active set and ends; with nothing saturated only the cell changes, and else the cell's bit in CELLSAT and its
event follow. A B-mode run ends once every fine time of it is staged. A forced spill of a run in X2 adds samples until 256 have
come since the last spill, and empties the 16-bit accumulators of the active set. A write-back of a set whose companions match
leaves the values and the counts of the kept positions and the flag word with one frame more (the model holds NF at 0xFFFFFF:
log entry 117); no other byte changes. A close leaves the flag word 0. A dump with a mismatch in a kept position is withheld
while an idle spare and the budget allow a redo, and else is written with REDO.FAILED one higher; either way the cell's bit in
CELLFAULT is set. A redo takes the lowest idle spare; its end frees the withheld dump, counts in REDO.DONE and deducts the
cycles it used. -/
def Obligations.RunsAndDumps : Prop :=
  (∀ (s : State) (r : Fin 4) (b : Fin 12) (c : Fin 32) (e : Bool) (m : CellMode) (buf q cOut n t0 serial since done : Nat),
    let i := 384 * r.val + 32 * b.val + c.val
    let x := s.cell i
    let y := s.sampled r buf q (t0 + done) (n - done) (x.get x.active)
    s.sound = true → s.ordered = true → x.run = some ⟨.start e m buf q cOut n t0 serial, since, done⟩ → done ≤ n →
    (x.get x.active).mode ≠ .x2 → (∀ k, (i, k) ∉ s.parity) →
    s.readable (s.bufAt r buf (t0 + done)) ((n - done) * s.chipInputs) →
    ∃ t, exec (.cellRunEnd r b c) s = .next t ∧ (∀ k, k ≠ i → t.cell k = s.cell k) ∧
      t.cell i = { x.put x.active y with run := none } ∧
      (y.sat = (x.get x.active).sat → t = { s with cells := t.cells }) ∧
      (y.sat ≠ (x.get x.active).sat → bit (t.get blkCellsatCells r b) c = true ∧
        (s.power.inReset = false → t.evtOn (192 + 48 * r.val + 4) = true) ∧
        State.onlyEvents { s with cells := t.cells } t (fun k => k = blkCellsat.key r b))) ∧
  (∀ (s : State) (r : Fin 4) (b : Fin 12) (c : Fin 32) (chan nch ch0 b0 n t0 since done : Nat),
    let i := 384 * r.val + 32 * b.val + c.val
    s.ordered = true → (s.cell i).run = some ⟨.beam chan nch ch0 b0 n t0, since, done⟩ →
    (n ≤ done ∨ s.on blkBeamEn r b = false ∨ 4 * s.chanP ≤ chan ∨
      ∀ k, done ≤ k → k < n → s.timeStaged r b chan nch ch0 (t0 + k) = true) →
    ∃ t : State, exec (.cellRunEnd r b c) s = .next t ∧ (t.cell i).run = none ∧ (t.cell i).queue = (s.cell i).queue ∧
      (t.cell i).set0 = (s.cell i).set0 ∧ (t.cell i).set1 = (s.cell i).set1 ∧ ∀ k, k ≠ i → t.cell k = s.cell k) ∧
  (∀ (s : State) (r : Fin 4) (b : Fin 12) (c : Fin 32) (e : Bool) (m : CellMode) (buf q cOut n t0 serial since done : Nat),
    let i := 384 * r.val + 32 * b.val + c.val
    let x := s.cell i
    let z := x.get x.active
    let more := 256 - z.phase.toNat
    s.sound = true → s.ordered = true → x.run = some ⟨.start e m buf q cOut n t0 serial, since, done⟩ → z.mode = .x2 →
    (done + more ≤ n →
      ∃ t : State, exec (.x2ForcedSpill r b c) s = .next t ∧
        (t.cell i).run = some ⟨.start e m buf q cOut n t0 serial, since, done + more⟩ ∧
        ((t.cell i).get x.active).acc = [] ∧ ((t.cell i).get x.active).res = [] ∧ ((t.cell i).get x.active).phase = 0 ∧
        (t.cell i).queue = x.queue ∧ (t.cell i).active = x.active ∧ (t.cell i).get (!x.active) = x.get (!x.active) ∧
        (∀ k, k ≠ i → t.cell k = s.cell k) ∧ s.onlyBytes t (s.slotAddr i x.active) 3392 ∧
        t = { s with cells := t.cells, mem := t.mem, marks := t.marks, lines := t.lines, regs := t.regs, logs := t.logs
                     ceRecent := t.ceRecent, corrections := t.corrections, fresh := t.fresh, parity := t.parity
                     notes := t.notes, msiPend := t.msiPend, msiSent := t.msiSent }) ∧
    (n < done + more → exec (.x2ForcedSpill r b c) s = .next s)) ∧
  (∀ (s : State) (r : Fin 4) (b : Fin 12) (c : Fin 32) (close : Bool) (rank q cOut : Nat) (rec : Record) (rest : List CellOp),
    let i := 384 * r.val + 32 * b.val + c.val
    let x := (s.cell i).get (!(s.cell i).active)
    let ps := keptPositions rec.shape q
    let fa := flagAddr rec cOut q
    let va := fun p => valueAddr rec cOut (posIndex q p)
    let ca := fun p => countAddr rec cOut (posIndex q p)
    let old := leVal (s.bytes fa 4)
    let inDram := fun (a n : Nat) => s.servedRange a n ∧ a + n ≤ dramEnd
    s.sound = true → s.ordered = true → q < 8448 → (s.cell i).queue = .dump close rank q cOut rec :: rest →
    x.mode ≠ .x2 → x.mismatches = [] → fa ∉ s.restarts →
    (∀ p ∈ ps, ∀ e, e < 2 → clampInt (-2147483648) 2147483647 (x.acc.at (2 * p + e) 0) = x.acc.at (2 * p + e) 0) →
    inDram fa 4 → s.cleanRange fa 4 → (∀ p ∈ ps, inDram (va p) 8 ∧ inDram (ca p) 2 ∧ s.cleanRange (ca p) 2) →
    (close = false →
      ∃ t, exec (.cellDumpDone r b c) s = .next t ∧
        t = { s with cells := t.cells, mem := t.mem, marks := t.marks, lines := t.lines, used := t.used } ∧
        t.cell i = { s.cell i with queue := rest } ∧ (∀ k, k ≠ i → t.cell k = s.cell k) ∧
        leVal (t.bytes fa 4) = min (old / 256 + 1) 0xFFFFFF * 256 +
          (old % 256 ||| (x.sticky.toNat % 256 &&& 0xFD) |||
            (if ps.any (fun p => x.sat.at (2 * p) false || x.sat.at (2 * p + 1) false) then 2 else 0) |||
            (if s.subLost q x.frame then 8 else 0)) ∧
        ((∀ p ∈ ps, ∀ k ∈ ps, (va p + 8 ≤ ca k ∨ ca k + 2 ≤ va p) ∧ (va p + 8 ≤ fa ∨ fa + 4 ≤ va p) ∧
            (ca k + 2 ≤ fa ∨ fa + 4 ≤ ca k)) →
          ∀ p ∈ ps, t.bytes (va p) 8 = leBytes 4 (toBits 32 (x.acc.at (2 * p) 0)) ++
              leBytes 4 (toBits 32 (x.acc.at (2 * p + 1) 0)) ∧
            leVal (t.bytes (ca p) 2) = min 65535 ((if old / 256 = 0 then 0 else leVal (s.bytes (ca p) 2)) +
              (roundC (x.cnt.at p 0) rec.vsh).toNat)) ∧
        ∀ a, (a < fa ∨ fa + 4 ≤ a) → (∀ p ∈ ps, (a < va p ∨ va p + 8 ≤ a) ∧ (a < ca p ∨ ca p + 2 ≤ a)) →
          t.byte a = s.byte a) ∧
    (close = true → rec.qlog2 = 0 →
      ∃ t : State, exec (.cellDumpDone r b c) s = .next t ∧ t.bytes fa 4 = [0, 0, 0, 0] ∧
        t.cell i = { s.cell i with queue := rest } ∧ (∀ k, k ≠ i → t.cell k = s.cell k) ∧ t.seqs = s.seqs ∧
        t.redos = s.redos)) ∧
  (∀ (s : State) (r : Fin 4) (b : Fin 12) (c : Fin 32) (close : Bool) (rank q cOut : Nat) (rec : Record) (rest : List CellOp),
    let i := 384 * r.val + 32 * b.val + c.val
    let x := (s.cell i).get (!(s.cell i).active)
    s.sound = true → s.ordered = true → s.power.inReset = false → (s.cell i).queue = .dump close rank q cOut rec :: rest →
    s.dumpServed close q cOut rec = true →
    x.mode ≠ .x2 → (∃ p ∈ x.mismatches, p / 2 ∈ keptPositions rec.shape q) →
    ∃ t : State, exec (.cellDumpDone r b c) s = .next t ∧ (t.cell i).queue = rest ∧ bit (t.get blkCellfaultCells r b) c = true ∧
      t.evtOn (192 + 48 * r.val + 2) = true ∧
      (State.redoPossible { s with cells := t.cells } (12 * r + b) rec = true →
        (∃ d : Redo, t.redos = s.redos ++ [d] ∧ d.dump = .dump close rank q cOut rec ∧ d.orig = x ∧ d.spare = none ∧
          d.blk = 12 * r.val + b.val ∧ d.cell = c.val) ∧
        t.mem = s.mem ∧ t.closes = s.closes ∧ t.prods = s.prods) ∧
      (State.redoPossible { s with cells := t.cells } (12 * r + b) rec = false →
        t.get blkRedoFailed r b = min (s.get blkRedoFailed r b + 1) (2 ^ (blkRedoFailed.hi + 1 - blkRedoFailed.lo) - 1) ∧
        t.evtOn (192 + 48 * r.val + 3) = true ∧ t.redos = s.redos)) ∧
  (∀ (s : State) (r : Fin 4) (b : Fin 12) (d : Redo) (c : Nat) (ds : List Redo) (cs : List Nat),
    s.waitingRedos (12 * r + b) = d :: ds → s.idleSpares (12 * r + b) = c :: cs →
    exec (.redoStart r b) s = .next { s with redos := s.redos.map fun x => if x = d then { d with spare := some c } else x }) ∧
  (∀ (s : State) (r : Fin 4) (b : Fin 12) (d : Redo) (rec : Record) (c : Nat) (close : Bool) (rank q cOut : Nat),
    s.sound = true →
    (s.redos.find? fun x => x.blk = 12 * r.val + b.val && x.spare.isSome) = some d →
    d.dump = .dump close rank q cOut rec → d.spare = some c → s.dumpServed close q cOut rec = true →
    ∃ t : State, exec (.redoEnd r b) s = .next t ∧ t.redos = s.redos.erase d ∧
      t.get blkRedoBudgetCycles r b = s.get blkRedoBudgetCycles r b - d.cycles ∧
      t.get blkRedoDone r b = min (s.get blkRedoDone r b + 1) (2 ^ (blkRedoDone.hi + 1 - blkRedoDone.lo) - 1) ∧
      t.seqs = s.seqs ∧ t.ports = s.ports ∧ t.streams = s.streams)

/-- R229, R230, R231: the release gate. The issuer's fill marks every member as owing a release and sets their line 12 + x; a
fill of a buffer that some member still holds also sets EARLY and raises source 423. A member's release is recorded at
once, and takes effect when the runs it waits for, and the redos of what they fed, have ended: its bit in PENDx clears, and
the last member to release sets line 14 + x in the issuer; a release of a member whose bit is already clear does nothing.
With EN = 0 the gate does nothing, and neither does a block that is no member, or not the issuer. -/
def Obligations.GateTurns : Prop :=
  (∀ (s : State) (r : Fin 4) (b : Fin 12) (x : Fin 2), s.sound = true → s.power.inReset = false →
    s.ordered = true → s.gateOn = true → s.gateIssuerBlk = 12 * r + b →
    ∃ t, exec (.gateFill r b x) s = .next t ∧
      State.onlyEvents { s with seqs := t.seqs } t
        (fun k => k = gatePend.key x 0 || (s.get gatePendMask x ≠ 0 && k = gateStatus.key 0 0)) ∧
      (∀ i, i < 48 → bit (t.get gatePendMask x) i = s.gateMember i) ∧
      (∀ i, i < 48 → s.gateMember i = true → t.seq i = { s.seq i with evt := (s.seq i).evt ||| (1#32 <<< (12 + x.val)) }) ∧
      (∀ i, (48 ≤ i ∨ s.gateMember i = false) → t.seq i = s.seq i) ∧
      (s.get gatePendMask x = 0 → State.onlyRegs { s with seqs := t.seqs } t (fun k => k = gatePend.key x 0)) ∧
      (s.get gatePendMask x ≠ 0 → t.on gateStatusEarly = true ∧ t.evtOn 423 = true)) ∧
  (∀ (s : State) (r : Fin 4) (b : Fin 12) (x : Fin 2), s.gateOn = true → s.gateMember (12 * r + b) = true →
    exec (.gateRelease r b x) s =
      .next { s with releases := s.releases ++ [⟨12 * r + b, x, (s.seq (12 * r + b)).starts⟩] }) ∧
  (∀ (s : State) (r : Fin 4) (b : Fin 12) (x : Fin 2),
    ((s.gateOn = false ∨ s.gateMember (12 * r + b) = false) → exec (.gateRelease r b x) s = .next s) ∧
    ((s.gateOn = false ∨ s.gateIssuerBlk ≠ 12 * r + b) → exec (.gateFill r b x) s = .next s)) ∧
  (∀ (s : State) (r : Fin 4) (b : Fin 12) (x : Fin 2) (e : Release), s.sound = true → s.ordered = true →
    (s.releases.find? fun e => e.blk = 12 * r.val + b.val && e.x = x.val) = some e →
    (s.releaseDue e = false → exec (.gateReleaseEffect r b x) s = .next s) ∧
    (s.releaseDue e = true →
      (s.gateOn = true → bit (s.get gatePendMask x) (12 * r + b) = true →
        ∃ t, exec (.gateReleaseEffect r b x) s = .next t ∧
          State.onlyRegs { s with seqs := t.seqs, releases := s.releases.erase e } t (fun k => k = gatePend.key x 0) ∧
          bit (t.get gatePendMask x) (12 * r + b) = false ∧
          (∀ i, i ≠ 12 * r.val + b.val → bit (t.get gatePendMask x) i = bit (s.get gatePendMask x) i) ∧
          (∀ i, i ≠ s.gateIssuerBlk → t.seq i = s.seq i) ∧
          t.seq s.gateIssuerBlk = (if t.get gatePendMask x = 0
            then { s.seq s.gateIssuerBlk with evt := (s.seq s.gateIssuerBlk).evt ||| (1#32 <<< (14 + x.val)) }
            else s.seq s.gateIssuerBlk)) ∧
      ((s.gateOn = false ∨ bit (s.get gatePendMask x) (12 * r + b) = false) →
        exec (.gateReleaseEffect r b x) s = .next { s with releases := s.releases.erase e })))

/-! ## The conductor (R184, R194, R197 to R199, R206 to R208) -/

/-- R194, R198, R206: conductor memory. MV.LD reads the word of its data window, as the write buffer and the array give it;
MV.ST puts its word into the write buffer, where its own context reads it, and stalls while the buffer is full; FENCE goes on
once no store of its context is buffered; the oldest buffered entry drains into the array. An address outside the window, or
one not aligned to 4, raises ADDR, and a word in error DATA_ECC. -/
def Obligations.ConductorMemory : Prop :=
  (∀ (s : State) (n : Fin 4) (rd ra a : Nat) (off : Int), s.atInst n (.cndLd rd ra off) →
    let i := 48 + n.val
    let z := s.seq i
    s.dataAddr n (z.dataOff ra off) 4 4 = some a → s.cleanRange a 4 →
    exec (.condMvLd n) s = .next ((s.issued i).setSeq i (s.passed i
      (z.setS rd (BitVec.ofNat 32 (leVal (s.cndBytes a 4))))))) ∧
  (∀ (s : State) (n : Fin 4) (rd ra a : Nat) (off : Int), s.atInst n (.cndSt rd ra off) →
    let i := 48 + n.val
    let z := s.seq i
    let t := (s.issued i).buffer n a (leBytes 4 (z.sr rd).toNat)
    s.dataAddr n (z.dataOff ra off) 4 4 = some a →
    (s.wbuf.length < 16 → exec (.condMvSt n) s = .next (t.setSeq i (s.passed i z))) ∧
    (16 ≤ s.wbuf.length → exec (.condMvSt n) s = .next ((s.issued i).setSeq i (s.waiting i))) ∧
    (s.ordered = true → t = { s.issued i with wbuf := t.wbuf } ∧ t.cndBytes a 4 = leBytes 4 (z.sr rd).toNat ∧
      ∀ k, (k < a ∨ a + 4 ≤ k) → t.cndBytes k 1 = s.cndBytes k 1)) ∧
  (∀ (s : State) (n : Fin 4) (c : Instr) (y : SInst), s.sound = true → s.ordered = true → s.power.inReset = false →
    s.atInst n y →
    let i := 48 + n.val
    let z := s.seq i
    (((∃ rd ra off, y = .cndLd rd ra off ∧ c = .condMvLd n ∧ s.dataAddr n (z.dataOff ra off) 4 4 = none) ∨
      (∃ rd ra off, y = .cndSt rd ra off ∧ c = .condMvSt n ∧ s.dataAddr n (z.dataOff ra off) 4 4 = none)) →
      ∃ t, exec c s = .next t ∧ (s.issued i).excepted t i 5 0) ∧
    (∀ rd ra off a, y = .cndLd rd ra off → c = .condMvLd n → s.dataAddr n (z.dataOff ra off) 4 4 = some a →
      s.cndBad a 4 = true → ∃ t, exec c s = .next t ∧ ((s.issued i).readWords a 4).1.excepted t i 8 0)) ∧
  (∀ (s : State) (n : Fin 4), s.atInst n .fence →
    let i := 48 + n.val
    let z := s.seq i
    z.ports = [] →
    exec (.fence (.ctx n)) s = .next ((s.issued i).setSeq i
      (if ∀ e ∈ s.wbuf, n.val ∉ e.ctxs then s.passed i z else s.waiting i))) ∧
  (∀ (s : State) (e : WEntry) (l : List WEntry), s.sound = true → s.ordered = true → s.wbuf = e :: l →
    ∃ t, exec .writeBufferDrain s = .next t ∧
      t = { s with wbuf := l, mem := t.mem, marks := t.marks, lines := t.lines } ∧
      (∀ j v, e.bytes.at j none = some v → t.byte (32 * e.unit + j) = v) ∧
      ∀ a, (∀ j, e.bytes.at j none ≠ none → a ≠ 32 * e.unit + j) → t.byte a = s.byte a) ∧
  (∀ s : State, s.wbuf = [] → exec .writeBufferDrain s = .next s)

/-- R199, R206, R234: CSRR and CSRW of a conductor context reach the registers of the maps, by either name of the
command. CSRR gives what a read of the register gives, 0 where the context's tenancy does not see it, and the read's effects
happen; CSRW writes one that its context may write, as a write of the register does, and a register without effects of its own
field by field. A register the context cannot read, or not write, raises CSR, and a peripheral that does not answer
DATA_ECC. -/
def Obligations.ConductorRegisters : Prop :=
  (∀ (s : State) (n : Fin 4) (rd ra : Nat) (c : Instr), s.atInst n (.cndCsrr rd ra) →
    (c = .condCsrr n ∨ c = .csrr (.ctx n)) →
    let i := 48 + n.val
    let z := s.seq i
    let w := s.seqWho i
    let off := (z.sr ra).toNat
    let key := s.regKey w off
    let u := s.issued i
    let read := (u.readKey w key).1
    (s.cndReadable n off = true → s.unanswered key = false → read.seqs = s.seqs →
      exec c s = .next ({ read with reply := u.reply }.setSeq i
        (s.passed i (z.setS rd (BitVec.ofNat 32 (u.readKey w key).2.1))))) ∧
    (∀ h, s.unanswered key = false → findReg key = some h → (∀ e ∈ readers, e.1.base ≠ h.reg.base) →
      exec c s = .next (u.setSeq i (s.passed i (z.setS rd (BitVec.ofNat 32
        (if hiddenFrom n key then 0 else if h.high then u.reg h.reg h.i h.j / 2 ^ 32 else u.reg h.reg h.i h.j)))))) ∧
    (s.sound = true → s.ordered = true → s.power.inReset = false →
      (s.cndReadable n off = false → ∃ t, exec c s = .next t ∧ u.excepted t i 6 0) ∧
      (s.cndReadable n off = true → s.unanswered key = true →
        ∃ t, exec c s = .next t ∧ State.excepted { u with silent := false } t i 8 0))) ∧
  (∀ (s : State) (n : Fin 4) (rd ra : Nat) (c : Instr), s.atInst n (.cndCsrw rd ra) →
    (c = .condCsrw n ∨ c = .csrw (.ctx n)) →
    let i := 48 + n.val
    let z := s.seq i
    let w := s.seqWho i
    let off := (z.sr rd).toNat
    let key := s.regKey w off
    let u := s.issued i
    (∀ h, s.cndWritable n off = true → findReg key = some h →
      let t := if s.reachable w key then u.writeReg w h (u.wholeValue w h (z.sr ra).toNat) else u
      (t.seqs = s.seqs → exec c s = .next (t.setSeq i (s.passed i z))) ∧
      (s.sound = true → s.reachable w key = true → key = h.reg.key h.i h.j → s.unanswered key = false →
        (∀ e ∈ writers, e.1.base ≠ h.reg.base) →
        t.seqs = s.seqs ∧ u.onlyRegs t (fun k => k = key) ∧ t.reg h.reg h.i h.j =
          writeFields h.reg.fields (u.reg h.reg h.i h.j) (u.wholeValue w h (z.sr ra).toNat) % 2 ^ h.reg.width)) ∧
    (s.cndWritable n off = false → s.sound = true → s.ordered = true → s.power.inReset = false →
      ∃ t, exec c s = .next t ∧ u.excepted t i 6 0))

/-- R207, R208: the SYS instructions, each with its own effect. SYS.TICK sets or clears RUN; SYS.SEAL goes on once the frame
is sealed; SYS.COMMIT sends its bits to the tick unit, which accepts them two control cycles later and commits then what the
tenancy may commit; SYS.FLOW gives a flow of its tenancy 16 bytes of context; SYS.MIRE requests a freeze or a thaw; SYS.TEN
applies a tenancy record, or refuses it with its code; SYS.EVT sets a line of a block of its tenancy. A context that may not
do it takes SYS_DENIED, a data address outside its window ADDR, and a word in error DATA_ECC. -/
def Obligations.SysInstructions : Prop :=
  (∀ (s : State) (ra rb imm : Nat), s.atInst 0 (.sys .sysTick ra rb imm) →
    let u := s.issued 48
    let t := u.setRun (bit imm 0)
    exec (.sysTick 0) s = .next (t.setSeq 48 (s.passed 48 (s.seq 48))) ∧
      (s.sound = true → t.on tickCtrlRun = bit imm 0) ∧ (bit imm 0 = u.on tickCtrlRun → t = u) ∧
      (s.sound = true → bit imm 0 = true → u.on tickCtrlRun = false →
        t = { u with regs := t.regs, tick := { u.tick with seen := false, first := none }, formed := [], hold := []
                     released := 0, mire := t.mire } ∧
        u.regsKept t (fun k => k = tickCtrl.key 0 0))) ∧
  (∀ (s : State) (n : Fin 4) (ra rb imm : Nat), s.atInst n (.sys .sysSeal ra rb imm) →
    let i := 48 + n.val
    exec (.sysSeal n) s = .next ((s.issued i).setSeq i
      (if s.on tickStatusSealed then s.passed i (s.seq i) else s.waiting i))) ∧
  (∀ (s : State) (n : Fin 4) (ra rb imm : Nat), s.atInst n (.sys .sysCommit ra rb imm) → (n = 0 ∨ imm % 4 = 0) →
    let i := 48 + n.val
    let u := s.issued i
    exec (.sysCommit n) s = .next (({ u with commits := u.commits ++ [⟨n, imm % 16, u.cycle + 8⟩] } : State).setSeq i
      (s.passed i (s.seq i)))) ∧
  (∀ (s : State) (c : SysCommit) (n : Nat), s.sound = true → s.power.inReset = false → s.commits = [c] →
    let t := s.elapse n
    let named := fun (x : Table) => c.due ≤ s.cycle + n ∧ ((x = .bw c.ctx ∧ bit c.bits 2 = true) ∨
      (x = .wt c.ctx ∧ bit c.bits 3 = true) ∨ (c.ctx = 0 ∧ ((x = .eq ∧ bit c.bits 0 = true) ∨ (x = .dly ∧ bit c.bits 1 = true))))
    t.commits = (if c.due ≤ s.cycle + n then [] else [c]) ∧
    (∀ x, x ∈ t.tick.swapNext ↔ x ∈ s.tick.swapNext ∨ (s.on tickStatusSealed = false ∧ named x)) ∧
    (∀ x, x ∈ t.tick.swapThen ↔ x ∈ s.tick.swapThen ∨ (s.on tickStatusSealed = true ∧ named x))) ∧
  (∀ (s : State) (n : Fin 4) (ra rb imm a : Nat), s.atInst n (.sys .sysFlow ra rb imm) →
    let i := 48 + n.val
    let z := s.seq i
    let u := s.issued i
    let f := (z.sr rb).toNat
    let t := u.flowWrite (flowAddr f) ((s.cndBytes a 16).map fun b => (b, false))
    s.dataAddr n (z.sr ra).toNat 16 16 = some a → f < 2 ^ 18 → s.flowTen f = n → s.cleanRange a 16 →
    exec (.sysFlow n) s = .next (t.setSeq i (s.passed i z)) ∧
      (s.sound = true → s.ordered = true → t.flowCtx f = s.cndBytes a 16 ∧
        t = { u with mem := t.mem, marks := t.marks, lines := t.lines, flowStage := t.flowStage } ∧
        s.onlyBytes t (flowAddr f) 16 ∧
        ∀ k, k ≠ f → t.flowStage.at k (List.replicate 16 none) = s.flowStage.at k (List.replicate 16 none))) ∧
  (∀ (s : State) (n : Fin 4) (ra rb imm : Nat), s.atInst n (.sys .sysMire ra rb imm) →
    let i := 48 + n.val
    let u := s.issued i
    exec (.sysMire n) s = .next ((u.mireAsk n (imm = 2)).setSeq i (s.passed i (s.seq i)))) ∧
  (∀ (s : State) (ra rb imm a : Nat), s.atInst 0 (.sys .sysTen ra rb imm) →
    let u := s.issued 48
    let x := parseTen (s.cndBytes a 32)
    let k := imm % 4
    let t := u.applyTen (s.seqWho 48) k (s.cndBytes a 32)
    s.dataAddr 0 ((s.seq 48).sr ra).toNat 32 1 = some a → s.cleanRange a 32 →
    exec (.sysTen 0) s = .next (t.setSeq 48 (s.passed 48 (s.seq 48))) ∧
      (s.sound = true → s.power.inReset = false →
        t.get tenStatResult = s.tenRefusal k x ∧
        (s.tenRefusal k x ≠ 0 → t.evtOn 48 = true ∧
          u.onlyEvents t (fun y => y = tenStat.key 0 0 || y = evtReject.key 0 0)) ∧
        (s.tenRefusal k x = 0 → x.assign = true → t.on tenStateAssigned k = true ∧ t.get tenBlocksMask k = x.blocks ∧
          t.get tenFlowsBase k = x.fbase ∧ t.get tenFlowsCount k = x.fcount ∧ t.get tenDramBase k = x.dbase ∧
          t.get tenDramSize k = x.dsize ∧ t.reg tenReserve k 0 = x.reserve ∧ bit (t.get mireCfgAllow) k = x.mire ∧
          t.evtOn 54 = true ∧
          u.onlyEvents t (fun y => y = tenStat.key 0 0 || y = tenState.key k 0 || y = tenBlocks.key k 0 ||
            y = tenFlows.key k 0 || y = tenDram.key k 0 || y = tenReserve.key k 0 || y = mireCfg.key 0 0)) ∧
        (s.tenRefusal k x = 0 → x.assign = false → t.on tenStateAssigned k = false ∧ t.reg tenBlocks k 0 = 0 ∧
          t.reg tenFlows k 0 = 0 ∧ t.reg tenDram k 0 = 0 ∧ t.reg tenReserve k 0 = 0 ∧ bit (t.get mireCfgAllow) k = false ∧
          t.get mireKeepCfgSlots k = 0 ∧ t.evtOn 54 = true))) ∧
  (∀ (s : State) (n : Fin 4) (ra rb imm : Nat), s.atInst n (.sys .sysEvt ra rb imm) →
    let i := 48 + n.val
    let z := s.seq i
    let r := bits (z.sr ra).toNat 11 8
    let b := bits (z.sr ra).toNat 3 0
    r < 4 → b < 12 → s.blockTen (12 * r + b) = n →
    exec (.sysEvt n) s = .next (((s.issued i).setLine (12 * r + b) imm).setSeq i (s.passed i z))) ∧
  (∀ (s : State) (n : Fin 4) (c : Instr) (o : Op) (ra rb imm : Nat), s.sound = true → s.ordered = true →
    s.power.inReset = false → s.atInst n (.sys o ra rb imm) →
    let i := 48 + n.val
    let z := s.seq i
    let u := s.issued i
    let f := (z.sr rb).toNat
    let size := if o = .sysFlow then 16 else 32
    let at_ := s.dataAddr n (z.sr ra).toNat size (if o = .sysFlow then 16 else 1)
    let denied := (o = .sysTick ∧ n ≠ 0) ∨ (o = .sysCommit ∧ n ≠ 0 ∧ imm % 4 ≠ 0) ∨ (o = .sysTen ∧ n ≠ 0) ∨
      (o = .sysFlow ∧ at_.isSome = true ∧ (2 ^ 18 ≤ f ∨ s.flowTen f ≠ n)) ∨
      (o = .sysEvt ∧ (4 ≤ bits (z.sr ra).toNat 11 8 ∨ 12 ≤ bits (z.sr ra).toNat 3 0 ∨
        s.blockTen (12 * bits (z.sr ra).toNat 11 8 + bits (z.sr ra).toNat 3 0) ≠ n))
    (c, o) ∈ [(Instr.sysTick n, Op.sysTick), (.sysCommit n, .sysCommit), (.sysFlow n, .sysFlow), (.sysTen n, .sysTen),
      (.sysEvt n, .sysEvt)] →
    (denied → ∃ t, exec c s = .next t ∧ u.excepted t i 9 0) ∧
    (¬ denied → o = .sysFlow ∨ o = .sysTen → at_ = none → ∃ t, exec c s = .next t ∧ u.excepted t i 5 0) ∧
    (¬ denied → o = .sysFlow ∨ o = .sysTen → ∀ a, at_ = some a → s.cndBad a size = true →
      ∃ t, exec c s = .next t ∧ (u.readWords a size).1.excepted t i 8 0))

/-! ## Beams and watch (R153 to R171, R261) -/

/-- R157, R160, R161, R163, R166, R167: the beam registers. Function 0 and the tenancy of a beam write `BEAMβ.CFG`, which acts
at the next FT (the one in effect stays); TEN takes a write of function 0 only. A configuration that R161, R163 or R167 does
not allow changes nothing and raises the rejected-write event; so does a block's `BEAM` register that R157 does not allow.
Another function's write is ignored. CLRCNT clears every clamp count. -/
def Obligations.BeamRegisters : Prop :=
  (∀ (s : State) (w : Who) (x : BitVec 8) (v : Word), s.sound = true → s.reachable w (beamCfg.key x.toNat 0) = true →
    s.admitted w (beamCfg.key x.toNat 0) = true →
    let own := w.fn = 0 ∨ w.fn.val = s.get beamCfgTen x.toNat
    let y := writeFields beamCfg.fields (s.reg beamCfg x.toNat 0)
      (if w.fn = 0 then v.toNat else setBits v.toNat 31 30 (s.get beamCfgTen x.toNat))
    (own → s.beamCfgRefused x.toNat y = false →
      ∃ t, exec (.beamCfgWrite w x false v) s = .next t ∧ t.reg beamCfg x.toNat 0 = y % 2 ^ 32 ∧
        s.onlyRegs t (fun k => k = beamCfg.key x.toNat 0)) ∧
    (own → s.beamCfgRefused x.toNat y = true →
      ∃ t, exec (.beamCfgWrite w x false v) s = .next t ∧ s.refused t w (beamCfg.key x.toNat 0)) ∧
    (¬ own → exec (.beamCfgWrite w x false v) s = .next s)) ∧
  (∀ (s : State) (w : Who) (x : BitVec 8) (v : Word), s.sound = true → s.reachable w (beamOut.key x.toNat 0) = true →
    s.admitted w (beamOut.key x.toNat 0) = true → (w.fn = 0 ∨ w.fn.val = s.get beamCfgTen x.toNat) →
    ∃ t, exec (.beamCfgWrite w x true v) s = .next t ∧
      t.reg beamOut x.toNat 0 = writeFields beamOut.fields (s.reg beamOut x.toNat 0) v.toNat % 2 ^ 32 ∧
      s.onlyRegs t (fun k => k = beamOut.key x.toNat 0)) ∧
  (∀ (s : State) (w : Who) (r : Fin 4) (b : Fin 12) (v : Word), s.sound = true → s.lets w (blkBeam.key r b) →
    (s.blockBeamRefused r b v.toNat = false →
      ∃ t, exec (.blockBeamWrite w r b v) s = .next t ∧
        t.reg blkBeam r b = writeFields blkBeam.fields (s.reg blkBeam r b) v.toNat % 2 ^ 32 ∧
        s.onlyRegs t (fun k => k = blkBeam.key r b)) ∧
    (s.blockBeamRefused r b v.toNat = true →
      ∃ t, exec (.blockBeamWrite w r b v) s = .next t ∧ s.refused t w (blkBeam.key r b))) ∧
  (∀ (s : State) (w : Who), s.sound = true → s.lets w (beamCmd.key 0 0) →
    ∃ t, exec (.beamClrcnt w) s = .next t ∧ (∀ x, x < 256 → t.get beamClampCount x = 0) ∧
      s.onlyRegs t (fun k => (List.range 256).any fun x => k = beamClamp.key x 0))

/-- R160 to R165, R169, R170, R261, R262: the products of beams. A voltage packet leaves once every sample of it has been
formed, and counts the clamps; a pool sum whose companion does not match sets RESIDUE in its flags and POOL_RES in the
region's ERRSTAT. A power period closes with one packet for each 256 output channels, in which each sum holds what the period
held and the powers of the samples it still took; the next period begins. The watch results of the only watch beam leave at
the release, one packet for each NW channels, once in a frame, ahead of every product of another class; a spectrum that
exceeds raises an alert where alerts are enabled and none is held off, with a freeze request where FRZ asks for one. -/
def Obligations.BeamProducts : Prop :=
  (∀ (s : State) (x : BitVec 8) (r : Fin 4) (c0 : BitVec 10) (t0 : BitVec 13),
    let β := x.toNat
    let v := s.beamC β
    let smp := s.voltSamples v r c0.toNat t0.toNat
    let whole := fun (y : Int × Nat) => mod15 y.1 = y.2
    let outs := smp.map fun y => s.formatted β r y.1 y.2.1 y.2.2 (min 24 (bits v 22 18)) (if bit v 23 then 127 else 7)
    s.sound = true → s.ticking = true → bit v 29 = true → c0.toNat % s.voltNc = 0 → c0.toNat < 4 * s.chanP →
    t0.toNat % s.voltNt v = 0 → t0.toNat < s.lenL → voltKey β r c0.toNat t0.toNat ∉ s.emitted →
    (∀ y ∈ smp, s.formedSum β r y.1 y.2.1 y.2.2 = true) →
    ∃ t p, exec (.voltagePacket x r c0 t0) s = .next t ∧ t.prods = s.prods ++ [p] ∧
      t.emitted = insertKey s.emitted (voltKey β r c0.toNat t0.toNat) ∧
      p = { ten := bits v 31 30, type := 0x10, flow := s.beamFlow β 0, region := r, flags := p.flags, frame := s.frame
            chan0 := 4 * s.chanP * r + c0.toNat, nchan := s.voltNc, block := β * 2 ^ 24 + t0.toNat
            payload := outs.flatMap fun o => voltBytes (bit v 23) o.1 } ∧
      t.get beamClampCount β = min (s.get beamClampCount β + (outs.map (·.2)).sum)
        (2 ^ (beamClampCount.hi + 1 - beamClampCount.lo) - 1) ∧
      ((∀ y ∈ smp, ∀ z ∈ s.sumParts β y.1 y.2.1 y.2.2, whole z) → p.flags = s.lossFlag [s.frame] ∧
        t = { s with regs := t.regs, prods := t.prods, emitted := t.emitted } ∧
        s.regsKept t (fun k => k = beamClamp.key β 0)) ∧
      ((∃ y ∈ smp, ∃ z ∈ s.sumParts β y.1 y.2.1 y.2.2, ¬ whole z) → s.power.inReset = false →
        p.flags = 4 + s.lossFlag [s.frame] ∧ t.evtOn (200 + 48 * r.val + 6) = true)) ∧
  (∀ (s : State) (x : BitVec 8) (r : Fin 4),
    let β := x.toNat
    let v := s.beamC β
    let p := s.period β r
    let q := if cfgPaired v then 4 else 1
    let nOut := 4 * s.chanP / 2 ^ cfgCavg v
    let power := fun (o : Nat) => ((List.range (2 ^ cfgCavg v)).map fun ch => ((List.range (s.periodSpan β)).map fun dt =>
      match (s.powerSample β r (4 * s.chanP * r + 2 ^ cfgCavg v * o + ch) (p.start + dt)).1 with
      | some y => y.1
      | none => 0).sum).sum
    s.sound = true → s.ordered = true → s.ticking = true → bit v 28 = true → s.periodDue β r = true →
    (∀ c dt, c < 4 * s.chanP → dt < s.periodSpan β →
      s.powerFormed β r (4 * s.chanP * r + c) (p.start + dt) = true ∧
      ∀ pol, pol < 2 → ∀ z ∈ s.sumParts β (4 * s.chanP * r + c) (p.start + dt) pol, mod15 z.1 = z.2) →
    p.failed = [] → Sparse.rising p.sums = true → Sparse.rising p.res = true →
    (∀ o, o < nOut → let a := p.sums.at o (0, 0, 0, 0, 0)
      p.res.at o (0, 0, 0, 0) = (mod15 a.1, mod15 a.2.1, mod15 a.2.2.1, mod15 a.2.2.2.1)) →
    ∃ t l, exec (.powerPeriodClose x r) s = .next t ∧
      t = { s with regs := t.regs, prods := s.prods ++ l, periods := t.periods } ∧ l.length = (nOut + 255) / 256 ∧
      (∀ y ∈ l, y.type = (if cfgPaired v then 0x12 else 0x11) ∧ y.flow = s.beamFlow β 1 ∧ y.frame = s.frame ∧ y.region = r ∧
        y.ten = bits v 31 30 ∧ bit y.flags 0 = p.cutShort ∧ bit y.flags 2 = false) ∧
      (∀ k j y, l[k]? = some y → 256 * k + j < nOut → j < 256 →
        slice y.payload (4 * q * j) 4 =
          beBytes 4 (toBits 32 ((p.sums.at (256 * k + j) (0, 0, 0, 0, 0)).1 + power (256 * k + j)))) ∧
      t.period β r = { frame := s.frame, start := if cfgN v < s.lenL then p.start + cfgN v else s.lenL } ∧
      (∀ k, k ≠ 4 * β + r.val → t.periods.at k {} = s.periods.at k {}) ∧ s.regsKept t (fun k => k = beamClamp.key β 0)) ∧
  (∀ (s : State) (n : Fin 4) (x : Nat),
    let v := s.beamC x
    let vals := (List.range (16 * s.chanP)).map fun c => (s.watchChannel x n c).1
    let isWatch := fun (p : Product) => decide (p.type = 0x20)
    let alert := s.on watchCfgAlertEn n = true ∧ 0 < (watchSum vals).nexc
    s.sound = true → s.ordered = true → s.ticking = true → s.on tickStatusSealed = true → s.watchDone = false →
    s.watchBeams n = [x] → (∀ m : Fin 4, m ≠ n → s.watchBeams m = []) →
    (∀ c k pol, c < 16 * s.chanP → k < s.lenL → pol < 2 → ∀ z ∈ s.sumParts x c k pol, mod15 z.1 = z.2) →
    ∃ t l, exec .watchRelease s = .next t ∧ t.watchDone = true ∧
      t.prods = s.prods.filter isWatch ++ l ++ s.prods.filter (fun p => !isWatch p) ∧
      l.length = 16 * s.chanP / s.watchNw n ∧
      (∀ p ∈ l, p.type = 0x20 ∧ p.ten = n ∧ p.flow = s.beamFlow x 2 ∧ p.frame = s.frame ∧
        bit p.flags 0 = vals.any (·.isNone) ∧ bit p.flags 2 = false) ∧
      (∀ k p, l[k]? = some p → p.chan0 = k * s.watchNw n ∧
        slice p.payload 32 (4 * s.watchNw n) = (slice vals (k * s.watchNw n) (s.watchNw n)).flatMap
          (fun y => leBytes 4 (match y with | some z => z.1 | none => 0))) ∧
      (¬ alert → t = { s with regs := t.regs, prods := t.prods, watchDone := true } ∧
        s.regsKept t (fun k => k = beamClamp.key x 0)) ∧
      (alert → s.power.inReset = false → s.alerts.at x none = none →
        t.alerts = s.alerts.put x (some s.frame) none ∧ t.evtOn (136 + n.val) = true ∧
        t.get watchAlertsCount n = min (s.get watchAlertsCount n + 1)
          (2 ^ (watchAlertsCount.hi + 1 - watchAlertsCount.lo) - 1) ∧
        t.get watchLastWslot n = bits v 9 4 ∧ t.get watchLastFrame n = s.frame ∧
        (bit v 26 = true → s.mireAllowed n = true → s.on mireStatusFrozen = false → s.get mireStatusPend = 0 →
          t.get mireStatusPend = 1) ∧
        (bit v 26 = false → t.mire = s.mire))) ∧
  (∀ s : State, (s.ticking = false ∨ s.on tickStatusSealed = false ∨ s.watchDone = true) → exec .watchRelease s = .next s)

/-! ## The fabric (R44, R234 to R247) -/

/-- R234 to R237, R243, R244, R247: requests, grants and responses. A request whose length R235 allows, whose ID nothing holds
back and for whose queue there is room joins the queue where it first waits; one with the ID of an earlier request to another
target, or of one held back, is held back; one whose address reaches nothing, or over a path that R239 closes, is answered
with DECERR, which FAB.STATUS and its event show; any other is not accepted. A grant moves a segment of an eligible request
that none goes before under R243, and hands it on with its last one; a tenancy over its DRAM reservation while another's
requests wait at a memory port is throttled there. A served read answers OK with the bytes of memory, a served write stores
its bytes and no others, and one that met an UNTRAINED pseudo-channel is answered with TERR. A starving request is arbitrated
as 12. After a peripheral timeout the next transaction over the bridge ends with TERR and has no effect. That requests act on
memory when they are answered, and which transaction the timeout ends, are the model's readings (log entries 70 and 120). -/
def Obligations.FabricServes : Prop :=
  (∀ (s : State) (i : Fin 66) (id : BitVec 10) (qos : BitVec 4) (n : Fin 4) (addr : BitVec 48) (acc : Access),
    let a := addr.toNat
    let k := (fabricTarget a).getD 1000
    let q : Req := ⟨i, id.toNat, s.arbQos i qos.toNat n, n, a, k, acc, s.cycle, (accLen acc + 511) / 512, false, 0, 0, 0, false⟩
    let p := firstPort i k
    let waits := (∃ x ∈ s.heldBack i, x.id = id.toNat) ∨
      ∃ x ∈ s.accepted, x.init = i.val ∧ x.id = id.toNat ∧ (x.target ≠ k ∨ q.refused.isSome = true)
    s.power.inReset = false → (∀ u, initUnit i = some u → bit (s.get clkGatedMask) u = false ∧ s.gating ≠ some u) →
    (s.admits i qos.toNat a acc = false → exec (.fabricRequest i id qos n addr acc) s = .next s) ∧
    (s.admits i qos.toNat a acc = true →
      (waits → (s.heldBack i).length < 15 →
        exec (.fabricRequest i id qos n addr acc) s =
          .next { s with holdback := s.holdback.put i (s.heldBack i ++ [q]) [] }) ∧
      (waits → (s.heldBack i).length = 15 →
        exec (.fabricRequest i id qos n addr acc) s =
          .next (State.fabFlag { s with holdback := s.holdback.put i (s.heldBack i ++ [q]) [] } 2)) ∧
      (¬ waits → q.refused = none → s.enterRoom q = false → exec (.fabricRequest i id qos n addr acc) s = .next s) ∧
      (¬ waits → q.refused = none → s.enterRoom q = true → s.ordered = true →
        ∃ t, exec (.fabricRequest i id qos n addr acc) s = .next t ∧
          t = { s with targets := t.targets, reqNo := s.reqNo + 1 } ∧
          t.target p = s.target p ++ [{ q with port := p, no := s.reqNo }] ∧ ∀ j, j ≠ p → t.target j = s.target j) ∧
      (∀ b, ¬ waits → q.refused = some b → s.sound = true →
        ∃ t, exec (.fabricRequest i id qos n addr acc) s = .next t ∧ bit (t.reg fabStatus 0 0) b = true ∧
          t.evtOn (384 + b) = true ∧ t.responses = s.responses ++ [⟨i, id.toNat, .decerr, []⟩] ∧
          (s.on fabErrsrcValid = false → t.get fabErrsrcInit = i ∧ t.get fabErrsrcId = id.toNat ∧ t.get fabErraddrAddr = a) ∧
          State.onlyEvents { s with responses := t.responses } t
            (fun k => k = fabStatus.key 0 0 || k = fabErrsrc.key 0 0 || k = fabErraddr.key 0 0)))) ∧
  (∀ (s : State) (k : Fin 192),
    let p := k.val
    let dram := 44 ≤ p ∧ p < 108
    let l := s.target p
    let s1 := if dram then s.meter p l else s
    let ok := (eligible l l).filter (s1.nextRoom p)
    (ok = [] → exec (.segmentGrant k) s = .next s) ∧
    (ok ≠ [] → ∃ r ∈ ok, (∀ y ∈ ok, s1.before p y r = false) ∧
      let seg := min 512 (accLen r.acc - (segments r.acc - r.left) * 512)
      let s2 := if dram then { s1 with used := s1.used.put r.ten (s1.used.at r.ten 0 + seg) 0 } else s1
      (1 < r.left → exec (.segmentGrant k) s = .next { s2 with
        targets := s2.targets.put p (l.map fun x => if x.no = r.no then { r with left := r.left - 1 } else x) [] }) ∧
      (r.left ≤ 1 → s.ordered = true → s.holdback = [] → s.hostReads = [] →
        let rest := l.filter fun x => x.no ≠ r.no
        (∀ j, nextPort p r = some j → ∃ t, exec (.segmentGrant k) s = .next t ∧
          t = { s2 with targets := t.targets, reqNo := s.reqNo + 1 } ∧
          (j ≠ p → t.target p = rest ∧ t.target j = s.target j ++
            [{ r with port := j, no := s.reqNo, left := segments r.acc, promoted := false }]) ∧
          ∀ i, i ≠ p → i ≠ j → t.target i = s.target i) ∧
        (nextPort p r = none → (∀ pc, memKind r.addr ≠ .dram pc) →
          exec (.segmentGrant k) s = .next { s2 with
            targets := s2.targets.put p rest [], inFlight := s.inFlight ++ [{ r with left := 0 }] }) ∧
        (∀ pc, nextPort p r = none → memKind r.addr = .dram pc → s.rangeTerr r.addr (accLen r.acc) = false →
          s.get mcStatState pc = 2 → ∃ t, exec (.segmentGrant k) s = .next t ∧
            t = { s2 with targets := s2.targets.put p rest [], ctls := t.ctls, regs := t.regs } ∧
            t.ctl pc = { s.ctl pc with queue := (s.ctl pc).queue ++ [{ r with left := 0, came := s.cycle }] } ∧
            ∀ i, i ≠ pc → t.ctl i = s.ctl i)))) ∧
  (∀ (s : State) (p : Nat) (x y : Req), (∀ n, 4 * p + n ∉ s.throttled) →
    (s.before p x y = true ↔ y.arb < x.arb ∨ (x.arb = y.arb ∧ (x.since < y.since ∨
      (x.since = y.since ∧ x.init < y.init))))) ∧
  (∀ (s : State) (p : Nat) (l : List Req) (n : Fin 4), s.sound = true → s.power.inReset = false →
    ((∃ x ∈ l, x.ten = n.val) ∧ (∃ x ∈ l, x.ten ≠ n.val) ∧ s.dramBudget n < s.used.at n 0 → 4 * p + n.val ∈ (s.meter p l).throttled ∧
      ((∀ x ∈ s.throttled, x % 4 ≠ n.val) → (s.meter p l).evtOn (132 + n.val) = true)) ∧
    (4 * p + n.val ∉ s.throttled → ¬ ((∃ x ∈ l, x.ten = n.val) ∧ (∃ x ∈ l, x.ten ≠ n.val) ∧ s.dramBudget n < s.used.at n 0) →
      4 * p + n.val ∉ (s.meter p l).throttled)) ∧
  (∀ (s : State) (k : Fin 108) (r : Req),
    ((eligible s.accepted s.inFlight).find? fun r => r.target = k.val) = some r →
    (∀ u, initUnit r.init = some u → bit (s.get clkGatedMask) u = false) → s.holdback = [] → s.hostReads = [] →
    let left := s.inFlight.filter fun x => x.no ≠ r.no
    let answer := fun (st : RespStatus) (d : List Byte) => s.responses ++ [⟨r.init, r.id, st, d⟩]
    (∀ n, r.terr = false → r.acc = .read n → n ≠ 0 → s.readable r.addr n →
      exec (.fabricResponse k) s = .next { s with inFlight := left, responses := answer .ok (s.bytes r.addr n) }) ∧
    (∀ d, r.terr = false → r.acc = .write d → s.sound = true → d ≠ [] → s.servedRange r.addr d.length →
      ∃ t, exec (.fabricResponse k) s = .next t ∧
        t = { s with inFlight := left, responses := answer .ok [], mem := t.mem, marks := t.marks, lines := t.lines } ∧
        t.bytes r.addr d.length = d ∧ s.onlyBytes t r.addr d.length) ∧
    (r.terr = true → s.blocked r.addr = false →
      exec (.fabricResponse k) s = .next { s with inFlight := left, responses := answer .terr [] })) ∧
  (∀ (s : State) (k : Fin 192) (r : Req), s.sound = true → s.ordered = true → s.power.inReset = false →
    s.get fabStarveLimit ≠ 0 → ((s.target k).find? fun r => !r.promoted) = some r →
    ∃ t, exec (.starvePromotion k) s = .next t ∧
      t.target k = (s.target k).map (fun x => if x.no = r.no then { r with promoted := true } else x) ∧
      ({ r with promoted := true } : Req).arb = 12 ∧ t.on fabStatusStarve = true ∧ t.evtOn 387 = true ∧
      (∀ j, j ≠ k.val → t.target j = s.target j) ∧
      State.onlyEvents { s with targets := t.targets } t (fun x => x = fabStatus.key 0 0)) ∧
  (∀ s : State, exec .peripheralTimeout s = .next (if s.power.inReset then s else { s with silent := true })) ∧
  (∀ (s : State) (w : Who) (off : Word) (v : BitVec 64) (h : RegHit), s.silent = true → w.path ≠ .config →
    beyondBar w off.toNat = false →
    let key := s.regKey w off.toNat
    bridgeWindow key = true → s.reachable w key = true →
    exec (.peakRead w off) s = .next { s with silent := false, reply := some ⟨0, 0, .terr, []⟩ } ∧
    (findReg key = some h → key = h.reg.key h.i h.j → (∀ e ∈ writers, e.1.base ≠ h.reg.base) →
      exec (.registerWrite w off v) s = .next { s with silent := false }))

/-! ## The memory controllers (R248 to R256, R320) -/

/-- R250, R251, R255, R267, R320: commands to the DRAM. A READY controller opens the row of its only eligible request and hands
it on; with none it refreshes the bank due; a refresh that falls due is owed, and at 8 it is forced. Self-refresh entry starts
in every READY controller, is issued once nothing it accepted is unanswered, and after its residency the clocks stop, or the
entry is aborted for a waiting request; an exit makes the controller READY again. TOWER_INIT returns every controller to
TRAINING and the DRAM to unwritten; a memory PLL that locks shows it. When refreshes act, and that a lost byte reads 0, are the
model's readings and choice (log entries 72, 119 and 6). -/
def Obligations.DramCommands : Prop :=
  (∀ (s : State) (p : Fin 128) (r : Req), s.sound = true → s.ordered = true → s.get mcStatState p = 2 →
    (s.ctl p).forced = false → eligible s.accepted (s.ctl p).queue = [r] → s.piecesServed p r = true →
    (s.getInt mcRefOwed p ≤ 0 ∨ s.bankFree p = false) →
    ∃ t, exec (.dramCommand p) s = .next t ∧ t = { s with regs := t.regs, ctls := t.ctls, inFlight := s.inFlight ++ [r] } ∧
      t.ctl p = { s.ctl p with queue := (s.ctl p).queue.filter fun x => x.no ≠ r.no, rows := (t.ctl p).rows } ∧
      t.rowHit p r = true ∧ (∀ j, j ≠ p.val → t.ctl j = s.ctl j) ∧
      s.regsKept t (fun k => k = mcOcc.key p 0)) ∧
  (∀ (s : State) (p : Fin 128), s.sound = true → s.ordered = true →
    ((s.get mcStatState p ≠ 4 ∧ s.get mcStatState p ≠ 5 ∧ (s.ctl p).forced = true) ∨
      (s.get mcStatState p < 3 ∧ (s.ctl p).queue = [] ∧ -8 < s.getInt mcRefOwed p)) →
    let c := s.ctl p
    let last := decide (c.refBank = 47)
    ∃ t, exec (.dramCommand p) s = .next t ∧ t = { s with regs := t.regs, ctls := t.ctls } ∧
      t.ctl p = { c with rows := c.rows.put c.refBank 0 0, refBank := (c.refBank + 1) % 48, forced := c.forced && !last } ∧
      (∀ j, j ≠ p.val → t.ctl j = s.ctl j) ∧
      (-8 < s.getInt mcRefOwed p → s.getInt mcRefOwed p ≤ 8 →
        t.getInt mcRefOwed p = s.getInt mcRefOwed p - (if last then 1 else 0)) ∧
      s.regsKept t (fun k => k = mcOcc.key p 0 || (last && k = mcRef.key p 0))) ∧
  (∀ (s : State) (p : Fin 128), s.sound = true → s.ordered = true → s.power.inReset = false →
    (s.get mcStatState p = 4 → exec (.refreshDue p) s = .next s) ∧
    (s.get mcStatState p ≠ 4 → -8 ≤ s.getInt mcRefOwed p → s.getInt mcRefOwed p < 8 →
      ∃ t, exec (.refreshDue p) s = .next t ∧ t.getInt mcRefOwed p = s.getInt mcRefOwed p + 1 ∧
        (s.getInt mcRefOwed p < 7 → s.onlyRegs t (fun k => k = mcRef.key p 0)) ∧
        (s.getInt mcRefOwed p = 7 → t.evtOn 405 = true ∧ (t.ctl p).forced = true ∧
          t.get mcRefForced p = min (s.get mcRefForced p + 1) (2 ^ (mcRefForced.hi + 1 - mcRefForced.lo) - 1) ∧
          State.onlyEvents { s with ctls := t.ctls } t (fun k => k = mcRef.key p 0 || k = mcOcc.key p 0)))) ∧
  (∀ (s : State) (w : Who), s.sound = true → s.ordered = true → s.lets w (memCmd.key 0 0) →
    ∃ t, exec (.selfRefreshEnter w) s = .next t ∧ t = { s with regs := t.regs, ctls := t.ctls } ∧
      ∀ p, p < 128 →
        let idle := (s.ctl p).queue = [] ∧ ∀ r ∈ s.inFlight, memKind r.addr ≠ .dram p
        t.get mcStatState p = (if s.get mcStatState p = 2 then 3 else s.get mcStatState p) ∧
        (s.get mcStatState p = 2 → (s.ctl p).entry = false → idle →
          t.ctl p = { s.ctl p with rows := [], entry := true } ∧
          t.get mcSrcntEntries p = min (s.get mcSrcntEntries p + 1)
            (2 ^ (mcSrcntEntries.hi + 1 - mcSrcntEntries.lo) - 1)) ∧
        ((s.get mcStatState p ≠ 2 ∨ ¬ idle) → t.ctl p = s.ctl p)) ∧
  (∀ (s : State) (p : Fin 128), s.sound = true → s.get mcStatState p = 3 → (s.ctl p).entry = true →
    let waits := (∃ r ∈ s.accepted, r.touches p = true) ∨ s.jobWaits p = true
    ∃ t, exec (.selfRefreshResidency p) s = .next t ∧
      (¬ waits → t.get mcStatState p = 4 ∧ s.onlyRegs t (fun k => k = mcStat.key p 0)) ∧
      (waits → t.get mcStatState p = 5 ∧ s.onlyRegs t (fun k => k = mcStat.key p 0 || k = mcSrcnt.key p 0) ∧
        t.get mcSrcntAborted p = min (s.get mcSrcntAborted p + 1) (2 ^ (mcSrcntAborted.hi + 1 - mcSrcntAborted.lo) - 1))) ∧
  (∀ (s : State) (p : Fin 128), (s.get mcStatState p ≠ 3 ∨ (s.ctl p).entry = false) →
    exec (.selfRefreshResidency p) s = .next s) ∧
  (∀ (s : State) (w : Who), s.sound = true → s.lets w (memCmd.key 0 0) →
    ∃ t, exec (.selfRefreshExit w) s = .next t ∧ s.onlyRegs t (fun k => (List.range 128).any fun p => k = mcStat.key p 0) ∧
      ∀ p, p < 128 → t.get mcStatState p = (if s.get mcStatState p = 4 then 5 else s.get mcStatState p)) ∧
  (∀ (s : State) (p : Fin 128), s.sound = true → s.ordered = true → s.get mcStatState p = 5 →
    ∃ t, exec (.selfRefreshExitDone p) s = .next t ∧ t = { s with regs := t.regs, ctls := t.ctls } ∧
      t.get mcStatState p = 2 ∧
      t.ctl p = { s.ctl p with queue := (s.ctl p).queue ++ (s.ctl p).held, held := [], entry := false } ∧
      (∀ j, j ≠ p.val → t.ctl j = s.ctl j) ∧ s.regsKept t (fun k => k = mcStat.key p 0 || k = mcOcc.key p 0)) ∧
  (∀ (s : State) (w : Who), s.sound = true → s.ordered = true → s.lets w (memCmd.key 0 0) →
    ∃ t, exec (.towerInit w) s = .next t ∧
      t = { s with regs := t.regs, ctls := t.ctls, mem := t.mem, marks := t.marks, lines := t.lines, trainArmed := 0 } ∧
      (∀ p, p < 128 → t.get mcStatState p = 1 ∧ (t.ctl p).queue = [] ∧ (t.ctl p).rows = [] ∧
        (t.ctl p).held = (s.ctl p).queue ++ (s.ctl p).held) ∧
      (∀ h, h < 4 → t.get memTempTrained h = 0) ∧
      (∀ a, a < dramEnd → t.byte a = 0 ∧ t.mark a = .unwritten) ∧
      (∀ a, dramEnd ≤ a → t.byte a = s.byte a ∧ t.mark a = s.mark a)) ∧
  (∀ (s : State) (h : Fin 4), s.sound = true →
    ∃ t, exec (.memPllLock h) s = .next t ∧ s.onlyRegs t (fun k => k = memStat.key 0 0) ∧
      ∀ i, i < 4 → bit (t.get memStatPll) i = (bit (s.get memStatPll) i || decide (i = h.val)))

/-- R252 to R254, R256: training and page retirement. An operation starts on a pseudo-channel in the state it asks for, and
is refused in another; its end records what it measured, a window narrower than 24 delays sets FAIL with source 404, and
APPLY puts every lane at the middle of its window; DONE makes a training pseudo-channel READY, TRAIN takes a READY one back,
and each is refused elsewhere; a tower that has moved by 10 °C raises its source once. A granule is retired to the first free
spare of its bank, with its data or without them, and source 406; one that is retired already, one without a spare left, a
full list and one that does not exist answer with their codes. -/
def Obligations.TrainingAndRetirement : Prop :=
  (∀ (s : State) (w : Who) (live : Bool) (c : Instr) (op : Nat), s.sound = true → s.lets w (memtrCmd.key 0 0) →
    (c, op) ∈ [(Instr.memtrPatw w live, 1), (.memtrPatr w live, 2), (.memtrSweepr w live, 3), (.memtrSweepw w live, 4),
      (.memtrApply w live, 5)] →
    (s.on memtrStatBusy = true → exec c s = .next s) ∧
    (s.on memtrStatBusy = false → s.get mcStatState (s.get memtrSelPc) = (if live then 2 else 1) →
      ∃ t, exec c s = .next t ∧ t.on memtrStatBusy = true ∧
        State.onlyRegs { s with training := some (8 * s.get memtrSelPc + op) } t (fun k => k = memtrStat.key 0 0)) ∧
    (s.on memtrStatBusy = false → s.get mcStatState (s.get memtrSelPc) ≠ (if live then 2 else 1) →
      ∃ t, exec c s = .next t ∧ s.refused t w (memtrCmd.key 0 0))) ∧
  (∀ (s : State) (w : Who), s.sound = true → s.ordered = true → s.lets w (memtrCmd.key 0 0) → s.on memtrStatBusy = false →
    let p := s.get memtrSelPc
    let recorded := fun (t : State) => t.get memTempTrained (p / 32) = s.get memTempNow (p / 32) ∧
      t.trainArmed = s.trainArmed ||| (1#4 <<< (p / 32))
    (s.get mcStatState p = 0 → ∃ t, exec (.memtrDone w) s = .next t ∧ s.refused t w (memtrCmd.key 0 0)) ∧
    (s.get mcStatState p = 1 → ∃ t, exec (.memtrDone w) s = .next t ∧
      t = { s with regs := t.regs, ctls := t.ctls, trainArmed := t.trainArmed } ∧ t.get mcStatState p = 2 ∧ recorded t ∧
      t.ctl p = { s.ctl p with queue := (s.ctl p).queue ++ (s.ctl p).held, held := [], entry := false } ∧
      (∀ j, j ≠ p → t.ctl j = s.ctl j) ∧
      s.regsKept t (fun k => k = mcStat.key p 0 || k = mcOcc.key p 0 || k = memTemp.key (p / 32) 0)) ∧
    (s.get mcStatState p = 2 → ∃ t, exec (.memtrDone w) s = .next t ∧ recorded t ∧
      State.onlyRegs { s with trainArmed := t.trainArmed } t (fun k => k = memTemp.key (p / 32) 0)) ∧
    (3 ≤ s.get mcStatState p → exec (.memtrDone w) s = .next s) ∧
    (s.get mcStatState p = 2 → ∃ t, exec (.memtrTrain w) s = .next t ∧ t.get mcStatState p = 1 ∧
      s.onlyRegs t (fun k => k = mcStat.key p 0)) ∧
    (s.get mcStatState p ≠ 2 → ∃ t, exec (.memtrTrain w) s = .next t ∧ s.refused t w (memtrCmd.key 0 0))) ∧
  (∀ (s : State) (res : TrainResult) (p op : Nat), s.sound = true → s.ordered = true → op < 8 →
    s.training = some (8 * p + op) →
    ∃ t : State, exec (.memtrOpDone res) s = .next t ∧ t.training = none ∧ t.on memtrStatBusy = false ∧
      (op = 0 ∨ op = 1 ∨ op = 6 ∨ op = 7 →
        State.onlyRegs { s with training := none } t (fun k => k = memtrStat.key 0 0)) ∧
      (op = 2 → t.get memtrCmpLanes = res.failed.toNat ∧
        State.onlyRegs { s with training := none } t (fun k => k = memtrStat.key 0 0 || k = memtrCmp.key 0 0)) ∧
      (op = 3 ∨ op = 4 →
        (∀ k, k < 36 → match nth res.windows k none with
          | some (l, r) => t.on memtrWinValid (op - 3) k = true ∧ t.get memtrWinLeft (op - 3) k = l.toNat ∧
              t.get memtrWinRight (op - 3) k = r.toNat
          | none => t.on memtrWinValid (op - 3) k = false) ∧
        State.onlyEvents { s with training := none } t
          (fun x => x = memtrStat.key 0 0 || (List.range 36).any fun k => x = memtrWin.key (op - 3) k) ∧
        (s.power.inReset = false → (∃ k, k < 36 ∧ ∀ l r, nth res.windows k none = some (l, r) → r.toNat + 1 < l.toNat + 24) →
          t.on memtrStatFail = true ∧ t.evtOn 404 = true)) ∧
      (op = 5 → State.onlyRegs { s with training := none, delays := t.delays } t (fun k => k = memtrStat.key 0 0) ∧
        ∀ dir k, dir < 2 → k < 36 → t.delay p dir k = (s.get memtrWinLeft dir k + s.get memtrWinRight dir k) / 2)) ∧
  (∀ (s : State) (res : TrainResult), s.training = none → exec (.memtrOpDone res) s = .next s) ∧
  (∀ (s : State) (h : Fin 4) (temp : Byte), s.sound = true → s.power.inReset = false →
    let far := 10 ≤ (temp.toInt - s.getInt memTempTrained h).natAbs
    ∃ t, exec (.memRetrain h temp) s = .next t ∧ t.getInt memTempNow h = temp.toInt ∧
      (bit s.trainArmed.toNat h = true → far → t.evtOn (400 + h) = true ∧
        State.onlyEvents { s with trainArmed := s.trainArmed &&& ~~~(1#4 <<< h.val) } t (fun k => k = memTemp.key h 0)) ∧
      (bit s.trainArmed.toNat h = false ∨ ¬ far → s.onlyRegs t (fun k => k = memTemp.key h 0))) ∧
  (∀ (s : State) (w : Who) (p : Fin 128) (g : BitVec 20) (noCopy : Bool), s.sound = true → s.ordered = true →
    s.lets w (mcRetcmd.key p 0) →
    (s.on mcRetstatBusy p = false → ∃ t, exec (.pageRetire w p g noCopy) s = .next t ∧
      t = { s with regs := t.regs, ctls := t.ctls } ∧ t.on mcRetstatBusy p = true ∧
      t.ctl p = { s.ctl p with copy := some (g.toNat, 0, noCopy) } ∧ (∀ j, j ≠ p.val → t.ctl j = s.ctl j) ∧
      s.regsKept t (fun k => k = mcRetstat.key p 0 || k = mcOcc.key p 0)) ∧
    (s.on mcRetstatBusy p = true →
      ∃ t, exec (.pageRetire w p g noCopy) s = .next t ∧ s.refused t w (mcRetcmd.key p 0))) ∧
  (∀ (s : State) (p : Fin 128) (g n : Nat) (noCopy : Bool), s.sound = true → s.ordered = true → s.power.inReset = false →
    (s.ctl p).copy = some (g, n, noCopy) →
    let used := (List.range 64).filter fun e => s.on mcRetValid p e
    let taken := fun (x : Nat) => ∃ e ∈ used, s.get mcRetG p e % 48 = g % 48 ∧ s.get mcRetSpare p e = x
    let known := ∃ e, e < 64 ∧ s.on mcRetValid p e = true ∧ s.get mcRetG p e = g
    let a := granuleAddr p g
    let e := used.length
    ∃ t : State, exec (.pageRetireDone p) s = .next t ∧ t.ctl p = { s.ctl p with copy := none } ∧
      (∀ j, j ≠ p.val → t.ctl j = s.ctl j) ∧ t.on mcRetstatBusy p = false ∧ t.evtOn 406 = true ∧
      (589823 < g → t.get mcRetstatResult p = 3 ∧ t.mem = s.mem) ∧
      (g ≤ 589823 → known → t.get mcRetstatResult p = 0 ∧ t.mem = s.mem) ∧
      (g ≤ 589823 → ¬ known → e = 64 → t.get mcRetstatResult p = 2 ∧ t.mem = s.mem) ∧
      (g ≤ 589823 → ¬ known → e < 64 → taken 0 → taken 1 → t.get mcRetstatResult p = 1 ∧ t.mem = s.mem) ∧
      (g ≤ 589823 → ¬ known → e < 64 → ¬ (taken 0 ∧ taken 1) → t.get mcRetstatResult p = 0 ∧
        t.on mcRetValid p e = true ∧ t.get mcRetG p e = g ∧ t.get mcRetstatCount p = e + 1 ∧
        (t.get mcRetSpare p e = 0 ↔ ¬ taken 0) ∧ (∀ b, (b < a ∨ a + 2048 ≤ b) → t.byte b = s.byte b ∧ t.mark b = s.mark b) ∧
        (noCopy = true → ∀ b, a ≤ b → b < a + 2048 → t.byte b = 0 ∧ t.mark b = .unwritten) ∧
        (noCopy = false → t.mem = s.mem)))

/-! ## Integrity (R259, R264, R269, R272, R273, R275) -/

/-- R259, R264, R269, R272: corrections, scrubbing and logs. A corrected word that still waits is written back clean, and one
that a write has overtaken stays as written; a scrub unit reads its next written word, queues a correctable one for
write-back and makes an uncorrectable one carry POISON, logged once with the scrubber bit, and at the end of a lap records
LAST, MIN and MAX and begins again; a slow lap is reported once; REARM and CLR clear what they name. Corners of scrubbing are the
model's readings (log entry 61). -/
def Obligations.MemoriesAreKept : Prop :=
  (∀ (s : State) (a : BitVec 48), s.sound = true →
    let w := (s.behind a.toNat).getD a.toNat / 8 * 8
    (w ∉ s.corrections → exec (.correctionWriteback a) s = .next s) ∧
    (w ∈ s.corrections →
      ∃ t, exec (.correctionWriteback a) s = .next t ∧
        t = { s with marks := t.marks, lines := t.lines, corrections := s.corrections.filter (fun x => x ≠ w) } ∧
        (s.mark w ≠ .correctable → t.marks = s.marks ∧ t.lines = s.lines) ∧
        (s.mark w = .correctable → memKind w ≠ .host → t.mark w = .clean) ∧
        ∀ b, b / 8 ≠ w / 8 → t.mark b = s.mark b)) ∧
  (∀ (s : State) (u : Fin 238), s.on scrubCtrlEn u = false → exec (.scrubWord u) s = .next s) ∧
  (∀ (s : State) (u : Fin 238) (w : Nat), s.sound = true → s.ordered = true → s.on scrubCtrlEn u = true →
    s.nextScrub u (s.scrub u).word = some w →
    let l := memLevel (memKind (8 * w))
    ∃ t : State, exec (.scrubWord u) s = .next t ∧ t.scrub u = { s.scrub u with word := w + 1 } ∧
      (∀ v, v ≠ u.val → t.scrub v = s.scrub v) ∧ t.mem = s.mem ∧ (∀ b, b / 8 ≠ w → t.mark b = s.mark b) ∧
      (s.mark (8 * w) = .clean ∨ s.mark (8 * w) = .poison ∨ s.mark (8 * w) = .unwritten → t = { s with scrubs := t.scrubs }) ∧
      (s.mark (8 * w) = .correctable → t.corrections = insertKey s.corrections (8 * w) ∧ t.marks = s.marks ∧
        t.get intCecntCount l = min (s.get intCecntCount l + 1) (2 ^ 32 - 1) ∧ t.on intFirstValid l = true) ∧
      (s.mark (8 * w) = .uncorrectable → t.corrections = s.corrections ∧
        (memKind (8 * w) ≠ .host → t.mark (8 * w) = .poison) ∧ t.on intFirstValid l = true ∧
        ((∀ e, e < 256 → s.logs.at (256 * l + e) none = none) →
          ∃ x, t.logs.at (256 * l) none = some x ∧ x.loc = s.locOf (8 * w) ∧ x.kind = 2 ∧ x.scrub = true ∧ x.count = 1))) ∧
  (∀ (s : State) (u : Fin 238), s.sound = true → s.ordered = true → s.on scrubCtrlEn u = true →
    s.nextScrub u (s.scrub u).word = none →
    let ms := min (2 ^ 32 - 1) ((s.cycle - (s.scrub u).since) / 1250000)
    ∃ t, exec (.scrubWord u) s = .next t ∧ State.onlyRegs { s with scrubs := t.scrubs } t
        (fun k => (List.range 3).any fun j => k = scrubLap.key u j) ∧
      t.scrub u = { s.scrub u with word := 0, since := s.cycle, slow := false } ∧ (∀ v, v ≠ u.val → t.scrub v = s.scrub v) ∧
      t.get scrubLapMs u 0 = ms ∧ t.get scrubLapMs u 1 = min (s.get scrubLapMs u 1) ms ∧
      t.get scrubLapMs u 2 = max (s.get scrubLapMs u 2) ms) ∧
  (∀ (s : State) (u : Fin 238), s.sound = true → s.ordered = true →
    (s.get scrubCtrlLimit u = 0 ∨ (s.scrub u).slow = true → exec (.scrubSlow u) s = .next s) ∧
    (s.get scrubCtrlLimit u ≠ 0 → (s.scrub u).slow = false →
      ∃ t, exec (.scrubSlow u) s = .next t ∧ t.scrub u = { s.scrub u with slow := true } ∧
        (∀ v, v ≠ u.val → t.scrub v = s.scrub v) ∧ t.on intChiperrScrubSlow = true ∧
        (s.power.inReset = false → t.evtOn 432 = true) ∧
        State.onlyEvents { s with scrubs := t.scrubs } t (fun k => k = intChiperr.key 0 0))) ∧
  (∀ (s : State) (w : Who) (n : Fin 8), s.sound = true → s.ordered = true →
    s.lets w (Sys2Proof.Machine.twin.key n 0) →
    ∃ t, exec (.twinRearm w n) s = .next t ∧
      State.onlyRegs { s with twins := t.twins } t (fun k => k = Sys2Proof.Machine.twin.key n 0) ∧ t.twins.at n {} = {} ∧
      (∀ m, m ≠ n.val → t.twins.at m {} = s.twins.at m {}) ∧
      t.on twinHard n = false ∧ t.get twinLane n = 0 ∧ t.get twinMismatch n = s.get twinMismatch n ∧
      t.get twinHardLane n = s.get twinHardLane n) ∧
  (∀ (s : State) (w : Who) (l : Fin 4), s.sound = true → s.lets w (intLogCmd.key l 0) →
    ∃ t, exec (.logClr w l) s = .next t ∧ State.onlyRegs { s with logs := t.logs } t (fun k => k = intLogStat.key l 0) ∧
      (∀ e, e < 256 → t.logs.at (256 * l + e) none = none) ∧ t.get intLogStatCount l = 0 ∧ t.get intLogStatOvf l = 0 ∧
      ∀ (m : Fin 4) e, m ≠ l → e < 256 → t.logs.at (256 * m + e) none = s.logs.at (256 * m + e) none)

/-- R273, R275: spares and keys. A bank of a memory with a spare is retired when ticking is stopped, its block stands idle or
its port is DARK, and is refused otherwise; the copy leaves corrected words clean and uncorrectable ones poisoned and takes
the one spare, answers NOSPARE without one, and RANGE for a bank that does not exist. A key load by function 0, or into a
slot of its tenancy, puts the staged key into the slot and counts it, an erase empties the slot, and both clear the
staged key; any other is refused, and with the fuse off every one is. What an erase keeps is the model's reading (log
entry 62). -/
def Obligations.SparesAndKeys : Prop :=
  (∀ (s : State) (w : Who) (u : Fin 238) (bank : BitVec 9), s.sound = true → s.ordered = true →
    s.lets w (sretCmd.key u 0) →
    let spare := u.val < 52 ∨ (100 ≤ u.val ∧ u.val ≤ 108)
    let ready := (u.val < 4 ∨ u.val = 108 → s.on tickCtrlRun = false) ∧
      (4 ≤ u.val → u.val < 52 → (s.seq (u.val - 4)).st.idle = true) ∧
      (100 ≤ u.val → u.val < 108 → s.pstate (u.val - 100) = 0)
    (¬ spare → exec (.sramBankRetire w u bank) s = .next s) ∧
    (spare → s.on sretStatBusy u = true ∨ ¬ ready →
      ∃ t, exec (.sramBankRetire w u bank) s = .next t ∧ s.refused t w (sretCmd.key u 0)) ∧
    (spare → s.on sretStatBusy u = false → ready →
      ∃ t, exec (.sramBankRetire w u bank) s = .next t ∧
        State.onlyRegs { s with scrubs := t.scrubs } t (fun k => k = sretStat.key u 0) ∧ t.on sretStatBusy u = true ∧
        t.scrub u = { s.scrub u with copy := some bank.toNat } ∧ ∀ v, v ≠ u.val → t.scrub v = s.scrub v)) ∧
  (∀ (s : State) (u : Fin 238) (bank : Nat), s.sound = true → s.ordered = true → (s.scrub u).copy = some bank →
    (u.val < 52 ∨ (100 ≤ u.val ∧ u.val ≤ 108)) →
    let banks := if u.val < 4 then 512 else if u.val < 52 then 32 else if u.val < 108 then 24 else 64
    ∃ t, exec (.sramBankRetireDone u) s = .next t ∧ t.scrub u = { s.scrub u with copy := none } ∧
      (∀ v, v ≠ u.val → t.scrub v = s.scrub v) ∧ t.on sretStatBusy u = false ∧
      State.onlyRegs { s with scrubs := t.scrubs, marks := t.marks } t
        (fun k => k = sretStat.key u 0 || k = sretUsed.key u 0) ∧
      (banks ≤ bank → t.get sretStatResult u = 3 ∧ t.marks = s.marks ∧ t.get sretUsedUsed u = s.get sretUsedUsed u) ∧
      (bank < banks → s.on sretUsedUsed u = true → t.get sretStatResult u = 1 ∧ t.marks = s.marks ∧
        t.on sretUsedUsed u = true) ∧
      (bank < banks → s.on sretUsedUsed u = false → t.get sretStatResult u = 0 ∧ t.get sretStatBank u = bank ∧
        t.on sretUsedUsed u = true ∧
        ∀ a, t.mark a = (if scrubUnit (8 * (a / 8)) = some u.val ∧ sretBank u (a / 8) = bank then
            (match s.mark a with | .correctable => .clean | .uncorrectable => .poison | m => m)
          else s.mark a))) ∧
  (∀ (s : State) (u : Fin 238), (s.scrub u).copy = none → exec (.sramBankRetireDone u) s = .next s) ∧
  (∀ (s : State) (w : Who) (k : Fin 64) (long : Bool) (n : Fin 4), s.sound = true → s.ordered = true →
    s.reachable w (sealKeycmd.key 0 0) = true → s.admitted w (sealKeycmd.key 0 0) = true →
    let may := Config.sealFused = true ∧ (w.fn = 0 ∨ w.fn.val = s.get sealSlotTen k)
    (¬ may → (∃ t, exec (.keyLoad w k long n) s = .next t ∧ s.refused t w (sealKeycmd.key 0 0)) ∧
      ∃ t, exec (.keyErase w k) s = .next t ∧ s.refused t w (sealKeycmd.key 0 0)) ∧
    (may → ∃ t : State, exec (.keyLoad w k long n) s = .next t ∧
      State.onlyRegs { s with keys := t.keys, keyStage := [] } t (fun x => x = sealSlot.key k 0) ∧
      t.keys.at k none = some (s.stagedKey long) ∧ (∀ j, j ≠ k.val → t.keys.at j none = s.keys.at j none) ∧
      t.on sealSlotValid k = true ∧ t.on sealSlotLen k = long ∧
      t.get sealSlotTen k = (if w.fn = 0 then n.val else s.get sealSlotTen k) ∧
      t.get sealSlotLoads k = min (s.get sealSlotLoads k + 1) 65535) ∧
    (may → ∃ t : State, exec (.keyErase w k) s = .next t ∧
      State.onlyRegs { s with keys := t.keys, keyStage := [] } t (fun x => x = sealSlot.key k 0) ∧
      t.keys.at k none = none ∧ (∀ j, j ≠ k.val → t.keys.at j none = s.keys.at j none) ∧
      t.on sealSlotValid k = false ∧ t.get sealSlotTen k = s.get sealSlotTen k ∧
      t.get sealSlotLoads k = s.get sealSlotLoads k))

/-! ## Egress (R262, R276 to R302) -/

/-- R262, R278, R281 to R283, R286, R287, R289 to R294, R296: contexts, staging and the Sluice. A context takes what is
written once its byte 15 is written; a product whose flow passes the checks is queued on its port, numbered with the flow's
SEQ, which goes up by one; one that fails a check is recorded with its code, and one whose flow is disabled is discarded and
counted. A packet whose time has come leaves a port that is UP, stamped, sealed and marked, with its stamp kept where it asks
for one; of two of one tenancy the higher class goes first; one whose payload fails its check is withheld, a watch packet
formed again first; a port that is not UP discards. The bytes shown of a frame and the prefix of a RAW packet follow
log entries 63 and 123. -/
def Obligations.ProductsLeave : Prop :=
  (∀ (s : State) (w : Who) (f : BitVec 18) (a : Fin 16) (d : List Byte), s.sound = true → s.ordered = true →
    s.power.inReset = false →
    let staged := fun (t : State) i => (nth (t.flowStage.at f.toNat (List.replicate 16 none)) i none).map (·.1)
    let st := fun i => if a.val ≤ i ∧ i < a.val + d.length then some (nth d (i - a.val) 0) else staged s i
    (s.owns w.fn (flowAddr f.toNat + a) = false →
      ∃ t, exec (.flowContextWrite w f a d) s = .next t ∧ s.refused t w (flowAddr f.toNat + a)) ∧
    (s.owns w.fn (flowAddr f.toNat + a) = true →
      ∃ t : State, exec (.flowContextWrite w f a d) s = .next t ∧
        t = { s with mem := t.mem, marks := t.marks, lines := t.lines, flowStage := t.flowStage } ∧
        (∀ g, g ≠ f.toNat → t.flowStage.at g (List.replicate 16 none) = s.flowStage.at g (List.replicate 16 none)) ∧
        (a.val + d.length < 16 → t.mem = s.mem ∧ t.marks = s.marks ∧ ∀ i, i < 16 → staged t i = st i) ∧
        (16 ≤ a.val + d.length → s.onlyBytes t (flowAddr f.toNat) 16 ∧ (∀ i, staged t i = none) ∧
          ∀ i, i < 16 → t.byte (flowAddr f.toNat + i) = (st i).getD (s.byte (flowAddr f.toNat + i))))) ∧
  (∀ s : State, s.prods = [] → exec .productStage s = .next s) ∧
  (∀ (s : State) (p : Product) (rest : List Product), s.sound = true → s.ordered = true → s.prods = p :: rest →
    let ctx := s.flowCtx p.flow
    let f := parseFlow ctx
    let tmpl := s.bytes (tmplAddr f.tmpl) 128
    ((∃ w ∈ touched (flowAddr p.flow) 16, s.mark (8 * w.1) ∈ [Mark.poison, .unwritten, .uncorrectable]) →
      ∃ t : State, exec .productStage s = .next t ∧ t.prods = rest ∧ t.egress = s.egress ∧ t.mem = s.mem ∧
        t.get egrCntCount 2 = min (s.get egrCntCount 2 + 1) (2 ^ 32 - 1)) ∧
    (s.cleanRange (flowAddr p.flow) 16 → f.en = false →
      ∃ t, exec .productStage s = .next t ∧ State.onlyRegs { s with prods := rest } t (fun k => k = egrCnt.key 2 0) ∧
        t.get egrCntCount 2 = min (s.get egrCntCount 2 + 1) (2 ^ 32 - 1)) ∧
    (s.cleanRange (flowAddr p.flow) 16 → f.en = true → s.cleanRange (tmplAddr f.tmpl) 128 →
      (∀ c, s.stageFault p f (parseTemplate tmpl) = some c →
        ∃ t, exec .productStage s = .next t ∧ t.get egrCntCount 0 = min (s.get egrCntCount 0 + 1) (2 ^ 32 - 1) ∧
          t.on egrStatusFlowFault = true ∧ (s.power.inReset = false → t.evtOn 152 = true) ∧
          State.onlyEvents { s with prods := rest } t
            (fun k => k = egrCnt.key 0 0 || k = egrStatus.key 0 0 || k = egrFault.key 0 0) ∧ t.on egrFaultValid = true ∧
          (s.on egrFaultValid = true → t.reg egrFault 0 0 = s.reg egrFault 0 0) ∧
          (s.on egrFaultValid = false → t.get egrFaultCode = c ∧ t.get egrFaultFlow = p.flow % 2 ^ 18)) ∧
      (s.stageFault p f (parseTemplate tmpl) = none →
        let port := if f.port = 2 then (if s.egrUp 0 then 0 else 1) else f.port
        ∃ t, exec .productStage s = .next t ∧
          t = { s with prods := rest, egress := t.egress, mem := t.mem, marks := t.marks, lines := t.lines,
                       stagedNo := s.stagedNo + 1 } ∧
          t.egr port = { s.egr port with queue := (s.egr port).queue ++
            [⟨p, ctx, tmpl, f.seq, s.stagedNo, p.launch f, BitVec.ofNat 32 (crc32c (p.sent f)), s.arbQos 30 f.qos f.ten⟩] } ∧
          t.egr (1 - port) = s.egr (1 - port) ∧ s.onlyBytes t (flowAddr p.flow) 4 ∧
          leVal (t.bytes (flowAddr p.flow) 4) = (f.seq + 1) % 2 ^ 32))) ∧
  (∀ (s : State) (p : Fin 2) (q : Queued) (c : Instr), s.sound = true → s.ordered = true →
    ((c = .sluiceSelect p) ∨ (c = .packetEligible p ∧ (s.egr p).busy = false)) → s.egrUp p = true →
    (s.egr p).queue = [q] → (∀ x ∈ (s.egr (1 - p.val)).queue, x.prod.flow ≠ q.prod.flow) →
    (0 ≤ (s.egr p).bucket ∨ qosClass q.qos = 0) → q.bad = false →
    let f := parseFlow q.ctx
    let watch := q.prod.type = 0x20
    (match f.launch with
      | 0 => True
      | 2 => ∀ x, s.flowStart.at q.prod.flow none = some x → x + f.offset ≤ s.nowNs
      | 1 => ∃ x, q.launch = some x ∧ x ≤ s.nowNs
      | _ => ∀ x, q.launch = some x → x ≤ s.nowNs) →
    let late := ∃ x, q.timed = some x ∧ x + s.get egrCfgLatetol < s.nowNs
    let wlate := watch ∧ s.watchLate q = true
    let flags := if f.raw = false ∧ ((watch ∧ wlate) ∨ (¬ watch ∧ late)) then q.prod.flags ||| 16 else q.prod.flags
    let ask := f.tsreq = true ∨ ∃ pre, q.prod.head f = some pre ∧ bit (nth pre 2 0).toNat 0 = true
    ∃ t, exec c s = .next t ∧
      t = { s with regs := t.regs, egress := t.egress, sent := t.sent, flowStart := t.flowStart, used := t.used,
                   notes := t.notes, msiPend := t.msiPend, msiSent := t.msiSent } ∧
      s.regsKept t (fun k => eventReg k || k = egrpCnt.key p 0 || k = egrpCnt.key p 2 || k = egrpStatus.key p 0 ||
        k = egrpTsqPeak.key p 0 || k = egrpTsqLost.key p 0 || k = egrCnt.key 1 0 || k = egrStatus.key 0 0 ||
        k = egrSealfault.key 0 0 || k = tickStatus.key 0 0) ∧
      (t.egr p).queue = [] ∧ (t.egr p).busy = true ∧ (t.egr p).since = s.cycle ∧ (t.egr p).rx = (s.egr p).rx ∧
      t.egr (1 - p.val) = s.egr (1 - p.val) ∧
      (t.egr p).bucket = min 18915328 ((s.egr p).bucket + ((s.cycle - (s.egr p).since) * 40 * max 1 (s.get egrpCtrlCap p) : Nat))
        - (s.wireBytes p q * 1024 : Nat) ∧
      t.sent = s.sent ++ [⟨p, s.nowNs, s.frameBytes p q flags (s.nowNs + 180)⟩] ∧
      t.flowStart.at q.prod.flow none = some s.nowNs ∧
      t.get egrpCntCount p 0 = min (s.get egrpCntCount p 0 + 1) (2 ^ 32 - 1) ∧
      (late → t.get egrpCntCount p 2 = min (s.get egrpCntCount p 2 + 1) (2 ^ 32 - 1) ∧ t.on egrpStatusLate p = true) ∧
      (wlate → t.on tickStatusWatchLate = true ∧ (s.power.inReset = false → t.evtOn 131 = true)) ∧
      (f.sealed = true → f.raw = false → ∀ x, s.sealFault f = some x →
        t.get egrCntCount 1 = min (s.get egrCntCount 1 + 1) (2 ^ 32 - 1) ∧ t.on egrStatusSealFault = true ∧
        (s.on egrSealfaultValid = false → t.get egrSealfaultCause = x ∧ t.get egrSealfaultFlow = q.prod.flow % 2 ^ 18)) ∧
      (¬ ask → (t.egr p).stamps = (s.egr p).stamps) ∧
      (ask → 64 ≤ (s.egr p).stamps.length → (t.egr p).stamps = (s.egr p).stamps ∧ t.on egrpStatusTsqLost p = true ∧
        t.get egrpTsqLostCount p = min (s.get egrpTsqLostCount p + 1) (2 ^ 32 - 1)) ∧
      (ask → (s.egr p).stamps.length < 64 → (t.egr p).stamps = (s.egr p).stamps ++
        [⟨BitVec.ofNat 64 (nsStamp (s.nowNs + 180)), q.prod.flow,
          match q.prod.head f with | some pre => leVal (slice pre 0 2) | none => q.seq % 65536⟩])) ∧
  (∀ (s : State) (p : Fin 2) (x y : Queued), s.sound = true → s.ordered = true → s.egrUp p = true →
    ((s.egr p).queue = [x, y] ∨ (s.egr p).queue = [y, x]) → (s.egr (1 - p.val)).queue = [] → 0 ≤ (s.egr p).bucket →
    x.bad = false → x.prod.flow ≠ y.prod.flow → (parseFlow x.ctx).launch = 0 → (parseFlow y.ctx).launch = 0 →
    (parseFlow x.ctx).ten = (parseFlow y.ctx).ten → (parseFlow x.ctx).sealed = false → x.prod.type ≠ 0x20 → y.qos < x.qos →
    (qosClass x.qos < qosClass y.qos ∨ (qosClass x.qos = qosClass y.qos ∧ x.qos < 15)) →
    ∃ t, exec (.sluiceSelect p) s = .next t ∧ (t.egr p).queue = [y] ∧
      t.sent = s.sent ++ [⟨p, s.nowNs, s.frameBytes p x x.prod.flags (s.nowNs + 180)⟩]) ∧
  (∀ (s : State) (p : Fin 2) (q : Queued), s.sound = true → s.ordered = true → (s.egr p).queue = [q] → q.bad = true →
    (∀ x ∈ (s.egr (1 - p.val)).queue, x.prod.flow ≠ q.prod.flow) → (parseFlow q.ctx).launch = 0 →
    (0 ≤ (s.egr p).bucket ∨ qosClass q.qos = 0) → s.egrUp p = true →
    ∃ t, exec (.sluiceSelect p) s = .next t ∧ (t.egr p).queue = [] ∧ t.on intFirstValid 3 = true ∧
      (q.prod.kept = none → t.sent = s.sent ∧ (t.egr p).busy = false ∧ t.on intChiperrEgrWithheld = true ∧
        (s.power.inReset = false → t.evtOn 431 = true)) ∧
      (∀ x, q.prod.kept = some x → ∃ b, t.sent = s.sent ++ [⟨p, s.nowNs, b⟩] ∧ (t.egr p).busy = true)) ∧
  (∀ (s : State) (p : Fin 2) (q : Queued), s.sound = true → s.ordered = true → (s.egr p).queue = [q] →
    (∀ x ∈ (s.egr (1 - p.val)).queue, x.prod.flow ≠ q.prod.flow) → (parseFlow q.ctx).launch = 0 → s.egrUp p = false →
    ∃ t, exec (.sluiceSelect p) s = .next t ∧ State.onlyRegs { s with egress := t.egress } t
        (fun k => k = egrpCnt.key p 1) ∧
      (t.egr p).queue = [] ∧ (t.egr p).busy = false ∧ t.egr (1 - p.val) = s.egr (1 - p.val) ∧
      t.get egrpCntCount p 1 = min (s.get egrpCntCount p 1 + 1) (2 ^ 32 - 1)) ∧
  (∀ (s : State) (p : Fin 2), (s.egr p).busy = true → exec (.packetEligible p) s = .next s) ∧
  (∀ (s : State) (p : Fin 2) (c : Instr), s.ordered = true → (s.egr p).queue = [] →
    ((c = .sluiceSelect p) ∨ (c = .packetEligible p ∧ (s.egr p).busy = false)) →
    ∃ t, exec c s = .next t ∧ t = { s with egress := t.egress } ∧ t.egr (1 - p.val) = s.egr (1 - p.val) ∧
      t.egr p = { s.egr p with
        busy := false, since := s.cycle,
        bucket := min 18915328
          ((s.egr p).bucket + ((s.cycle - (s.egr p).since) * 40 * max 1 (s.get egrpCtrlCap p) : Nat)) })

/-- R276 to R278, R297, R298, R301: what a port receives, its link, the time of day and the note queues. A PTP message to
the port joins its receive ring; a frame with a wrong FCS, a PAUSE frame, and every other one is dropped and counted in its
own counter; an enabled port whose link is good is UP, and a change of state sets LINK; POP frees the oldest entry and CLR
all; SETSEC waits for the next carry, which takes it, and without it a carry adds a second; DROP and CLR of a note queue
remove what they name. The FCS polynomial, the byte order of a receive entry and HEAD after CLR are the model's choices (log
entries 121 and 65). -/
def Obligations.ReceiveTimeAndNotes : Prop :=
  (∀ (s : State) (p : Fin 2) (frame : List Byte) (fcs : Word), s.sound = true → s.ordered = true →
    let good := fcs.toNat = ethernetFcs frame
    let pause := beVal (slice frame 12 2) = 0x8808
    let sized := 64 ≤ frame.length + 4 ∧ frame.length + 4 ≤ s.maxFrame
    let dest := beVal (slice frame 0 6)
    let mine := dest = s.get egrpMacAddr p ∨ dest ∈ ptpAddrs
    let counted := fun (j : Nat) => ∃ t, exec (.ethernetRxFrame p frame fcs) s = .next t ∧
      s.onlyRegs t (fun k => k = egrpCnt.key p j) ∧ t.get egrpCntCount p j = min (s.get egrpCntCount p j + 1) (2 ^ 32 - 1)
    (s.egrUp p = false → exec (.ethernetRxFrame p frame fcs) s = .next s) ∧
    (s.egrUp p = true → ¬ good → counted 4) ∧
    (s.egrUp p = true → good → sized → pause → counted 5) ∧
    (s.egrUp p = true → good →
      (¬ sized ∨ (¬ pause ∧ (ptpMessage frame = none ∨ ¬ mine ∨ 64 ≤ (s.egr p).rx.length))) → counted 3) ∧
    (∀ tr m, s.egrUp p = true → good → sized → ¬ pause → ptpMessage frame = some (tr, m) → mine → (s.egr p).rx.length < 64 →
      ∃ t, exec (.ethernetRxFrame p frame fcs) s = .next t ∧
        t.egr p = { s.egr p with rx := (s.egr p).rx ++ [rxEntry s.todStamp tr m] } ∧
        t.egr (1 - p.val) = s.egr (1 - p.val) ∧ t.on egrpStatusPtpRx p = true ∧
        (s.power.inReset = false → t.evtOn (145 + 5 * p) = true) ∧
        State.onlyEvents { s with egress := t.egress } t (fun k => k = egrpStatus.key p 0))) ∧
  (∀ (s : State) (p : Fin 2) (aligned fecLock lf rf : Bool), s.sound = true → s.ordered = true →
    let en := s.on egrpCtrlEnable p
    let st := if en = false then 0
      else if aligned && fecLock && !lf && !rf && !bit (s.get clkMonstatFail) (5 + p) then 2 else 1
    ∃ t : State, exec (.egressLinkChange p aligned fecLock lf rf) s = .next t ∧ t.get egrpStatState p = st ∧
      t.on egrpStatAligned p = aligned ∧ t.on egrpStatFecLock p = fecLock ∧ t.on egrpStatLf p = lf ∧ t.on egrpStatRf p = rf ∧
      t.egr p = { s.egr p with rfSent := en && lf } ∧ t.egr (1 - p.val) = s.egr (1 - p.val) ∧
      (st = s.get egrpStatState p → State.onlyRegs { s with egress := t.egress } t (fun k => k = egrpStat.key p 0)) ∧
      (st ≠ s.get egrpStatState p → t.on egrpStatusLink p = true ∧
        (s.power.inReset = false → t.evtOn (142 + 5 * p) = true) ∧
        State.onlyEvents { s with egress := t.egress } t (fun k => k = egrpStat.key p 0 || k = egrpStatus.key p 0))) ∧
  (∀ (s : State) (w : Who) (p : Fin 2) (c : Instr) (n : Nat), s.ordered = true → s.lets w (egrpPtprxCmd.key p 0) →
    ((c = .ptprxPop w p ∧ n = 1) ∨ (c = .ptprxClr w p ∧ n = 64)) →
    ∃ t, exec c s = .next t ∧ t = { s with egress := t.egress } ∧ t.egr (1 - p.val) = s.egr (1 - p.val) ∧
      t.egr p = { s.egr p with rx := (s.egr p).rx.drop n, rxHead := ((s.egr p).rxHead + min n (s.egr p).rx.length) % 64 }) ∧
  (∀ (s : State) (w : Who) (sec : BitVec 48), s.lets w (todSetsec.key 0 0) →
    exec (.todSetsec w sec) s = .next { s with tb := { s.tb with load := some sec.toNat } }) ∧
  (∀ s : State, s.power.inReset = true → exec .todSecondCarry s = .next s) ∧
  (∀ s : State, s.sound = true → s.ordered = true → s.power.inReset = false →
    ∃ (t : State) (n : Nat), exec .todSecondCarry s = .next t ∧ s.later t n ∧ 0 < n ∧ t.cycle % 4 = 0 ∧
      t.tb.acc < s.todStep + 3200000 ∧
      (s.tb.load = none → t.tb.sec = (s.tb.sec + 1) % 2 ^ 48 ∧ t.tb.load = none) ∧
      ∀ v, s.tb.load = some v → t.tb.sec = v ∧ t.tb.load = none ∧ t.evtOn 163 = true) ∧
  (∀ (s : State) (w : Who) (n : Fin 4), w.fn = n → s.reachable w (noteCmd.key n 0) = true →
    s.admitted w (noteCmd.key n 0) = true → s.ordered = true →
    (∃ t, exec (.noteDrop w n) s = .next t ∧ t = { s with notes := t.notes } ∧
      t.noteQ n = { s.noteQ n with opened := none } ∧ ∀ m : Fin 4, m ≠ n → t.noteQ m = s.noteQ m) ∧
    (∃ t, exec (.noteClr w n) s = .next t ∧ t = { s with notes := t.notes } ∧ (t.noteQ n).opened = none ∧
      (t.noteQ n).notes = [] ∧ ∀ m : Fin 4, m ≠ n → t.noteQ m = s.noteQ m))

/-! ## The timebase (R303 to R318) -/

/-- R305, R306, R309 to R313: references. A DISQUALIFIED reference whose second signal comes back begins to qualify, unless it
was convicted; one that loses a signal is DISQUALIFIED with CAUSE 1, a switch to it is abandoned, and the timebase that
followed it goes to the other reference that qualifies, or to HOLDOVER or LOST; the last clean gate of QTIME qualifies a
reference, a gate beyond ACCEPT begins the count anew, and one beyond REJECT disqualifies it with CAUSE 2; of two
references of equal rank that disagree, DISAGREE is set, and a third that qualifies convicts the farther one with
CAUSE 3; a wait that ends starts the switch, and a switch that is done makes its target the current reference. The activity
edge that begins to qualify is the model's reading (log entry 76). -/
def Obligations.ReferencesQualify : Prop :=
  (∀ (s : State) (x : Fin 2) (sg : RefSignal) (a : Bool), s.sound = true → s.ordered = true →
    let other := s.on (match sg with | .tenMHz => tbRefStatActPps | .pps => tbRefStatAct10m) x
    let mine := fun (t : State) => t.on (match sg with | .tenMHz => tbRefStatAct10m | .pps => tbRefStatActPps) x
    let q := s.get tbRefStatQstate x
    (s.power.inReset = true → exec (.refActivityChange x sg a) s = .next s) ∧
    (s.power.inReset = false →
      s.refActive x = (a && other) ∨ (a = true ∧ (q ≠ 0 ∨ (s.ref x).partner ≠ none)) ∨ (a = false ∧ q = 0) →
      ∃ t, exec (.refActivityChange x sg a) s = .next t ∧ s.onlyRegs t (fun k => k = tbRefStat.key x 0) ∧ mine t = a ∧
        t.refActive x = (a && other) ∧ t.get tbRefStatQstate x = q) ∧
    (s.power.inReset = false → s.refActive x = false → a = true → other = true → q = 0 → (s.ref x).partner = none →
      ∃ t, exec (.refActivityChange x sg a) s = .next t ∧ t.refActive x = true ∧ t.get tbRefStatQstate x = 1 ∧
        t.ref x = { s.ref x with gates := 0 } ∧ (∀ y, y ≠ x.val → t.ref y = s.ref y) ∧ t.on tbStatusQualChg = true ∧
        t.evtOn 171 = true ∧
        State.onlyEvents { s with refs := t.refs } t (fun k => k = tbRefStat.key x 0 || k = tbStatus.key 0 0)) ∧
    (s.power.inReset = false → s.refActive x = true → a = false → q ≠ 0 →
      ∃ t, exec (.refActivityChange x sg a) s = .next t ∧ s.timebaseOnly t ∧ t.refActive x = false ∧
        t.get tbRefStatQstate x = 0 ∧ t.get tbRefStatCause x = 1 ∧ t.on tbStatusQualChg = true ∧ t.evtOn 171 = true ∧
        (∀ p, s.tb.target = some (x.val, p) → t.on tbStatusSwAbandon = true ∧ t.evtOn 173 = true) ∧
        (s.get tbStateCur = x → s.tb.target = none → s.get tbCfgMan ≠ 3 →
          ((∀ y, y < 3 → y ≠ x.val → s.get tbRefStatQstate y ≠ 2) →
            t.get tbStateCur = 3 ∧ t.get tbStateState = if s.on tbStateHoldValid then 3 else 4) ∧
          (∀ y, y < 3 → y ≠ x.val → s.get tbRefStatQstate y = 2 → s.get tbRefCfgRank y ≠ 0 →
            (∀ z, z < 3 → z ≠ x.val → z ≠ y → s.get tbRefStatQstate z ≠ 2) →
            t.get tbStateCur = x ∧ t.on tbStateSwitching = true ∧ t.tb.target = some (y, s.pofsNow y))))) ∧
  (∀ (s : State) (f0 f1 : Word), s.power.inReset = true → exec (.frequencyGateEnd f0 f1) s = .next s) ∧
  (∀ (s : State) (x : Fin 2) (f0 f1 : Word), s.sound = true → s.ordered = true → s.power.inReset = false →
    (∀ y, y < 3 → y ≠ x.val → s.get tbRefCfgRank y ≠ s.get tbRefCfgRank x ∨ s.get tbRefCfgRank x = 0) →
    let f := if x = 0 then f0 else f1
    let q := s.get tbRefStatQstate x
    let far := s.get tbQualReject * 10000 < f.toInt.natAbs
    let near := f.toInt.natAbs ≤ s.get tbQualAccept * 10000
    ∃ t, exec (.frequencyGateEnd f0 f1) s = .next t ∧ s.timebaseOnly t ∧
      (s.refActive x = false → t.get tbRefFofsValue x = s.get tbRefFofsValue x ∧ t.get tbRefStatQstate x = q) ∧
      (s.refActive x = true → t.get tbRefFofsValue x = f.toNat ∧
        (q = 0 → (s.ref x).partner = none → t.get tbRefStatQstate x = 0) ∧
        (q ≠ 0 → far → t.get tbRefStatQstate x = 0 ∧ t.get tbRefStatCause x = 2 ∧ t.evtOn 171 = true) ∧
        (q = 2 → ¬ far → t.get tbRefStatQstate x = 2) ∧
        (q = 1 → ¬ far → ¬ near → t.get tbRefStatQstate x = 1 ∧ (t.ref x).gates = 0) ∧
        (q = 1 → ¬ far → near → s.qtime ≤ (s.ref x).gates + 1 →
          t.get tbRefStatQstate x = 2 ∧ t.on tbStatusQualChg = true ∧ t.evtOn 171 = true) ∧
        (q = 1 → ¬ far → near → (s.ref x).gates + 1 < s.qtime →
          t.get tbRefStatQstate x = 1 ∧ (t.ref x).gates = (s.ref x).gates + 1))) ∧
  (∀ (s : State) (f0 f1 : Word), s.sound = true → s.ordered = true → s.power.inReset = false →
    let f2 := s.getInt ptpsFofsValue
    s.refActive 0 = true → s.refActive 1 = true → s.get tbRefStatQstate 0 = 2 → s.get tbRefStatQstate 1 = 2 →
    s.get tbRefCfgRank 0 = s.get tbRefCfgRank 1 → s.get tbRefCfgRank 0 ≠ 0 →
    f0.toInt.natAbs ≤ s.get tbQualReject * 10000 → f1.toInt.natAbs ≤ s.get tbQualReject * 10000 →
    s.get tbPairPair * 10000 < (f0.toInt - f1.toInt).natAbs → (0, 1) ∉ s.tb.pairs →
    ∃ t, exec (.frequencyGateEnd f0 f1) s = .next t ∧ s.timebaseOnly t ∧ t.on tbStatusDisagree = true ∧ t.evtOn 170 = true ∧
      (s.get tbRefStatQstate 2 = 0 → s.refActive 2 = false →
        (0, 1) ∈ t.tb.pairs ∧ t.get tbRefStatQstate 0 = 2 ∧ t.get tbRefStatQstate 1 = 2) ∧
      (s.get tbRefStatQstate 2 = 2 → s.refActive 2 = true → f2.natAbs ≤ s.get tbQualReject * 10000 →
        s.get tbRefCfgRank 2 ≠ s.get tbRefCfgRank 0 →
        let loser := if (f1.toInt - f2).natAbs < (f0.toInt - f2).natAbs then 0 else 1
        t.get tbRefStatQstate loser = 0 ∧ t.get tbRefStatCause loser = 3 ∧ (t.ref loser).partner = some (1 - loser) ∧
          t.get tbRefStatQstate (1 - loser) = 2 ∧ (0, 1) ∉ t.tb.pairs)) ∧
  (∀ s : State, (s.on tbStateWtr = false ∨ s.tb.target ≠ none) → exec .wtrExpiry s = .next s) ∧
  (∀ s : State, s.sound = true → s.on tbStateWtr = true → s.tb.target = none →
    let x := s.get tbStateWtrRef
    ∃ t, exec .wtrExpiry s = .next t ∧
      State.onlyRegs { s with tb := { s.tb with target := some (x, s.pofsNow x), manWait := none } } t
        (fun k => k = tbState.key 0 0) ∧
      t.on tbStateSwitching = true ∧ t.on tbStateWtr = false ∧ t.get tbStateWtrLeft = 0 ∧
      t.get tbStateCur = s.get tbStateCur ∧ t.get tbStateState = s.get tbStateState) ∧
  (∀ s : State, s.tb.target = none → exec .referenceSwitchDone s = .next s) ∧
  (∀ (s : State) (x : Fin 3) (p : Int), s.sound = true → s.power.inReset = false → s.tb.target = some (x.val, p) →
    s.get tbRefStatQstate x = 2 →
    ∃ t, exec .referenceSwitchDone s = .next t ∧ s.timebaseOnly t ∧ t.get tbStateCur = x ∧ t.tb.held = p ∧
      t.tb.inRun = 0 ∧ t.tb.outRun = 0 ∧ t.on tbStatusSwitch = true ∧ t.evtOn 169 = true ∧
      ∀ y, s.tb.manWait = some y → y < 3 → y ≠ x.val → s.get tbRefStatQstate y = 2 →
        t.on tbStateSwitching = true ∧ t.tb.target = some (y, s.pofsNow y) ∧ t.tb.manWait = none)

/-- R303, R304, R307, R309, R314 to R316: the loop and the phase. A boundary of another reference than the current one
records its POFS; where the phase is to be stepped the current one's boundary becomes a second's beginning; the eighth in
limit takes LOCKING to LOCKED, the second out of four times the limit takes LOCKED to LOCKING; 68 s in LOCKED make TB.HOLD
valid, and HOLDMAX in HOLDOVER loses the timebase; MAN = 3 selects FREERUN, and another qualified reference in MAN is
switched to, or waits for the switch under way; TB.QUAL and TB.PSTEP take what their rules allow and refuse the rest; and a
phase step in hand ends at 0. What the loop steers to is a free value. R318: the PTP servo behind REFC. An enabled servo on
an UP port 0 takes a measurement that is neither stale nor out of order: it leaves OFF for LOCKING, and from LOCKING its
eighth within the limit locks it; a stale one changes nothing but PTPS_MEAS; without a measurement in time the servo goes to
HOLDOVER; EN = 0 returns it to OFF with its filter cleared. What the filter makes of a measurement is a free value. Counts
at a stepping boundary, when a switch starts and what a discarded measurement leaves are the model's readings (log
entries 77, 79, 80). -/
def Obligations.LoopHoldoverAndServo : Prop :=
  (∀ (s : State) (x : Fin 3) (o : Word), (s.power.inReset = true ∨ s.refActive x = false) →
    exec (.referenceBoundary x o) s = .next s) ∧
  (∀ (s : State) (x : Fin 3) (o : Word), s.sound = true → s.ordered = true → s.power.inReset = false → s.refActive x = true →
    let p := if x.val < 2 then clampInt (-2147483648) 2147483647 (o.toInt + s.getInt tbRefDelayPs x) else s.getInt tbRefPofsPs x
    let st := s.get tbStateState
    let lim := s.get tbLockLimit * 1000
    ((s.get tbStateCur ≠ x ∨ (st ≠ 1 ∧ st ≠ 2) ∨ s.tb.target ≠ none) →
      ∃ t, exec (.referenceBoundary x o) s = .next t ∧ State.onlyRegs { s with refs := t.refs } t (fun k => k = tbRefPofs.key x 0) ∧
        t.getInt tbRefPofsPs x = p ∧ t.ref x = { s.ref x with bound := s.cycle } ∧ ∀ y, y ≠ x.val → t.ref y = s.ref y) ∧
    (s.get tbStateCur = x → s.tb.target = none → (st = 1 ∨ st = 2) → s.tb.stepNext = false →
      let err := (p - s.tb.held).natAbs
      ∃ t, exec (.referenceBoundary x o) s = .next t ∧ s.timebaseOnly t ∧ t.getInt tbRefPofsPs x = p ∧
        (t.ref x).bound = s.cycle ∧ t.tb.held = s.tb.held ∧
        (st = 1 → lim < err → t.get tbStateState = 1 ∧ t.tb.inRun = 0) ∧
        (st = 1 → err ≤ lim → s.tb.inRun < 7 → t.get tbStateState = 1 ∧ t.tb.inRun = s.tb.inRun + 1) ∧
        (st = 1 → err ≤ lim → 7 ≤ s.tb.inRun →
          t.get tbStateState = 2 ∧ t.tb.wide = false ∧ t.on tbStatusStateChg = true ∧ t.evtOn 168 = true) ∧
        (st = 2 → err ≤ 4 * lim → t.get tbStateState = 2 ∧ t.tb.outRun = 0) ∧
        (st = 2 → 4 * lim < err → s.tb.outRun = 0 → t.get tbStateState = 2 ∧ t.tb.outRun = 1) ∧
        (st = 2 → 4 * lim < err → s.tb.outRun ≠ 0 →
          t.get tbStateState = 1 ∧ t.tb.wide = true ∧ t.on tbStatusStateChg = true ∧ t.evtOn 168 = true)) ∧
    (s.get tbStateCur = x → s.tb.target = none → st = 1 → s.tb.stepNext = true →
      ∃ t, exec (.referenceBoundary x o) s = .next t ∧ s.timebaseOnly t ∧ t.getInt tbRefPofsPs x = 0 ∧ t.tb.held = 0 ∧
        t.tb.stepNext = false ∧ (t.tb.acc : Int) = ((s.tb.acc : Int) - p * 1000000000000) % (secondUnits : Nat))) ∧
  (∀ (s : State) (m : Word), s.sound = true →
    (s.get tbStateState ≠ 2 → exec (.holdValid m) s = .next s) ∧
    (s.get tbStateState = 2 →
      ∃ t, exec (.holdValid m) s = .next t ∧ s.onlyRegs t (fun k => k = tbHold.key 0 0 || k = tbState.key 0 0) ∧
        t.get tbHoldValue = m.toNat ∧ t.on tbStateHoldValid = true ∧ t.get tbStateState = 2 ∧
        t.get tbStateCur = s.get tbStateCur)) ∧
  (∀ s : State, s.sound = true → s.power.inReset = false →
    ((s.get tbLockHoldmax = 0 ∨ s.get tbStateState ≠ 3) → exec (.holdmaxExpiry false) s = .next s) ∧
    ((s.get tbLockHoldmax = 0 ∨ s.get ptpsStateState ≠ 3) → exec (.holdmaxExpiry true) s = .next s) ∧
    (s.get tbLockHoldmax ≠ 0 → s.get tbStateState = 3 →
      ∃ t, exec (.holdmaxExpiry false) s = .next t ∧ s.onlyEvents t (fun k => k = tbState.key 0 0 || k = tbStatus.key 0 0) ∧
        t.get tbStateState = 4 ∧ t.get tbStateCur = s.get tbStateCur ∧ t.on tbStatusStateChg = true ∧ t.evtOn 168 = true) ∧
    (s.get tbLockHoldmax ≠ 0 → s.get ptpsStateState = 3 →
      ∃ t, exec (.holdmaxExpiry true) s = .next t ∧ s.timebaseOnly t ∧ t.get ptpsStateState = 4 ∧
        t.on tbStatusPtpsState = true ∧ t.evtOn 174 = true)) ∧
  (∀ (s : State) (w : Who) (v : Word), s.sound = true → s.lets w (tbCfg.key 0 0) →
    let m := bits v.toNat 17 16
    ∃ t, exec (.tbCfgWrite w v) s = .next t ∧ s.timebaseOnly t ∧ t.get tbCfgMan = m ∧ t.get tbCfgWtr = bits v.toNat 15 4 ∧
      t.get tbCfgBw = bits v.toNat 22 20 ∧ t.get tbCfgRevert = bits v.toNat 0 0 ∧
      (m = 3 → t.get tbStateState = 0 ∧ t.get tbStateCur = 3 ∧ t.on tbStateWtr = false ∧
        t.tb.target = none ∧ t.get tbFreqValue = s.get tbFreeOfsValue) ∧
      (m ≠ 3 → s.get tbRefStatQstate m = 2 → s.tb.target = none → s.get tbStateCur ≠ m → s.get tbStateCur ≠ 3 →
        t.on tbStateSwitching = true ∧ t.tb.target = some (m, s.pofsNow m)) ∧
      (m ≠ 3 → s.get tbRefStatQstate m = 2 → s.tb.target = none → s.get tbStateCur = 3 → s.get clkSrcDom % 8 = 0 →
        t.get tbStateCur = m ∧ t.get tbStateState = 1) ∧
      (∀ x p, m ≠ 3 → s.get tbRefStatQstate m = 2 → s.tb.target = some (x, p) → m ≠ x →
        t.tb.target = s.tb.target ∧ t.tb.manWait = some m)) ∧
  (∀ (s : State) (w : Who) (v : Word), s.sound = true → s.lets w (tbQual.key 0 0) →
    (bits v.toNat 15 0 < bits v.toNat 31 16 →
      ∃ t, exec (.tbQualWrite w v) s = .next t ∧ s.onlyRegs t (fun k => k = tbQual.key 0 0) ∧ t.reg tbQual 0 0 = v.toNat) ∧
    (bits v.toNat 31 16 ≤ bits v.toNat 15 0 →
      ∃ t, exec (.tbQualWrite w v) s = .next t ∧ s.refused t w (tbQual.key 0 0))) ∧
  (∀ (s : State) (w : Who) (v : Word), s.sound = true → s.lets w (tbPstep.key 0 0) →
    let rem := s.getInt tbPstepRemRem + v.toInt
    let u := s.tb.step + v.toInt * 1000000000000
    (-2147483648 ≤ rem → rem ≤ 2147483647 →
      ∃ t, exec (.tbPstepWrite w v) s = .next t ∧
        State.onlyEvents { s with tb := { s.tb with step := u } } t (fun k => k = tbPstepRem.key 0 0 || k = tbStatus.key 0 0) ∧
        t.get tbPstepRemRem = toBits 32 (stepPs u) ∧
        (u = 0 → s.tb.step ≠ 0 → t.on tbStatusPstepDone = true ∧ t.evtOn 172 = true)) ∧
    ((rem < -2147483648 ∨ 2147483647 < rem) →
      ∃ t, exec (.tbPstepWrite w v) s = .next t ∧ s.refused t w (tbPstep.key 0 0))) ∧
  (∀ s : State, (s.power.inReset = true ∨ s.tb.step = 0) → exec .pstepDone s = .next s) ∧
  (∀ s : State, s.sound = true → s.power.inReset = false → s.tb.step ≠ 0 →
    ∃ t, exec .pstepDone s = .next t ∧ s.later t (4 * ((s.tb.step.natAbs + 3199999) / 3200000)) ∧ t.tb.step = 0 ∧
      t.get tbPstepRemRem = 0 ∧ t.on tbStatusPstepDone = true ∧ t.evtOn 172 = true) ∧
  (∀ (s : State) (w : Who) (o : BitVec 64), s.lets w (ptpsOfs.key 0 0) →
    (s.on ptpsCfgEn = false ∨ s.egrUp 0 = false) → exec (.ptpMeasurement w o) s = .next s) ∧
  (∀ (s : State) (w : Who) (o : BitVec 64), s.sound = true → s.lets w (ptpsOfs.key 0 0) →
    s.on ptpsCfgEn = true → s.egrUp 0 = true →
    let t2 := stampNs (s.get ptpsT2Stamp)
    let fresh := (∀ p, s.tb.sLast = some p → p < t2) ∧ stampNs s.todStamp ≤ t2 + 1000000000
    let st := s.get ptpsStateState
    (¬ fresh → ∃ t, exec (.ptpMeasurement w o) s = .next t ∧ s.onlyEvents t (fun k => k = tbStatus.key 0 0) ∧
      t.on tbStatusPtpsMeas = true ∧ t.evtOn 175 = true) ∧
    (fresh → ∃ t, exec (.ptpMeasurement w o) s = .next t ∧ s.timebaseOnly t ∧ t.tb.sLast = some t2 ∧
      t.get ptpsFiltOfs = toBits 64 (Config.ptpFilter s.fresh o) ∧
      t.getInt tbRefPofsPs 2 = clampInt (-2147483648) 2147483647 (t.getInt ptpsFiltOfs * 1000 / 65536) ∧
      let f := (t.getInt ptpsFiltOfs).natAbs
      let lim := max 1 (s.get ptpsCfgLimit) * 655360
      (st ≠ 1 → st ≠ 2 → t.get ptpsStateState = 1 ∧ t.evtOn 174 = true) ∧
      (st = 1 → lim < f → t.get ptpsStateState = 1 ∧ t.tb.sIn = 0) ∧
      (st = 1 → f ≤ lim → s.tb.sIn < 7 → t.get ptpsStateState = 1 ∧ t.tb.sIn = s.tb.sIn + 1) ∧
      (st = 1 → f ≤ lim → 7 ≤ s.tb.sIn → t.get ptpsStateState = 2 ∧ t.refActive 2 = true ∧ t.evtOn 174 = true) ∧
      (st = 2 → f ≤ 4 * lim → t.get ptpsStateState = 2 ∧ t.tb.sOut = 0) ∧
      (st = 2 → 4 * lim < f → s.tb.sOut = 0 → t.get ptpsStateState = 2 ∧ t.tb.sOut = 1) ∧
      (st = 2 → 4 * lim < f → s.tb.sOut ≠ 0 → t.get ptpsStateState = 1 ∧ t.refActive 2 = false ∧ t.evtOn 174 = true))) ∧
  (∀ s : State, s.sound = true → s.power.inReset = false →
    let st := s.get ptpsStateState
    (st ≠ 1 → st ≠ 2 → exec .ptpsMeasTimeout s = .next s) ∧
    (st = 1 ∨ st = 2 → ∃ t, exec .ptpsMeasTimeout s = .next t ∧ s.timebaseOnly t ∧ t.get ptpsStateState = 3 ∧
      t.on tbStatusPtpsState = true ∧ t.evtOn 174 = true ∧ t.refActive 2 = false)) ∧
  (∀ (s : State) (w : Who) (v : Word), s.sound = true → s.lets w (ptpsCfg.key 0 0) →
    ∃ t, exec (.ptpsCfgWrite w v) s = .next t ∧ s.timebaseOnly t ∧ t.get ptpsCfgEn = bits v.toNat 31 31 ∧
      t.get ptpsCfgBw = bits v.toNat 18 16 ∧ t.get ptpsCfgMeasTo = bits v.toNat 15 8 ∧
      t.get ptpsCfgLimit = bits v.toNat 7 0 ∧
      (bit v.toNat 31 = true → s.onlyRegs t (fun k => k = ptpsCfg.key 0 0)) ∧
      (bit v.toNat 31 = false → t.get ptpsStateState = 0 ∧ t.get ptpsFiltOfs = 0 ∧ t.get ptpsFofsValue = 0 ∧
        t.getInt tbRefPofsPs 2 = 0))

/-! ## Clocks and the gating of units (R319 to R325) -/

/-- R320 to R323, R328: sources. The first lock of the root PLL moves the four domains to it; a failed root PLL moves
them to FIO and loses the timebase; a failed memory PLL moves its tower, loses what the tower holds and answers what it was
asked with TERR; a failed SIO has the lease term counted on FIO; a failed egress PLL takes its port down, and a failed PCIe
PLL the host link; every failure sets its bits and raises its source; a good source clears its bit of CLK.MONSTAT and moves
no domain; and RESTORE moves back each domain whose source is good, or is refused. That a lost byte reads 0 is the model's
choice (log entry 6). -/
def Obligations.ClockSources : Prop :=
  (∀ s : State, s.sound = true →
    let may := s.power.inReset = false ∧ s.power.rootWait = true ∧ bit (s.get clkMonstatFail) 2 = false
    (¬ may → exec .rootPllLock s = .next s) ∧
    (may → ∃ t, exec .rootPllLock s = .next t ∧ t.get clkSrcDom = 0 ∧ t.get clkSrcMem = s.get clkSrcMem ∧
      State.onlyRegs { s with power := { s.power with rootWait := false } } t (fun k => k = clkSrc.key 0 0))) ∧
  (∀ (s : State) (c : ClkSrc) (stopped : Bool), (s.power.inReset = true ∨ bit (s.get clkMonstatFail) (monBit c) = true) →
    exec (.clockMonitorFail c stopped) s = .next s) ∧
  (∀ (s : State) (stopped : Bool), s.sound = true → s.power.inReset = false → bit (s.get clkMonstatFail) 2 = false →
    ∃ t, exec (.clockMonitorFail .root stopped) s = .next t ∧
      State.onlyEvents { s with tb := { s.tb with target := none, manWait := none },
                                power := { s.power with rootWait := false } } t
        (fun k => k = clkMonstat.key 0 0 || k = clkStatus.key 0 0 || k = clkSrc.key 0 0 || k = tbState.key 0 0 ||
          k = tbStatus.key 0 0) ∧
      t.get clkMonstatFail = s.get clkMonstatFail + 4 ∧ t.on clkStatusRootFail = true ∧ t.evtOn 2 = true ∧
      t.get clkSrcDom = 15 ∧ t.get clkSrcMem = s.get clkSrcMem ∧ t.get tbStateState = 4 ∧ t.get tbStateCur = 3 ∧
      t.on tbStateWtr = false ∧ t.on tbStateSwitching = false ∧
      (s.get clkSrcDom ≠ 15 → stopped = true → t.on clkStatusClkswForced = true ∧ t.evtOn 8 = true)) ∧
  (∀ (s : State) (h : Fin 4) (stopped : Bool), s.sound = true → s.ordered = true → s.power.inReset = false →
    bit (s.get clkMonstatFail) (7 + h) = false →
    ∃ t, exec (.clockMonitorFail (.memory h) stopped) s = .next t ∧
      State.onlyEvents { s with mem := t.mem, marks := t.marks, lines := t.lines, ctls := t.ctls, inFlight := t.inFlight } t
        (fun k => k = clkMonstat.key 0 0 || k = clkStatus.key 0 0 || k = clkSrc.key 0 0 || k = memStat.key 0 0 ||
          (List.range 32).any fun i => k = mcOcc.key (32 * h + i) 0) ∧
      t.get clkMonstatFail = s.get clkMonstatFail + 2 ^ (7 + h.val) ∧ t.on clkStatusMempllFail = true ∧ t.evtOn 6 = true ∧
      bit (t.get clkSrcMem) h = true ∧ bit (t.get memStatPll) h = false ∧ t.get clkSrcDom = s.get clkSrcDom ∧
      (stopped = true → bit (s.get clkSrcMem) h = false → t.on clkStatusClkswForced = true ∧ t.evtOn 8 = true) ∧
      (∀ p, p / 32 = h.val → (t.ctl p).queue = [] ∧ (t.ctl p).held = [] ∧
        ∀ r, r ∈ (s.ctl p).queue ++ (s.ctl p).held → { r with terr := true } ∈ t.inFlight) ∧
      (∀ p, p / 32 ≠ h.val → t.ctl p = s.ctl p) ∧ (∀ r ∈ s.inFlight, r ∈ t.inFlight) ∧
      (∀ a, a < dramEnd → dramPc a / 32 = h.val → t.byte a = 0 ∧ t.mark a = .unwritten) ∧
      (∀ a, ¬(a < dramEnd ∧ dramPc a / 32 = h.val) → t.byte a = s.byte a ∧ t.mark a = s.mark a)) ∧
  (∀ (s : State) (c : ClkSrc) (stopped : Bool), s.sound = true → s.power.inReset = false →
    bit (s.get clkMonstatFail) (monBit c) = false → (c = .xtal1 ∨ c = .xtal2 ∨ c = .fio ∨ c = .sio) →
    ∃ t : State, exec (.clockMonitorFail c stopped) s = .next t ∧ t.evtOn (monStatus c) = true ∧
      bit (t.reg clkStatus 0 0) (monStatus c) = true ∧ t.get clkMonstatFail = s.get clkMonstatFail + 2 ^ monBit c ∧
      (c = .sio → t.on rvStatusSioLease = true ∧ t.evtOn 31 = true) ∧
      State.onlyEvents { s with power := { s.power with fioTerm := s.power.fioTerm || decide (c = .sio) } } t
        (fun k => k = clkMonstat.key 0 0 || k = clkStatus.key 0 0 || (decide (c = .sio) && k = rvStatus.key 0 0))) ∧
  (∀ (s : State) (p : Fin 2) (stopped : Bool), s.sound = true → s.ordered = true → s.power.inReset = false →
    bit (s.get clkMonstatFail) (5 + p) = false →
    ∃ t : State, exec (.clockMonitorFail (.egress p) stopped) s = .next t ∧ t.evtOn 5 = true ∧
      t.get clkMonstatFail = s.get clkMonstatFail + 2 ^ (5 + p.val) ∧ t.egrUp p = false ∧
      t.egr (1 - p.val) = s.egr (1 - p.val) ∧ (t.egr p).queue = (s.egr p).queue ∧ (t.egr p).rx = (s.egr p).rx ∧
      (s.egrUp p = true → t.on egrpStatusLink p = true ∧ t.evtOn (142 + 5 * p) = true) ∧
      State.onlyEvents { s with egress := t.egress } t
        (fun k => k = clkMonstat.key 0 0 || k = clkStatus.key 0 0 || k = egrpStat.key p 0 || k = egrpStatus.key p 0)) ∧
  (∀ (s : State) (stopped : Bool), s.sound = true → s.power.inReset = false → bit (s.get clkMonstatFail) 11 = false →
    ∃ t : State, exec (.clockMonitorFail .pcie stopped) s = .next t ∧ t.get clkMonstatFail = s.get clkMonstatFail + 2048 ∧
      bit (t.reg clkStatus 0 0) 7 = true ∧ t.evtOn 7 = true ∧ t.evtOn 52 = true ∧ t.d3hot = 0 ∧ t.hostReads = [] ∧
      t.mem = s.mem ∧ t.seqs = s.seqs ∧
      ∀ f : Fin 4, ∀ k d, (k / 2 ^ 32 = f + 1 ∨ k / 2 ^ 32 = 257 + f) → Sparse.at t.regs k d = d) ∧
  (∀ (s : State) (c : ClkSrc), bit (s.get clkMonstatFail) (monBit c) = false → exec (.clockSourceGood c) s = .next s) ∧
  (∀ (s : State) (c : ClkSrc), s.sound = true → bit (s.get clkMonstatFail) (monBit c) = true →
    ∃ t : State, exec (.clockSourceGood c) s = .next t ∧ t.get clkMonstatFail = s.get clkMonstatFail - 2 ^ monBit c ∧
      ((∀ p, c ≠ .egress p) → s.onlyRegs t (fun k => k = clkMonstat.key 0 0)) ∧
      (∀ p, c = .egress p →
        t.egrUp p = (s.on egrpCtrlEnable p && s.on egrpStatAligned p && s.on egrpStatFecLock p && !s.on egrpStatLf p
          && !s.on egrpStatRf p) ∧
        State.onlyEvents { s with egress := t.egress } t
          (fun k => k = clkMonstat.key 0 0 || k = egrpStat.key p 0 || k = egrpStatus.key p 0))) ∧
  (∀ (s : State) (w : Who), s.sound = true → s.lets w (clkCmd.key 0 0) →
    let root := s.get clkSrcDom ≠ 0 ∧ bit (s.get clkMonstatFail) 2 = false
    let tower := fun (h : Nat) => bit (s.get clkSrcMem) h = true ∧ bit (s.get clkMonstatFail) (7 + h) = false
    (root ∨ (∃ h, h < 4 ∧ tower h) →
      ∃ t : State, exec (.clockRestore w) s = .next t ∧
        State.onlyRegs { s with power := { s.power with rootWait := t.power.rootWait } } t (fun k => k = clkSrc.key 0 0) ∧
        (root → t.get clkSrcDom = 0 ∧ t.power.rootWait = false) ∧
        (¬ root → t.get clkSrcDom = s.get clkSrcDom ∧ t.power.rootWait = s.power.rootWait) ∧
        (∀ h, h < 4 → (bit (t.get clkSrcMem) h = true ↔ bit (s.get clkSrcMem) h = true ∧ ¬ tower h))) ∧
    (¬ root → (∀ h, h < 4 → ¬ tower h) →
      ∃ t, exec (.clockRestore w) s = .next t ∧ s.refused t w (clkCmd.key 0 0)))

/-- R324, R325: the gating of a unit. A gate within its conditions (the blocks concerned OFF, HALTED or FAULT, the ingest port
DARK, the egress port OFF) waits (BUSY); with nothing under way the unit's clock stops with RESULT 0, and after 4,096 cycles
it is refused with RESULT 1; outside its conditions a gate is refused; a forced gate stops the clock at once with RESULT 2
and ends what the unit was asked with TERR; an ungate starts the clock again, or takes back a gate that waits. Refusing a
second gate while one waits is the model's choice. See log entry 83. -/
def Obligations.UnitsGate : Prop :=
  (∀ (s : State) (w : Who) (u : BitVec 6), s.sound = true → s.lets w (clkGate.key 0 0) →
    let n := u.toNat
    let idle := fun (i : Nat) => (s.seq i).st = .off ∨ (s.seq i).st = .halted ∨ (s.seq i).st = .fault
    let ok := (n < 62) ∧ (n < 48 → idle n) ∧ (48 ≤ n → n < 52 → ∀ b, b < 12 → idle (12 * (n - 48) + b)) ∧
      (52 ≤ n → n < 60 → s.pstate (n - 52) = 0) ∧ (60 ≤ n → s.get egrpStatState (n - 60) = 0) ∧
      (s.gating = none ∨ s.gating = some n)
    (ok →
      ∃ t, exec (.clockGate w u) s = .next t ∧
        State.onlyRegs { s with gating := some n } t (fun k => k = clkGatestat.key 0 0) ∧
        t.on clkGatestatBusy = true ∧ t.get clkGatestatUnit = n) ∧
    (¬ ok → (∃ t, exec (.clockGate w u) s = .next t ∧ s.refused t w (clkGate.key 0 0)) ∧
      ∃ t, exec (.clockForcedGate w u) s = .next t ∧ s.refused t w (clkGate.key 0 0)) ∧
    (ok →
      ∃ t : State, exec (.clockForcedGate w u) s = .next t ∧ t.gating = none ∧ t.on clkGatestatBusy = false ∧
        t.get clkGatestatResult = 2 ∧ t.get clkGatestatUnit = n ∧ bit (t.get clkGatedMask) n = true ∧
        t.get clkGatestatEnded = min 4095 (s.accepted.filter fun r => (gateUnits r.addr).contains n).length ∧
        t.on clkStatusGateForced = true ∧ t.evtOn 10 = true ∧ t.mem = s.mem ∧ t.marks = s.marks ∧ t.seqs = s.seqs ∧
        (∀ x, x < 62 → x ≠ n → bit (t.get clkGatedMask) x = bit (s.get clkGatedMask) x) ∧
        ∀ r ∈ s.accepted, (gateUnits r.addr).contains n = true →
          (∀ v, initUnit r.init = some v → bit (s.get clkGatedMask) v = false) →
          (⟨r.init, r.id, .terr, []⟩ : Resp) ∈ t.responses)) ∧
  (∀ s : State, (s.gating = none ∨ ∃ u, s.gating = some u ∧ s.unitRequests u ≠ []) → exec .gateIdleStop s = .next s) ∧
  (∀ (s : State) (u : Nat), s.sound = true → s.ordered = true → s.gating = some u → s.unitRequests u = [] →
    ∃ t, exec .gateIdleStop s = .next t ∧
      State.onlyRegs { s with gating := none } t (fun k => k = clkGatestat.key 0 0 || k = clkGated.key 0 0) ∧
      t.on clkGatestatBusy = false ∧ t.get clkGatestatResult = 0 ∧ bit (t.get clkGatedMask) u = true ∧
      (∀ x, x < 62 → x ≠ u → bit (t.get clkGatedMask) x = bit (s.get clkGatedMask) x)) ∧
  (∀ s : State, s.gating = none → exec .gateRefused s = .next s) ∧
  (∀ (s : State) (u : Nat), s.sound = true → s.power.inReset = false → s.gating = some u →
    ∃ t, exec .gateRefused s = .next t ∧
      State.onlyEvents { s with gating := none } t (fun k => k = clkGatestat.key 0 0 || k = clkStatus.key 0 0) ∧
      t.on clkGatestatBusy = false ∧ t.get clkGatestatResult = 1 ∧ t.on clkStatusGateRefused = true ∧ t.evtOn 9 = true) ∧
  (∀ (s : State) (w : Who) (u : BitVec 6), s.sound = true → s.lets w (clkGate.key 0 0) →
    (62 ≤ u.toNat → ∃ t, exec (.clockUngate w u) s = .next t ∧ s.refused t w (clkGate.key 0 0)) ∧
    (u.toNat < 62 → s.gating ≠ some u.toNat →
      ∃ t, exec (.clockUngate w u) s = .next t ∧ s.onlyRegs t (fun k => k = clkGatestat.key 0 0 || k = clkGated.key 0 0) ∧
        t.get clkGatestatResult = 0 ∧ t.get clkGatestatUnit = u.toNat ∧ bit (t.get clkGatedMask) u.toNat = false ∧
        ∀ x, x < 62 → x ≠ u.toNat → bit (t.get clkGatedMask) x = bit (s.get clkGatedMask) x) ∧
    (u.toNat < 62 → s.gating = some u.toNat →
      ∃ t, exec (.clockUngate w u) s = .next t ∧
        State.onlyRegs { s with gating := none } t (fun k => k = clkGatestat.key 0 0) ∧
        t.get clkGatestatResult = 0 ∧ t.get clkGatestatUnit = u.toNat ∧ t.on clkGatestatBusy = false))

/-! ## Feeds, reeves and the lease (R326 to R333, R349, R375) -/

/-- R326 to R333, R337, R349, R375: feeds and the lease. A lost feed takes its reeve's state and STBY_OK; a feed that comes
back beside the other lets its reeve boot, resynchronise or stay cold; an expired lease leaves no holder and releases the
other reeve, or the same one if the other has no feed; TAKE by the reeve released, with VAON_IO in its band, makes it the
holder, which takes up the saved state, powers every rail down and up after a POR, powers down for a trip that waited, and
carries out the command that waited; a renewal counts the lease on SIO again once SIO is good; a saved state reaches the
mailbox; RESYNC leaves the standby reeve COLD and sets STBY_OK or RESYNC_FAIL; HANDOVER saves the state and stops the
renewals, and is refused without a standby that is ready. The mailbox at a failed save, when TAKE acts, and that a failed
VAON_IO keeps nothing from being accepted but the bus are the model's readings (log entries 85, 90, 126). -/
def Obligations.FeedsAndLease : Prop :=
  (∀ (s : State) (f : Reeve), s.sound = true →
    (s.feedOn f = false → exec (.feedLoss f) s = .next s) ∧
    (s.feedOn f = true →
      ∃ t, exec (.feedLoss f) s = .next t ∧ s.onlyEvents t (fun k => k = rvLease.key 0 0 || k = rvStatus.key 0 0) ∧
        t.feedOn f = false ∧ t.reeveState f = 0 ∧ t.stbyOk f = false ∧ t.holder = s.holder ∧
        t.feedOn (otherReeve f) = s.feedOn (otherReeve f) ∧ t.reeveState (otherReeve f) = s.reeveState (otherReeve f) ∧
        t.stbyOk (otherReeve f) = s.stbyOk (otherReeve f) ∧
        (s.power.inReset = false → t.evtOn (18 + reeveNum f) = true))) ∧
  (∀ (s : State) (f : Reeve), s.sound = true →
    (s.feedOn f = true ∨ s.feedOn (otherReeve f) = false → exec (.feedBack f) s = .next s) ∧
    (s.feedOn f = false → s.feedOn (otherReeve f) = true →
      ∃ t, exec (.feedBack f) s = .next t ∧ s.onlyEvents t (fun k => k = rvLease.key 0 0 || k = rvStatus.key 0 0) ∧
        t.feedOn f = true ∧ t.holder = s.holder ∧ t.reeveState (otherReeve f) = s.reeveState (otherReeve f) ∧
        t.reeveState f = (if s.power.released = some f then 1 else if s.holder = some (otherReeve f) then 3 else 4) ∧
        (s.power.inReset = false → t.evtOn (20 + reeveNum f) = true))) ∧
  (∀ (s : State) (f : Reeve), s.holder = some f →
    (s.feedOn f = true → s.reeveState f = 2 → s.power.handing = false →
      exec .leaseRenewal s =
        .next { s with power := { s.power with fioTerm := s.power.fioTerm && bit (s.get clkMonstatFail) 4 } }) ∧
    (s.feedOn f = false ∨ s.reeveState f ≠ 2 ∨ s.power.handing = true → exec .leaseRenewal s = .next s)) ∧
  (∀ s : State, s.holder = none → exec .leaseRenewal s = .next s ∧ exec .leaseExpiry s = .next s) ∧
  (∀ (s : State) (f : Reeve), s.sound = true → s.holder = some f →
    let other := otherReeve f
    let next := if s.feedOn other then some other else if s.feedOn f then some f else s.power.released
    ∃ t : State, exec .leaseExpiry s = .next t ∧
      State.onlyEvents { s with power := { s.power with handing := false, released := next } } t
        (fun k => k = rvLease.key 0 0 || k = rvStatus.key 0 0) ∧
      t.holder = none ∧ t.on rvStatusLeaseExpired = true ∧ (s.power.inReset = false → t.evtOn 17 = true) ∧
      (s.feedOn other = true → t.reeveState other = 1 ∧ t.stbyOk other = false ∧ t.reeveState f = if s.feedOn f then 4 else 0) ∧
      (s.feedOn other = false → s.feedOn f = true → t.reeveState f = 1) ∧
      (s.feedOn other = false → s.feedOn f = false → t.reeveState f = 0)) ∧
  (∀ (s : State) (f : Reeve), (s.power.released ≠ some f ∨ s.feedOn f = false ∨ s.power.vaonIo = false) →
    exec (.take f) s = .next s) ∧
  (∀ (s : State) (f : Reeve), s.sound = true → s.power.released = some f → s.feedOn f = true → s.power.vaonIo = true →
    let other := otherReeve f
    ∃ t, exec (.take f) s = .next t ∧ t.holder = some f ∧ t.reeveState f = 2 ∧ t.power.released = none ∧
      t.reeveState other = (if s.feedOn other then 3 else s.reeveState other) ∧
      t.get rvLeaseTakeovers = min (s.get rvLeaseTakeovers + 1) 65535 ∧ t.on rvStatusLeaseMoved = true ∧
      (∀ k, t.peat.value k = s.peat.mount.value k) ∧
      (s.power.porSeq = true → s.power.tripped = false →
        t.power.switched.take (s.power.switched.length + 7) =
          s.power.switched ++ (List.finRange 7).reverse.map (fun r => (r, false)) ∧
        ((s.peat.mount.value 3).map (fun v => (v.headD 0).toNat) = some 1 →
          t.pwr = 3 ∧ t.power.railsOn = 0 ∧ t.power.porSeq = false) ∧
        ((s.peat.mount.value 3).map (fun v => (v.headD 0).toNat) ≠ some 1 → t.pwr = s.pwr ∧ t.power.railsOn = 127)) ∧
      (s.power.porSeq = false → s.power.tripped = false → s.power.cmd = none → s.power.woken = false →
        (s.peat.saved = none →
          State.onlyEvents { s with peat := s.peat.mount, power := { s.power with released := none } } t
            (fun k => k = rvLease.key 0 0 || k = rvStatus.key 0 0)) ∧
        ∀ r, s.peat.saved = some r → r.power = s.pwr →
          State.onlyEvents { s with peat := s.peat.mount, power := { s.power with released := none, rails := r.rails } } t
            (fun k => k = rvLease.key 0 0 || k = rvStatus.key 0 0 || k = thermCfg.key 0 0 || k = pwrWake.key 0 0) ∧
          t.reg thermCfg 0 0 = r.therm % 2 ^ 32 ∧ t.reg pwrWake 0 0 = r.wake % 2 ^ 32) ∧
      (s.power.porSeq = false → s.peat.saved = none → s.power.woken = false → s.power.tripped = true → s.power.cmd = none →
        t.pwr = 3 ∧ (s.pwr ≠ 3 → t.power.inReset = true ∧ t.power.railsOn = 0 ∧ t.on thermStatusTrip = true)) ∧
      (s.power.porSeq = false → s.peat.saved = none → s.power.woken = false → s.power.cmd = some 3 → s.pwr ≤ 2 →
        t.pwr = 3 ∧ t.power.cmd = none)) ∧
  (∀ (s : State) (ok : Bool), s.sound = true → s.ordered = true →
    (s.busIdle = true → exec (.savedStateWrite ok) s = .next s) ∧
    (s.busIdle = false →
      ∃ t, exec (.savedStateWrite ok) s = .next t ∧ t.power = { s.power with mailbox := some s.saved } ∧
        (ok = true → t.peat.saved = some s.saved ∧ t.peat.value 1 = some ((Config.savedBytes s.fresh).take 256) ∧
          (∀ k, k ≠ 1 → t.peat.value k = s.peat.value k) ∧
          State.onlyEvents { s with peat := t.peat, fresh := s.fresh + 1, power := t.power } t
            (fun k => k = peatUse.key 0 0 || k = rvStatus.key 0 0)) ∧
        (ok = false → t.on rvStatusSaveFail = true ∧ (s.power.inReset = false → t.evtOn 23 = true) ∧
          State.onlyEvents { s with power := t.power } t (fun k => k = rvStatus.key 0 0)))) ∧
  (∀ (s : State) (f : Reeve) (crc rom : Bool), s.sound = true →
    let may := s.holder = some (otherReeve f) ∧ s.feedOn f = true ∧ s.reeveState f = 3 ∧ s.power.porSeq = false
    let good := crc = true ∧ rom = true ∧ s.power.mailbox ≠ none
    (¬ may → exec (.resync f crc rom) s = .next s) ∧
    (may →
      ∃ t, exec (.resync f crc rom) s = .next t ∧ t.reeveState f = 4 ∧ t.holder = s.holder ∧
        (good → t.stbyOk f = true ∧ s.onlyRegs t (fun k => k = rvLease.key 0 0)) ∧
        (¬ good → t.stbyOk f = s.stbyOk f ∧ t.on rvStatusResyncFail = true ∧
          (s.power.inReset = false → t.evtOn 22 = true) ∧
          s.onlyEvents t (fun k => k = rvLease.key 0 0 || k = rvStatus.key 0 0)))) ∧
  (∀ (s : State) (w : Who), s.sound = true → s.ordered = true → s.lets w (rvCmd.key 0 0) →
    (∀ f, s.holder = some f → s.stbyOk (otherReeve f) = true →
      ∃ t, exec (.handover w) s = .next t ∧ t.power = { s.power with mailbox := some s.saved, handing := true } ∧
        (s.power.vaonIo = true → t.peat.saved = some s.saved) ∧ (s.power.vaonIo = false → t.peat = s.peat) ∧
        State.onlyEvents { s with peat := t.peat, fresh := t.fresh, power := t.power } t
          (fun k => k = peatUse.key 0 0 || k = rvStatus.key 0 0)) ∧
    ((s.holder = none ∨ ∃ f, s.holder = some f ∧ s.stbyOk (otherReeve f) = false) →
      ∃ t, exec (.handover w) s = .next t ∧ s.refused t w (rvCmd.key 0 0)))

/-! ## Rails, heat and the power states (R334 to R337, R349, R350, R375) -/

/-- R334 to R337, R375: rails and heat. A rail out of limits takes the chip to DORMANT and leaves its number, and a rail
without a key keeps it there; a regulator that does not answer sets PMBUS_FAULT; none of it happens while no reeve drives
the bus. A poll of the sensors stores the corrected readings of those that answer and sets SENSOR_FAIL for one that does not,
THERM.MAX is the largest of them and of the towers', and WARN and HOT follow with 5 °C of hysteresis; SHUT with SHUT_EN takes
the chip to DORMANT; thresholds in order are taken, others refused; and a trip asserts a CHIP reset, with a holder in
DORMANT. -/
def Obligations.RailsAndHeat : Prop :=
  (∀ (s : State) (c : RailCause) (r : Fin 7), s.busIdle = true → exec (.railFault c r) s = .next s) ∧
  (∀ (s : State) (r : Fin 7), s.pwr = 3 → exec (.railFault .outOfLimits r) s = .next s ∧ exec (.railFault .noKey r) s = .next s) ∧
  (∀ (s : State) (r : Fin 7), s.sound = true → s.busIdle = false → s.pwr ≠ 3 →
    ∃ t, exec (.railFault .outOfLimits r) s = .next t ∧ t.pwr = 3 ∧ t.get pwrStateFaultRail = r ∧
      t.on rvStatusRailFault = true ∧ t.power.inReset = true ∧ t.power.railsOn = 0 ∧
      t.power.switched = s.power.switched ++ (List.finRange 7).reverse.map (fun r => (r, false)) ∧ t.holder = s.holder ∧
      t.peat = s.peat ∧ t.seqs = [] ∧ ∀ a, a < 0x800000000000 → t.byte a = 0) ∧
  (∀ (s : State) (r : Fin 7), s.sound = true → s.busIdle = false →
    ∃ t, exec (.railFault .pmbus r) s = .next t ∧ s.onlyEvents t (fun k => k = rvStatus.key 0 0) ∧
      t.on rvStatusPmbusFault = true ∧ (s.power.inReset = false → t.evtOn 25 = true)) ∧
  (∀ (s : State) (r : Fin 7), s.sound = true → s.busIdle = false → s.pwr ≠ 3 →
    (s.power.inReset = true → s.peat.value (0x100 + r) = none →
      ∃ t, exec (.railFault .noKey r) s = .next t ∧ t.pwr = 3 ∧ t.on rvStatusNorail = true ∧ t.power.inReset = true ∧
        t.power.railsOn = 0) ∧
    (s.power.inReset = false ∨ s.peat.value (0x100 + r) ≠ none → exec (.railFault .noKey r) s = .next s)) ∧
  (∀ (s : State) (d : List (Option (BitVec 16))) (h : List Byte), (s.noHolder = true ∨ s.pwr = 3) →
    exec (.thermalPoll d h) s = .next s) ∧
  (∀ (s : State) (d : List (Option (BitVec 16))) (h : List Byte) (m : Int), s.sound = true → s.noHolder = false → s.pwr ≠ 3 →
    let die := fun (i : Nat) => s.dieTemp i (nth d i none)
    let tower := fun (x : Nat) => if x < h.length then sext 8 (nth h x 0).toNat else s.getInt memTempNow x
    (∀ i x, i < 16 → die i = some x → x ≤ m) → (∀ x, x < 4 → 4 * tower x ≤ m) →
    ((∃ i, i < 16 ∧ die i = some m) ∨ ∃ x, x < 4 ∧ 4 * tower x = m) →
    let level := fun (t : State) (f : RField) (limit : Nat) =>
      (4 * (limit : Int) ≤ m → t.on f = true) ∧ (m ≤ 4 * (limit : Int) - 20 → t.on f = false) ∧
        (4 * (limit : Int) - 20 < m → m < 4 * (limit : Int) → t.on f = s.on f)
    ∃ t : State, exec (.thermalPoll d h) s = .next t ∧ t.getInt thermMaxTemp = m ∧
      (∀ i, i < 16 → t.getInt thermTempTemp i = (die i).getD (s.getInt thermTempTemp i)) ∧
      ((∃ i, i < 16 ∧ die i = none) → t.on thermStatusSensorFail = true) ∧
      level t thermStatusWarn (s.get thermCfgWarn) ∧ level t thermStatusHot (s.get thermCfgHot) ∧
      (4 * (s.get thermCfgShut : Int) ≤ m → t.on thermStatusShut = true) ∧
      (m < 4 * (s.get thermCfgShut : Int) ∨ s.on thermCfgShutEn = false →
        (∀ x, x < 4 → t.getInt memTempNow x = tower x) ∧
        State.onlyEvents { s with trainArmed := t.trainArmed } t (fun k => k = thermMax.key 0 0 || k = thermStatus.key 0 0 ||
          (List.range 16).any (fun i => k = thermTemp.key i 0) || (List.range 4).any fun x => k = memTemp.key x 0)) ∧
      (4 * (s.get thermCfgShut : Int) ≤ m → s.on thermCfgShutEn = true → t.pwr = 3 ∧ t.power.inReset = true ∧ t.seqs = [])) ∧
  (∀ (s : State) (w : Who) (v : Word), s.sound = true → s.lets w (thermCfg.key 0 0) →
    let ok := bits v.toNat 7 0 < bits v.toNat 15 8 ∧ bits v.toNat 15 8 < bits v.toNat 23 16 ∧ bits v.toNat 23 16 < 115
    (ok →
      ∃ t, exec (.thermCfgWrite w v) s = .next t ∧ s.onlyRegs t (fun k => k = thermCfg.key 0 0) ∧
        t.get thermCfgWarn = bits v.toNat 7 0 ∧ t.get thermCfgHot = bits v.toNat 15 8 ∧
        t.get thermCfgShut = bits v.toNat 23 16 ∧ t.get thermCfgShutEn = bits v.toNat 24 24) ∧
    (¬ ok → ∃ t, exec (.thermCfgWrite w v) s = .next t ∧ s.refused t w (thermCfg.key 0 0))) ∧
  (∀ s : State, s.pwr = 3 → exec .thermalTrip s = .next s) ∧
  (∀ s : State, s.sound = true → s.pwr ≠ 3 →
    ∃ t, exec .thermalTrip s = .next t ∧ t.power.inReset = true ∧ t.power.tripped = true ∧ t.on rstCauseTherm = true ∧
      t.seqs = [] ∧ t.cells = [] ∧ t.peat = s.peat ∧ (∀ a, a < 0x800000000000 → t.byte a = 0) ∧
      (s.noHolder = false → t.pwr = 3 ∧ t.on thermStatusTrip = true ∧ (s.power.vaonIo = true → t.power.railsOn = 0)) ∧
      (s.noHolder = true → t.pwr = s.pwr ∧ t.power.railsOn = s.power.railsOn ∧ t.logs = s.logs))

/-- R333, R349, R350: the power states. A command whose row of R349 applies makes its transition: IDLE when every program is
idle, RUN from IDLE, IDLE out of STANDBY, STANDBY when ports, egress and ticking are off, DORMANT from any of them; it waits
while no reeve holds the lease, and any other, or one while another waits, is refused; a wake timer that has run down ends
STANDBY or DORMANT. The code 4 between wake and release is the model's reading (log entry 87); that a lost byte reads 0 is its
choice (log entry 6). -/
def Obligations.PowerStatesMove : Prop :=
  (∀ (s : State) (w : Who) (c : Instr) (op : Nat), s.sound = true → s.lets w (pwrCmd.key 0 0) →
    ((c = .pwrRun w ∧ op = 0) ∨ (c = .pwrIdle w ∧ op = 1) ∨ (c = .pwrStandby w ∧ op = 2) ∨ (c = .pwrDormant w ∧ op = 3)) →
    let idle := ∀ i, i < 52 → (s.seq i).st = .off ∨ (s.seq i).st = .halted ∨ (s.seq i).st = .fault
    let off := (∀ n, n < 8 → s.pstate n = 0) ∧ (∀ p, p < 2 → s.get egrpStatState p = 0) ∧ s.on tickCtrlRun = false
    let row := (op = 0 ∧ (s.pwr = 1 ∨ s.pwr = 2)) ∨ (op = 1 ∧ s.pwr = 0 ∧ idle) ∨ (op = 2 ∧ s.pwr = 1 ∧ off) ∨
      (op = 3 ∧ s.pwr ≤ 2)
    (¬ row ∨ s.power.cmd ≠ none → ∃ t, exec c s = .next t ∧ s.refused t w (pwrCmd.key 0 0)) ∧
    (row → s.power.cmd = none → s.noHolder = true →
      exec c s = .next { s with power := { s.power with cmd := some op } })) ∧
  (∀ (s : State) (w : Who), s.sound = true → s.ordered = true → s.lets w (pwrCmd.key 0 0) → s.noHolder = false →
    s.power.cmd = none →
    (s.pwr = 0 → (∀ i, i < 52 → (s.seq i).st = .off ∨ (s.seq i).st = .halted ∨ (s.seq i).st = .fault) →
      ∃ t, exec (.pwrIdle w) s = .next t ∧ s.onlyRegs t (fun k => k = pwrState.key 0 0) ∧ t.pwr = 1) ∧
    (s.pwr = 1 → ∃ t, exec (.pwrRun w) s = .next t ∧ s.onlyRegs t (fun k => k = pwrState.key 0 0) ∧ t.pwr = 0) ∧
    (s.pwr = 2 →
      ∃ t, exec (.pwrRun w) s = .next t ∧ t.pwr = 1 ∧
        s.onlyRegs t (fun k => k = pwrState.key 0 0 || (List.range 128).any fun p => k = mcStat.key p 0) ∧
        ∀ p, p < 128 → t.get mcStatState p = if s.get mcStatState p = 4 then 5 else s.get mcStatState p) ∧
    (s.pwr = 1 → (∀ n, n < 8 → s.pstate n = 0) → (∀ p, p < 2 → s.get egrpStatState p = 0) → s.on tickCtrlRun = false →
      ∃ t, exec (.pwrStandby w) s = .next t ∧ t = { s with regs := t.regs, ctls := t.ctls } ∧ t.pwr = 2 ∧
        s.regsKept t (fun k => k = pwrState.key 0 0 || (List.range 128).any fun p =>
          k = mcStat.key p 0 || k = mcSrcnt.key p 0 || k = mcOcc.key p 0) ∧
        ∀ p, p < 128 → t.get mcStatState p = if s.get mcStatState p = 2 then 3 else s.get mcStatState p) ∧
    (s.pwr ≤ 2 → ∃ t, exec (.pwrDormant w) s = .next t ∧ t.pwr = 3 ∧ t.power.inReset = true ∧ t.power.restore = true ∧
      (s.power.vaonIo = true → t.power.railsOn = 0) ∧ t.peat = s.peat ∧ t.holder = s.holder ∧ t.seqs = [] ∧ t.cells = [] ∧
      t.logs = [] ∧ (∀ a, a < 0x800000000000 → t.byte a = 0) ∧ ∀ a, 0x800000000000 ≤ a → t.byte a = s.byte a)) ∧
  (∀ s : State, s.sound = true → s.ordered = true →
    (s.get pwrWakeSeconds = 0 ∨ (s.pwr ≠ 2 ∧ s.pwr ≠ 3) → exec .wakeTimer s = .next s) ∧
    (s.get pwrWakeSeconds ≠ 0 → s.pwr = 2 → s.noHolder = true →
      exec .wakeTimer s = .next { s with power := { s.power with cmd := some 0 } }) ∧
    (s.get pwrWakeSeconds ≠ 0 → s.pwr = 2 → s.noHolder = false →
      ∃ t, exec .wakeTimer s = .next t ∧ t.pwr = 1 ∧
        s.onlyRegs t (fun k => k = pwrState.key 0 0 || (List.range 128).any fun p => k = mcStat.key p 0)) ∧
    (s.get pwrWakeSeconds ≠ 0 → s.pwr = 3 → s.busIdle = true →
      ∃ t, exec .wakeTimer s = .next t ∧ t.on rstCauseWake = true ∧
        State.onlyRegs { s with power := { s.power with woken := true } } t (fun k => k = rstCause.key 0 0)) ∧
    (s.get pwrWakeSeconds ≠ 0 → s.pwr = 3 → s.busIdle = false →
      ∃ t, exec .wakeTimer s = .next t ∧ t.pwr = 4 ∧ t.on rstCauseWake = true ∧ t.on rstCauseDormant = true ∧
        t.on thermStatusShut = false ∧
        t.power = { s.power with woken := false, tripped := false, rails := s.railKeys, railsOn := 127,
                                 switched := s.power.switched ++ (List.finRange 7).map fun r => (r, true) } ∧
        State.onlyRegs { s with power := t.power } t
          (fun k => k = rstCause.key 0 0 || k = pwrState.key 0 0 || k = thermStatus.key 0 0)))

/-! ## The Peat store and calibration (R338 to R345) -/

/-- R333, R339, R340, R342, R343, R345, R375: the store. A command waits with BUSY and is refused while another does, and is
carried out once a reeve drives the bus; GET gives the value and its length, or NOTFOUND; SET gives a key its value and leaves
every other key, DELETE takes it away, COMPACT changes no value; a key outside the tables is DENIED, a value too long is
BADLEN, one for which there is no room FULL, a flash that fails is FAULT; the holdover history stores TB.HOLD and the
seconds; and CAL.USER takes what is written, clamped or refused as its item allows. The order of the checks is the model's
reading (log entry 88). -/
def Obligations.PeatKeeps : Prop :=
  (∀ (s : State) (w : Who) (c : Instr) (op : Nat), s.sound = true → s.lets w (peatCmd.key 0 0) →
    ((c = .peatGet w ∧ op = 1) ∨ (c = .peatSet w ∧ op = 2) ∨ (c = .peatDelete w ∧ op = 3) ∨ (c = .peatCompact w ∧ op = 4)) →
    (s.on peatStatBusy = false → ∃ t, exec c s = .next t ∧
      State.onlyRegs { s with peat := { s.peat with cmd := some op } } t (fun k => k = peatStat.key 0 0) ∧
      t.on peatStatBusy = true) ∧
    (s.on peatStatBusy = true → ∃ t, exec c s = .next t ∧ s.refused t w (peatCmd.key 0 0))) ∧
  (∀ (s : State) (ok : Bool), (s.peat.cmd = none ∨ s.busIdle = true) → exec (.peatCommandDone ok) s = .next s) ∧
  (∀ (s : State) (op : Nat) (ok : Bool), s.sound = true → s.ordered = true → s.busIdle = false → s.peat.cmd = some op →
    let key := s.get peatKeyValue
    let len := s.get peatLenValue
    let res := if op = 1 then (if s.peat.value key = none then 1 else 0)
      else if op = 4 then (if ok then 0 else 5)
      else if keyWritable key = false then 3
      else if op = 2 ∧ 4064 < len then 4
      else if op = 2 ∧ 8388608 < s.liveBytes len then 2
      else if ok then 0 else 5
    ∃ t, exec (.peatCommandDone ok) s = .next t ∧ t.peat.cmd = none ∧ t.on peatStatBusy = false ∧
      t.get peatStatResult = res ∧
      State.onlyEvents { s with peat := t.peat } t
        (fun k => k = peatStat.key 0 0 || k = peatLen.key 0 0 || k = peatUse.key 0 0 || k = rvStatus.key 0 0) ∧
      (op = 1 → (∀ k, t.peat.value k = s.peat.value k) ∧
        (res = 1 → t.get peatLenValue = len ∧ t.peat = { s.peat with cmd := none }) ∧
        ∀ v, s.peat.value key = some v → t.get peatLenValue = v.length % 2 ^ 32 ∧
          (∀ i, i < v.length → t.peatByte i = nth v i 0) ∧ ∀ i, v.length ≤ i → t.peatByte i = s.peatByte i) ∧
      (op = 2 → res = 0 → t.peat.value key = some ((List.range len).map s.peatByte) ∧
        ∀ k, k ≠ key → t.peat.value k = s.peat.value k) ∧
      (op = 3 → res = 0 → t.peat.value key = none ∧ ∀ k, k ≠ key → t.peat.value k = s.peat.value k) ∧
      (op = 4 → res = 0 → t.peat.torn = false ∧ t.on rvStatusPeatCompact = true ∧
        ∀ k, t.peat.value k = s.peat.value k) ∧
      (res ≠ 0 → ∀ k, t.peat.value k = s.peat.value k) ∧
      (res = 5 → t.on rvStatusPeatFault = true ∧ (s.power.inReset = false → t.evtOn 28 = true))) ∧
  (∀ s : State, s.sound = true → s.ordered = true →
    let may := s.busIdle = false ∧ s.power.inReset = false ∧ s.on tbStateHoldValid = true
    (¬ may → exec .holdoverHistory s = .next s) ∧
    (may →
      ∃ t, exec .holdoverHistory s = .next t ∧
        State.onlyEvents { s with peat := t.peat } t (fun k => k = peatUse.key 0 0 || k = rvStatus.key 0 0) ∧
        t.peat.value 2 = some (leBytes 4 (s.get tbHoldValue) ++ leBytes 8 s.tb.sec) ∧
        ∀ k, k ≠ 2 → t.peat.value k = s.peat.value k)) ∧
  (∀ (s : State) (w : Who) (i : Fin 131) (v : Word), s.sound = true → s.lets w (calUser.key i 0) →
    ∃ t, exec (.calUserWrite w i v) s = .next t ∧ t.get calUserKind i = bits v.toNat 31 30 ∧
      t.get calUserValue i = bits v.toNat 15 0 ∧ t.calEff i = toBits 16 (calEffective i v.toNat).1 ∧
      ((calEffective i v.toNat).2.1 = true → t.on rvStatusCalClamp = true ∧ t.evtOn 30 = true) ∧
      ((calEffective i v.toNat).2.2 = true → t.on rvStatusCalReject = true ∧ t.evtOn 29 = true) ∧
      s.onlyEvents t (fun k => k = calUser.key i 0 || k = rvStatus.key 0 0))

/-! ## Resets (R346 to R348, R351, R375) -/

/-- R346 to R348, R351, R375: resets. A POR resets all but the Peat store and host memory and releases the reeve of the feed;
a CHIP reset by a pin, PERST# or RST.CMD notes its cause, resets every register outside the POR domain, stops every
program and keeps the Peat store; a pin that rises ends DORMANT, and otherwise leaves the reset asserted until it is released,
which restores what the Peat store holds; a power-up that VAON_IO held up is caught up with first; a REGION reset is refused
while a program runs, and otherwise resets the region's registers, sequencers, cells and memories; a PROGRAM reset takes a
program that has ended to OFF and one that runs once it is quiet. That a lost byte reads 0 is the model's choice (log entry 6);
what a REGION reset leaves follows log entry 91. -/
def Obligations.ResetsReturn : Prop :=
  (∀ (s : State) (f : Reeve) (torn : Bool), (s.feedOn .a = true ∨ s.feedOn .b = true) → exec (.por f torn) s = .next s) ∧
  (∀ (s : State) (f : Reeve) (torn : Bool), s.feedOn .a = false → s.feedOn .b = false →
    ∃ t, exec (.por f torn) s = .next t ∧
      t.power = { released := some f, inReset := true, restore := true, porSeq := true, vaonIo := s.power.vaonIo,
                  railsOn := s.power.railsOn, switched := s.power.switched } ∧
      t.feedOn f = true ∧ t.feedOn (otherReeve f) = false ∧ t.reeveState f = 1 ∧ t.holder = none ∧
      (∀ k d, k ≠ rvLease.key 0 0 → Sparse.at t.regs k d = d) ∧ t.seqs = [] ∧ t.cells = [] ∧ t.tick = {} ∧ t.tb = {} ∧
      t.logs = [] ∧ t.jtag = {} ∧ t.pending = s.pending ∧ (∀ k, t.peat.value k = s.peat.value k) ∧
      t.peat.saved = s.peat.saved ∧ t.peat.cmd = none ∧ (∀ a, a < 0x800000000000 → t.byte a = 0) ∧
      ∀ a, 0x800000000000 ≤ a → t.byte a = s.byte a) ∧
  (∀ (s : State) (w : Who) (c : Instr), s.sound = true → s.power.inReset = false →
    (c = .resetPin true ∨ c = .perst true ∨ (c = .rstChip w ∧ s.lets w (rstCmd.key 0 0))) →
    ∃ t, exec c s = .next t ∧ t.seqs = [] ∧ t.cells = [] ∧ t.tick = {} ∧ t.tb = {} ∧ t.engines = [] ∧ t.egress = [] ∧
      t.ctls = [] ∧ t.targets = [] ∧ t.notes = [] ∧ t.keys = [] ∧ t.jtag = s.jtag ∧ t.pending = s.pending ∧
      t.peat = s.peat ∧ t.logs = s.logs ∧ t.retired = s.retired ∧
      t.power = { s.power with inReset := true, rootWait := true, pinLow := s.power.pinLow || decide (c = .resetPin true),
                               perstLow := s.power.perstLow || decide (c = .perst true) } ∧
      (c = .resetPin true → t.on rstCausePin = true) ∧ (c = .perst true → t.on rstCausePerst = true) ∧
      (c = .rstChip w → t.on rstCauseCmd = true) ∧
      (∀ k d, regKept false k = false → Sparse.at t.regs k d = d) ∧
      (∀ k d, regKept false k = true → k ≠ rstCause.key 0 0 → Sparse.at t.regs k d = Sparse.at s.regs k d) ∧
      (∀ a, a < 0x800000000000 → t.byte a = 0) ∧ ∀ a, 0x800000000000 ≤ a → t.byte a = s.byte a) ∧
  (∀ s : State, s.sound = true → s.power.inReset = true →
    (∃ t, exec (.resetPin true) s = .next t ∧ t.on rstCausePin = true ∧
      State.onlyRegs { s with power := { s.power with pinLow := true } } t (fun k => k = rstCause.key 0 0)) ∧
    ∃ t, exec (.perst true) s = .next t ∧ t.on rstCausePerst = true ∧
      State.onlyRegs { s with power := { s.power with perstLow := true } } t (fun k => k = rstCause.key 0 0)) ∧
  (∀ s : State, (s.pwr ≠ 3 ∨ s.power.pinLow = false →
      exec (.resetPin false) s = .next { s with power := { s.power with pinLow := false } }) ∧
    (s.pwr ≠ 3 ∨ s.power.perstLow = false →
      exec (.perst false) s = .next { s with power := { s.power with perstLow := false } })) ∧
  (∀ (s : State) (c : Instr) (p : Power), s.sound = true → s.pwr = 3 →
    ((c = .resetPin false ∧ s.power.pinLow = true ∧ p = { s.power with pinLow := false }) ∨
      (c = .perst false ∧ s.power.perstLow = true ∧ p = { s.power with perstLow := false })) →
    (s.busIdle = true → exec c s = .next { s with power := { p with woken := true } }) ∧
    (s.busIdle = false →
      ∃ t, exec c s = .next t ∧ t.pwr = 4 ∧ t.on rstCauseDormant = true ∧ t.on thermStatusShut = false ∧
        State.onlyRegs { s with power := { p with woken := false, tripped := false, rails := s.railKeys, railsOn := 127,
                                                  switched := p.switched ++ (List.finRange 7).map fun r => (r, true) } } t
          (fun k => k = rstCause.key 0 0 || k = pwrState.key 0 0 || k = thermStatus.key 0 0))) ∧
  (∀ s : State, s.sound = true → s.mayRelease = true →
    ∃ t, exec .chipResetRelease s = .next t ∧
      t = { s with regs := t.regs, retired := t.retired,
                   power := { s.power with inReset := false, restore := false, porSeq := false } } ∧
      (s.pwr = 4 → t.pwr = 0) ∧ (s.pwr ≠ 4 → t.pwr = s.pwr) ∧
      (∀ i, i < 131 → t.get calUserKind i = bits (s.peatWord (0x10000 + i)) 31 30 ∧
        t.get calUserValue i = bits (s.peatWord (0x10000 + i)) 15 0) ∧
      (∀ v, s.peat.value 2 = some v → t.reg tbFreeOfs 0 0 = leVal (v.take 4) % 2 ^ 32 ∧
        t.reg tbFreq 0 0 = leVal (v.take 4) % 2 ^ 32) ∧
      (s.power.restore = true → ∀ i, i < 48 → t.get blkRetireMask (i / 12) (i % 12) = s.peatWord (0x20000 + i) % 2 ^ 32) ∧
      (s.power.restore = false → t.retired = s.retired) ∧
      s.regsKept t (fun k => k = pwrState.key 0 0 || k = rvStatus.key 0 0 || k = tbFreeOfs.key 0 0 || k = tbFreq.key 0 0 ||
        (List.range 131).any (fun i => k = calUser.key i 0) ||
        (s.power.restore && ((List.range 48).any (fun i => k = blkRetire.key (i / 12) (i % 12)) ||
          (List.range 4).any fun n => k = rgnBlkret.key n 0)))) ∧
  (∀ s : State, s.mayRelease = false →
    (s.busIdle = true ∨ ((s.power.woken = false ∨ s.pwr ≠ 3) ∧
      (s.power.inReset = false ∨ s.pwr = 3 ∨ s.power.railsOn = 127))) → exec .chipResetRelease s = .next s) ∧
  (∀ s : State, s.sound = true → s.busIdle = false → s.power.inReset = true → s.pwr ≠ 3 → s.power.railsOn ≠ 127 →
    ∃ t, exec .chipResetRelease s = .next t ∧ t.power.railsOn = 127 ∧
      t.power.switched = s.power.switched ++ (List.finRange 7).map (fun r => (r, true)) ∧
      (t.power.inReset = false ↔ s.power.pinLow = false ∧ s.power.perstLow = false ∧ s.power.tripped = false)) ∧
  (∀ s : State, s.sound = true → s.busIdle = false → s.power.inReset = true → s.pwr = 3 → s.power.woken = true →
    ∃ t, exec .chipResetRelease s = .next t ∧ t.power.railsOn = 127 ∧ t.power.woken = false ∧
      t.on rstCauseDormant = true ∧
      (s.power.pinLow = false → s.power.perstLow = false → t.power.inReset = false ∧ t.pwr = 0) ∧
      (s.power.pinLow = true ∨ s.power.perstLow = true → t.power.inReset = true ∧ t.pwr = 4)) ∧
  (∀ (s : State) (w : Who) (n : Fin 4), s.sound = true → s.ordered = true → s.lets w (rstCmd.key 0 0) →
    ((∀ b, b < 12 → (s.seq (12 * n + b)).st.idle = true) →
      ∃ t, exec (.rstRegion w n) s = .next t ∧
        (∀ k r i j hi d, findReg k = some ⟨r, i, j, hi⟩ → r.dom = .region → i = n → Sparse.at t.regs k d = d) ∧
        (∀ b, b < 12 → t.seq (12 * n + b) = {}) ∧ (∀ i, i / 384 = n.val → Sparse.at t.cells i none = none) ∧
        (∀ a, regionMemory n a = true → t.byte a = 0) ∧
        ((∀ e v, e < 16 → v ∈ (s.engine e).waiting →
            match v with | .block b _ _ _ => b / 12 ≠ n.val | .ring => True) →
          (∀ a, regionMemory n a = false → t.byte a = s.byte a) ∧ ∀ i, i / 12 ≠ n.val ∨ 48 ≤ i → t.seq i = s.seq i)) ∧
    ((∃ b, b < 12 ∧ (s.seq (12 * n + b)).st.idle = false) →
      ∃ t, exec (.rstRegion w n) s = .next t ∧ s.refused t w (rstCmd.key 0 0))) ∧
  (∀ (s : State) (w : Who) (n : Fin 4) (blocks : BitVec 12) (ctxs : BitVec 4), s.sound = true → s.ordered = true →
    s.lets w (rstCmd.key 0 0) →
    let named := fun (i : Nat) => (i < 48 ∧ i / 12 = n.val ∧ bit blocks.toNat (i % 12) = true) ∨
      (48 ≤ i ∧ i < 52 ∧ bit ctxs.toNat (i - 48) = true)
    let alive := fun (i : Nat) => (s.seq i).st = .init ∨ (s.seq i).st = .run ∨ (s.seq i).st = .ended
    ∃ t, exec (.rstProgram w n blocks ctxs) s = .next t ∧ t.tb = s.tb ∧
      (∀ i, ¬ named i → (t.seq i).st = (s.seq i).st ∧ (t.seq i).dying = (s.seq i).dying ∧ (t.seq i).pc = (s.seq i).pc) ∧
      (∀ i, named i → alive i → (t.seq i).st = (s.seq i).st ∧ (t.seq i).dying = true ∧ (t.seq i).stopping = false) ∧
      (∀ i, named i → ¬ alive i → (t.seq i).st = .off) ∧
      (blocks = 0 → t = { s with seqs := t.seqs, commits := s.commits.filter fun c => ¬ bit ctxs.toNat c.ctx })) ∧
  (∀ (s : State) (q : SeqId), s.ordered = true →
    let i := SeqId.num q
    ((s.seq i).dying = false ∨ (i < 48 ∧ s.blockQuiet i = false) → exec (.programResetDone q) s = .next s) ∧
    ((s.seq i).dying = true → (i < 48 → s.blockQuiet i = true) →
      ∃ t, exec (.programResetDone q) s = .next t ∧ (t.seq i).st = .off ∧ (t.seq i).dying = false ∧
        (∀ j, j ≠ i → (t.seq j).st = (s.seq j).st) ∧ (48 ≤ i → t = { s with seqs := t.seqs })))

/-! ## Host and tenancies (R242, R350, R353 to R359, R366) -/

/-- R353, R354, R356 to R358, R366: the host port. A link that goes down resets the four functions' registers, ends the
requests to host memory with TERR, drops what the host had asked and raises source 52; a link that comes up shows in
HOST.LINK; a function-level reset returns one function's registers and keeps HOST.LINK, ends its requests to host memory,
disables its rings and stops its context; D3hot is entered; while a CHIP reset is asserted none of these acts. BAR2 reads and
writes the memory its function reaches, behind what is posted or touches the same bytes, answers TERR in STANDBY and refuses the
rest; and TEN.CMD applies a record, returns what a released tenancy held, or answers with the code of the first condition that
fails. That a function-level reset keeps HOST.LINK is the model's reading (log entry 95). -/
def Obligations.HostPort : Prop :=
  (∀ (s : State) (f : Fin 4) (x y : BitVec 4), s.power.inReset = true →
    exec .linkDown s = .next s ∧ exec (.hostLinkUp x y) s = .next s ∧ exec (.functionLevelReset f) s = .next s ∧
      exec (.d3hotEntry f) s = .next s) ∧
  (∀ s : State, s.sound = true → s.power.inReset = false →
    ∃ t, exec .linkDown s = .next t ∧ t.evtOn 52 = true ∧ t.d3hot = 0 ∧ t.hostReads = [] ∧
      t = { s with regs := t.regs, targets := t.targets, holdback := t.holdback, inFlight := t.inFlight, ctls := t.ctls
                   engines := t.engines, responses := t.responses, reqNo := t.reqNo, hostReads := t.hostReads, d3hot := t.d3hot
                   notes := t.notes, msiPend := t.msiPend, msiSent := t.msiSent } ∧
      (∀ f : Fin 4, ∀ k d, (k / 2 ^ 32 = f + 1 ∨ k / 2 ^ 32 = 257 + f) → Sparse.at t.regs k d = d) ∧
      (∀ r ∈ s.targets.flatMap (·.2) ++ s.inFlight, r.target = 2 →
        (∀ v, initUnit r.init = some v → bit (s.get clkGatedMask) v = false) →
        (⟨r.init, r.id, .terr, []⟩ : Resp) ∈ t.responses) ∧
      s.regsKept t (fun k => eventReg k || (decide (2 ^ 32 ≤ k)) || k = fabStatus.key 0 0 || k = fabErrsrc.key 0 0 ||
        k = fabErraddr.key 0 0 || (List.range 128).any fun p => k = mcOcc.key p 0)) ∧
  (∀ (s : State) (width speed : BitVec 4), s.sound = true → s.power.inReset = false →
    (¬ ((width = 1 ∨ width = 2 ∨ width = 4 ∨ width = 8) ∧ 1 ≤ speed.toNat ∧ speed.toNat ≤ 5) →
      exec (.hostLinkUp width speed) s = .next s) ∧
    ((width = 1 ∨ width = 2 ∨ width = 4 ∨ width = 8) → 1 ≤ speed.toNat → speed.toNat ≤ 5 →
      ∃ t, exec (.hostLinkUp width speed) s = .next t ∧ t.evtOn 52 = true ∧
        s.onlyEvents t (fun k => (List.range 4).any fun f => k = hostLink.key f 0) ∧
        ∀ f : Fin 4, t.on hostLinkUp f = true ∧ t.get hostLinkWidth f = width.toNat ∧
          t.get hostLinkSpeed f = speed.toNat)) ∧
  (∀ (s : State) (f : Fin 4), s.sound = true → s.ordered = true → s.power.inReset = false →
    ∃ t, exec (.functionLevelReset f) s = .next t ∧
      t = { s with regs := t.regs, seqs := t.seqs, targets := t.targets, holdback := t.holdback, inFlight := t.inFlight
                   engines := t.engines, responses := t.responses, reqNo := t.reqNo, hostReads := t.hostReads
                   d3hot := s.d3hot &&& ~~~(1#4 <<< f.val), notes := t.notes, msiPend := t.msiPend
                   msiSent := t.msiSent } ∧
      t.get hostLinkUp f = s.get hostLinkUp f ∧ t.get hostLinkWidth f = s.get hostLinkWidth f ∧
      t.get hostLinkSpeed f = s.get hostLinkSpeed f ∧
      (∀ k d, (k / 2 ^ 32 = f + 1 ∨ k / 2 ^ 32 = 257 + f) → k ≠ hostLink.key f 0 → Sparse.at t.regs k d = d) ∧
      (∀ e, e < 16 → s.get mvRingCfgTen e = f → t.on mvRingCfgEnable e = false) ∧
      (∀ e, e < 16 → s.get mvRingCfgTen e ≠ f → t.reg mvRingCfg e 0 = s.reg mvRingCfg e 0) ∧
      ((s.seq (48 + f)).st = .off → t.seq (48 + f) = s.seq (48 + f)) ∧
      ((s.seq (48 + f)).st = .run ∨ (s.seq (48 + f)).st = .ended →
        t.seq (48 + f) = { s.seq (48 + f) with stopping := true }) ∧
      ((s.seq (48 + f)).st ≠ .off → (s.seq (48 + f)).st ≠ .run → (s.seq (48 + f)).st ≠ .ended →
        (t.seq (48 + f)).st = .off) ∧
      (∀ i, i ≠ 48 + f → t.seq i = s.seq i) ∧
      (∀ r ∈ s.targets.flatMap (·.2) ++ s.inFlight, r.target = 2 → r.ten = f.val →
        (∀ v, initUnit r.init = some v → bit (s.get clkGatedMask) v = false) →
        (⟨r.init, r.id, .terr, []⟩ : Resp) ∈ t.responses) ∧
      s.regsKept t (fun k => eventReg k || decide (k / 2 ^ 32 = f + 1 ∨ k / 2 ^ 32 = 257 + f) || k = fabStatus.key 0 0 ||
        k = fabErrsrc.key 0 0 || k = fabErraddr.key 0 0 || (List.range 16).any fun e => k = mvRingCfg.key e 0)) ∧
  (∀ (s : State) (f : Fin 4), s.power.inReset = false →
    exec (.d3hotEntry f) s = .next { s with d3hot := s.d3hot ||| (1#4 <<< f.val) }) ∧
  (∀ (s : State) (f : Fin 4) (o : BitVec 33) (acc : Access),
    s.power.inReset = true ∨ s.pwr = 3 ∨ bit s.d3hot.toNat f = true ∨ accLen acc = 0 ∨ 4096 < accLen acc →
    exec (.bar2Access f o acc) s = .next s) ∧
  (∀ (s : State) (f : Fin 4) (o : BitVec 33) (a n : Nat), s.power.inReset = false → s.pwr ≠ 3 → bit s.d3hot.toNat f = false →
    a = s.get hostApbaseBase f * 2 ^ 30 + o.toNat → 0 < n → n ≤ 4096 →
    let run := exec (.bar2Access f o (.read n)) s
    (s.bar2Allowed f a n = false → run = .next { s with reply := some ⟨0, 0, .unsupported, []⟩ }) ∧
    (s.bar2Allowed f a n = true → s.pwr = 2 → run = .next { s with reply := some ⟨0, 0, .terr, []⟩ }) ∧
    (s.bar2Allowed f a n = true → s.pwr ≠ 2 →
      (s.postedOut = true ∨ s.hostReads ≠ [] → run = .next { s with hostReads := s.hostReads ++ [(f.val, a, n)] }) ∧
      (s.postedOut = false → s.hostReads = [] →
        (s.hostBehind a (.read n) = true → run = .next (s.request 0 1 0 f a (.read n))) ∧
        (s.hostBehind a (.read n) = false →
          let x := (s.useDram f a n).readAccess a n
          run = .next { x.1 with reply := some ⟨0, 0, x.2.1, x.2.2⟩ } ∧
          (s.readable a n → run = .next { s.useDram f a n with reply := some ⟨0, 0, .ok, s.bytes a n⟩ }))))) ∧
  (∀ (s : State) (f : Fin 4) (o : BitVec 33) (a : Nat) (d : List Byte), s.sound = true → s.power.inReset = false →
    s.pwr ≠ 3 → bit s.d3hot.toNat f = false → a = s.get hostApbaseBase f * 2 ^ 30 + o.toNat → d ≠ [] → d.length ≤ 4096 →
    let run := exec (.bar2Access f o (.write d)) s
    (s.bar2Allowed f a d.length = false → ∃ t, run = .next t ∧ s.refused t ⟨.bar2, f⟩ a) ∧
    (s.bar2Allowed f a d.length = true → s.pwr = 2 → run = .next s) ∧
    (s.bar2Allowed f a d.length = true → s.pwr ≠ 2 →
      (s.postedOut = true ∨ s.hostBehind a (.write d) = true → run = .next (s.request 0 0 0 f a (.write d))) ∧
      (s.postedOut = false → s.hostBehind a (.write d) = false →
        run = .next ((s.useDram f a d.length).writeAccess ⟨.bar2, f⟩ a d).1 ∧
        (s.servedRange a d.length → ∃ t, run = .next t ∧
          t = { s.useDram f a d.length with mem := t.mem, marks := t.marks, lines := t.lines } ∧ t.bytes a d.length = d ∧
          s.onlyBytes t a d.length)))) ∧
  (∀ (s : State) (w : Who), s.lets w (tenCmd.key 0 0) → exec (.tenCmd w 0) s = .next s) ∧
  (∀ (s : State) (w : Who) (n : Fin 4) (x : TenRec), s.sound = true → s.ordered = true → n ≠ 0 →
    s.lets w (tenCmd.key 0 0) → x = parseTen ((List.range 8).flatMap fun i => leBytes 4 (s.get tenRecWord i)) →
    let own := fun (k : Nat) => k = tenStat.key 0 0 ∨ k = tenBlocks.key n 0 ∨ k = tenFlows.key n 0 ∨ k = tenDram.key n 0 ∨
      k = tenReserve.key n 0 ∨ k = tenState.key n 0 ∨ k = mireCfg.key 0 0
    (s.tenRefusal n x = 0 → x.assign = true →
      ∃ t, exec (.tenCmd w n) s = .next t ∧ s.onlyEvents t (fun k => decide (own k)) ∧ t.get tenStatResult = 0 ∧
        t.on tenStateAssigned n = true ∧ t.get tenBlocksMask n = x.blocks ∧ t.get tenFlowsBase n = x.fbase ∧
        t.get tenFlowsCount n = x.fcount ∧ t.get tenDramBase n = x.dbase ∧ t.get tenDramSize n = x.dsize ∧
        t.reg tenReserve n 0 = x.reserve ∧ bit (t.get mireCfgAllow) n = x.mire ∧
        (∀ m : Fin 4, m ≠ n → bit (t.get mireCfgAllow) m = bit (s.get mireCfgAllow) m) ∧ t.evtOn 54 = true) ∧
    (s.tenRefusal n x = 0 → x.assign = false →
      ∃ t, exec (.tenCmd w n) s = .next t ∧ t.get tenStatResult = 0 ∧ t.on tenStateAssigned n = false ∧
        t.get tenBlocksMask n = 0 ∧ t.get tenFlowsCount n = 0 ∧ t.get tenDramSize n = 0 ∧ t.reg tenReserve n 0 = 0 ∧
        bit (t.get mireCfgAllow) n = false ∧ t.get mireKeepCfgSlots n = 0 ∧ t.evtOn 54 = true ∧
        (s.evtClass 54 ≠ 2 → t.noteQ n = {}) ∧
        (∀ k, k < 64 → s.get sealSlotTen k = n → t.keys.at k none = none ∧ t.on sealSlotValid k = false) ∧
        (∀ k, (64 ≤ k ∨ s.get sealSlotTen k ≠ n) → t.keys.at k none = s.keys.at k none) ∧
        (∀ b, b < 256 → s.get beamCfgTen b = n → t.on beamCfgVolt b = false ∧ t.on beamCfgPower b = false ∧
          t.on beamCfgWatch b = false ∧ t.get beamCfgTen b = 0) ∧
        (∀ b, b < 256 → s.get beamCfgTen b ≠ n → t.reg beamCfg b 0 = s.reg beamCfg b 0) ∧
        (∀ k, k < 64 → s.get sealSlotTen k ≠ n → t.reg sealSlot k 0 = s.reg sealSlot k 0) ∧
        State.onlyEvents { s with keys := t.keys } t (fun k => decide (own k) || k = mireKeepCfg.key n 0 ||
          ((List.range 64).any fun i => k = sealSlot.key i 0) || (List.range 256).any fun i => k = beamCfg.key i 0)) ∧
    (s.tenRefusal n x ≠ 0 →
      ∃ t, exec (.tenCmd w n) s = .next t ∧ t.get tenStatResult = s.tenRefusal n x ∧
        State.refused (s.set tenStatResult (s.tenRefusal n x)) t w (tenCmd.key 0 0)))

/-! ## Events (R363 to R366) -/

/-- R363, R364: events. A listed source that is raised has its status set, and a source the map does not list takes nothing;
enabled, a fatal one drives NMI_N and a pin one IRQ_N, a rising edge sends its MSI-X message or holds it where it is masked, one
routed to a context shows there, and one routed to a note queue posts its note; an enable write takes the listed sources of its
writer but the first eight, which read 1, and delivers what is already set; clearing a mask sends what it held; and MSI-X Enable,
or the return to D0, sends or holds what is live. -/
def Obligations.EventsDeliver : Prop :=
  (∀ (s : State) (w : Who) (x : BitVec 9), s.lets w (Sys2Proof.Machine.evtRaise.key 0 0) → evtListed x.toNat = false →
    exec (.evtRaise w x) s = .next s) ∧
  (∀ (s : State) (w : Who) (x : BitVec 9) (f v : Nat), s.sound = true → s.ordered = true →
    s.lets w (Sys2Proof.Machine.evtRaise.key 0 0) → evtListed x.toNat = true → f = s.get evtCfgFn x.toNat →
    v = s.get evtCfgVec x.toNat →
    ∃ t, exec (.evtRaise w x) s = .next t ∧ s.onlyEvents t noReg ∧ t.evtOn x.toNat = true ∧
      (s.evtEnabled x.toNat = true →
        (s.evtClass x.toNat = 0 → t.nmi = true) ∧
        (s.evtClass x.toNat = 1 → s.evtTarget x.toNat = 0 → t.irq = true) ∧
        (s.evtClass x.toNat = 1 → s.evtTarget x.toNat = 2 → ∃ i, t.evtCnd f = some i ∧ i ≤ x.toNat) ∧
        (s.evtOn x.toNat = false → s.evtClass x.toNat = 1 → s.evtTarget x.toNat = 1 → s.msixOn f = true →
          (s.on pciMsixMask f = false → s.msixMasked f v = false → t.msiSent = s.msiSent ++ [(f, v)] ∧
            t.msiPend = s.msiPend) ∧
          (s.on pciMsixMask f = true ∨ s.msixMasked f v = true → (f, x.toNat) ∈ t.msiPend ∧ t.msiSent = s.msiSent)) ∧
        (s.evtOn x.toNat = false → s.evtClass x.toNat = 2 → (s.noteQ f).used + 2 ≤ 2048 →
          (⟨2, 3, [BitVec.ofNat 32 x.toNat]⟩ : Note) ∈ (t.noteQ f).notes))) ∧
  (∀ (s : State) (w : Who) (k : Fin 16) (v : Word), s.sound = true → s.reachable w (evtEn.key k 0) = true →
    s.unanswered (evtEn.key k 0) = false →
    let src := fun (j : Nat) => 32 * k.val + j
    let own := fun (j : Nat) => evtListed (src j) = true ∧ (w.fn = 0 ∨ s.evtOwn (src j) = w.fn.val)
    (s.admitted w (evtEn.key k 0) = false → ∃ t, exec (.evtEnableWrite w k v) s = .next t ∧ s.refused t w (evtEn.key k 0)) ∧
    (s.admitted w (evtEn.key k 0) = true →
      ∃ t, exec (.evtEnableWrite w k v) s = .next t ∧ s.onlyEvents t (fun x => x = evtEn.key k 0) ∧
        (∀ j, j < 32 → src j < 8 → bit (t.reg evtEn k 0) j = true) ∧
        (∀ j, j < 32 → 8 ≤ src j → own j → bit (t.reg evtEn k 0) j = bit v.toNat j) ∧
        (∀ j, j < 32 → 8 ≤ src j → ¬ own j → bit (t.reg evtEn k 0) j = bit (s.reg evtEn k 0) j) ∧
        (∀ j, j < 32 → s.evtOn (src j) = true → t.evtOn (src j) = true) ∧
        (∀ j, j < 32 → own j → s.evtOn (src j) = true → bit (s.reg evtEn k 0) j = false → bit v.toNat j = true →
          s.evtClass (src j) = 1 → s.evtTarget (src j) = 1 → s.msixOn (s.get evtCfgFn (src j)) = true →
          (s.on pciMsixMask (s.get evtCfgFn (src j)) = false →
            s.msixMasked (s.get evtCfgFn (src j)) (s.get evtCfgVec (src j)) = false →
            (s.get evtCfgFn (src j), s.get evtCfgVec (src j)) ∈ t.msiSent) ∧
          (s.on pciMsixMask (s.get evtCfgFn (src j)) = true ∨
              s.msixMasked (s.get evtCfgFn (src j)) (s.get evtCfgVec (src j)) = true →
            (s.get evtCfgFn (src j), src j) ∈ t.msiPend)))) ∧
  (∀ (s : State) (f : Fin 4) (v : Option (BitVec 9)) (d0 : Bool), s.power.inReset = true →
    exec (.msixUnmask f v) s = .next s ∧ exec (.msixEnable f d0) s = .next s) ∧
  (∀ (s : State) (f : Fin 4) (v : BitVec 9), s.sound = true → s.power.inReset = false →
    ∃ t, exec (.msixUnmask f (some v)) s = .next t ∧
      t = { s with regs := t.regs, msiPend := t.msiPend, msiSent := t.msiSent } ∧ t.msixMasked f v.toNat = false ∧
      s.regsKept t (fun k => k = msixEntry.key f (4 * v.toNat + 3)) ∧
      (∀ p ∈ s.msiPend, p.1 ≠ f.val → p ∈ t.msiPend) ∧
      ∀ x, (f.val, x) ∈ s.msiPend → s.get evtCfgVec x = v.toNat → s.msixOn f = true → s.on pciMsixMask f = false →
        (f.val, v.toNat) ∈ t.msiSent ∧ (f.val, x) ∉ t.msiPend) ∧
  (∀ (s : State) (f : Fin 4), s.sound = true → s.power.inReset = false →
    ∃ t, exec (.msixUnmask f none) s = .next t ∧
      t = { s with regs := t.regs, msiPend := t.msiPend, msiSent := t.msiSent } ∧ t.on pciMsixMask f = false ∧
      s.regsKept t (fun k => k = pciMsix.key f 0) ∧ (∀ p ∈ s.msiPend, p.1 ≠ f.val → p ∈ t.msiPend) ∧
      ∀ x, (f.val, x) ∈ s.msiPend → s.msixOn f = true → s.msixMasked f (s.get evtCfgVec x) = false →
        (f.val, s.get evtCfgVec x) ∈ t.msiSent ∧ (f.val, x) ∉ t.msiPend) ∧
  (∀ (s : State) (f : Fin 4), s.sound = true → s.power.inReset = false →
    let live := fun (x : Nat) => x < 512 ∧ s.evtOn x = true ∧ s.evtEnabled x = true ∧ s.evtClass x = 1 ∧
      s.evtTarget x = 1 ∧ s.get evtCfgFn x = f.val
    let posted := fun (t : State) => ∀ x, live x →
      (s.on pciMsixMask f = false → s.msixMasked f (s.get evtCfgVec x) = false →
        (f.val, s.get evtCfgVec x) ∈ t.msiSent) ∧
      (s.on pciMsixMask f = true ∨ s.msixMasked f (s.get evtCfgVec x) = true → (f.val, x) ∈ t.msiPend)
    (s.on pciMsixEnable f = true → exec (.msixEnable f false) s = .next s) ∧
    (s.on pciMsixEnable f = false → ∃ t, exec (.msixEnable f false) s = .next t ∧
      t = { s with regs := t.regs, msiPend := t.msiPend, msiSent := t.msiSent } ∧ t.on pciMsixEnable f = true ∧
      s.regsKept t (fun k => k = pciMsix.key f 0) ∧ t.on pciMsixMask f = s.on pciMsixMask f ∧
      (bit s.d3hot.toNat f = false → posted t)) ∧
    (bit s.d3hot.toNat f = false → exec (.msixEnable f true) s = .next s) ∧
    (bit s.d3hot.toNat f = true → ∃ t, exec (.msixEnable f true) s = .next t ∧
      t = { s with d3hot := s.d3hot &&& ~~~(1#4 <<< f.val), msiPend := t.msiPend, msiSent := t.msiSent } ∧
      (s.on pciMsixEnable f = true → posted t) ∧
      (s.on pciMsixEnable f = false → t.msiPend = s.msiPend ∧ t.msiSent = s.msiSent)))

/-! ## The stores stay sound -/

/-- The state after reset is sound and in order, with nothing in the queue, no lease held, the four domains on FIO, the timebase
in FREERUN without a reference, every port DARK, every program OFF and the JTAG controller in Test-Logic-Reset with BYPASS in
force (R26, R65, R185, R303, R320, R329, R382). The reset state is log entry 4's. -/
def Obligations.ResetIsSound : Prop :=
  State.reset.sound = true ∧ State.reset.ordered = true ∧ State.reset.pending = [] ∧ State.reset.holder = none ∧
    State.reset.get clkSrcDom = 15 ∧ State.reset.get tbStateState = 0 ∧ State.reset.get tbStateCur = 3 ∧
    (∀ n, n < 8 → State.reset.pstate n = 0) ∧ (∀ i, i < 52 → (State.reset.seq i).st = .off) ∧
    State.reset.on tickCtrlRun = false ∧ State.reset.jtag = ⟨.testLogicReset, .bypass⟩

/-- Every step keeps a sound state sound: whatever command is at the front, the memory and the word marks stay in canonical
form and no register is listed twice. -/
def Obligations.StepKeepsSound : Prop :=
  ∀ s t : State, s.sound = true → step s = .next t → t.sound = true

/-- Every step from a sound state keeps its stores in order: no store lists a key twice, a vector register keeps its 32 lanes and
a staged flow context its 16 bytes, the Peat store is empty or its active half committed, and the time of day is short of the
next second. -/
def Obligations.StepKeepsOrder : Prop :=
  ∀ s t : State, s.sound = true → s.ordered = true → step s = .next t → t.ordered = true

end
end

