-- ==== Sys2Proof/Laws/Sparse.lean ====
section
/-! SUPPORT. The laws of sparse stores: what is read after a write, and that every operation keeps the canonical form. -/

namespace Sys2Proof

variable {α : Type} [DecidableEq α]

/-- A key below every key of the list. -/
def Sparse.above (k : Nat) (l : Sparse α) : Prop := ∀ e ∈ l, k < e.1

theorem Sparse.wf_cons {k : Nat} {v d : α} {r : Sparse α} :
    Sparse.wf ((k, v) :: r) d = true ↔ v ≠ d ∧ Sparse.above k r ∧ Sparse.wf r d = true := by
  induction r generalizing k v with
  | nil => simp [Sparse.wf, Sparse.above]
  | cons e r ih =>
    obtain ⟨k', v'⟩ := e
    rw [Sparse.wf]
    simp only [Bool.and_eq_true, decide_eq_true_eq]
    constructor
    · rintro ⟨⟨hv, hk⟩, hr⟩
      refine ⟨hv, ?_, hr⟩
      have := (ih.mp hr).2.1
      intro e he
      rcases List.mem_cons.mp he with rfl | he
      · exact hk
      · exact lt_trans hk (this e he)
    · rintro ⟨hv, ha, hr⟩
      exact ⟨⟨hv, ha (k', v') (List.mem_cons_self ..)⟩, hr⟩

omit [DecidableEq α] in
theorem Sparse.at_above {k : Nat} {l : Sparse α} {d : α} (h : Sparse.above k l) : Sparse.at l k d = d := by
  induction l with
  | nil => rfl
  | cons e r ih =>
    obtain ⟨k', v'⟩ := e
    have h1 : k < k' := h (k', v') (List.mem_cons_self ..)
    rw [Sparse.at, if_neg (by omega)]
    exact ih fun e he => h e (List.mem_cons_of_mem _ he)

omit [DecidableEq α] in
theorem Sparse.rising_cons {k : Nat} {v : α} {r : Sparse α} :
    Sparse.rising ((k, v) :: r) = true ↔ Sparse.above k r ∧ Sparse.rising r = true := by
  induction r generalizing k v with
  | nil => simp [Sparse.rising, Sparse.above]
  | cons e r ih =>
    obtain ⟨k', v'⟩ := e
    rw [Sparse.rising]
    simp only [Bool.and_eq_true, decide_eq_true_eq]
    constructor
    · rintro ⟨hk, hr⟩
      refine ⟨?_, hr⟩
      intro e he
      rcases List.mem_cons.mp he with rfl | he
      · exact hk
      · exact lt_trans hk ((ih.mp hr).1 e he)
    · rintro ⟨ha, hr⟩
      exact ⟨ha (k', v') (List.mem_cons_self ..), hr⟩

/-- A canonical store lists no key twice. -/
theorem Sparse.wf_rising {l : Sparse α} {d : α} (h : Sparse.wf l d = true) : Sparse.rising l = true := by
  induction l with
  | nil => rfl
  | cons e r ih => exact Sparse.rising_cons.mpr ⟨(Sparse.wf_cons.mp h).2.1, ih (Sparse.wf_cons.mp h).2.2⟩

/-- A written key reads what was written. -/
theorem Sparse.at_put_same {l : Sparse α} {k : Nat} {v d : α} (h : Sparse.rising l = true) :
    Sparse.at (Sparse.put l k v d) k d = v := by
  induction l with
  | nil => by_cases hv : v = d <;> simp [Sparse.put, Sparse.at, hv]
  | cons e r ih =>
    obtain ⟨k', v'⟩ := e
    obtain ⟨ha, hr⟩ := Sparse.rising_cons.mp h
    rw [Sparse.put]
    split
    · next hk => rw [Sparse.at, if_neg (by omega)]; exact ih hr
    · split
      · next hk =>
        subst hk
        split
        · next hv => subst hv; exact Sparse.at_above ha
        · simp [Sparse.at]
      · next h1 h2 =>
        split
        · next hv =>
          subst hv
          rw [Sparse.at, if_neg (by omega)]
          exact Sparse.at_above fun e he => lt_trans (by omega) (ha e he)
        · simp [Sparse.at]

/-- Another key reads what it read, whichever default it is read with. -/
theorem Sparse.at_put_other' {l : Sparse α} {k k' : Nat} {v d d' : α} (hk : k' ≠ k) :
    Sparse.at (Sparse.put l k v d) k' d' = Sparse.at l k' d' := by
  induction l with
  | nil => by_cases hv : v = d <;> simp [Sparse.put, Sparse.at, hv, Ne.symm hk]
  | cons e r ih =>
    obtain ⟨k1, v1⟩ := e
    rw [Sparse.put]
    split
    · rw [Sparse.at, Sparse.at, ih]
    · split
      · next h =>
        subst h
        split
        · rw [Sparse.at, if_neg (Ne.symm hk)]
        · rw [Sparse.at, Sparse.at, if_neg (Ne.symm hk), if_neg (Ne.symm hk)]
      · split
        · rfl
        · rw [Sparse.at, if_neg (Ne.symm hk)]

/-- Another key reads what it read. -/
theorem Sparse.at_put_other {l : Sparse α} {k k' : Nat} {v d : α} (hk : k' ≠ k) :
    Sparse.at (Sparse.put l k v d) k' d = Sparse.at l k' d := Sparse.at_put_other' hk

theorem Sparse.above_put {l : Sparse α} {k j : Nat} {v d : α} (h : Sparse.above j l) (hk : j < k) :
    Sparse.above j (Sparse.put l k v d) := by
  induction l with
  | nil => by_cases hv : v = d <;> simp [Sparse.put, Sparse.above, hv, hk]
  | cons e r ih =>
    obtain ⟨k1, v1⟩ := e
    have h1 : j < k1 := h (k1, v1) (List.mem_cons_self ..)
    have h2 : Sparse.above j r := fun e he => h e (List.mem_cons_of_mem _ he)
    intro e he
    rw [Sparse.put] at he
    split at he
    · rcases List.mem_cons.mp he with rfl | he
      · exact h1
      · exact ih h2 e he
    · split at he
      · split at he
        · exact h2 e he
        · rcases List.mem_cons.mp he with rfl | he
          · exact hk
          · exact h2 e he
      · split at he
        · exact h e he
        · rcases List.mem_cons.mp he with rfl | he
          · exact hk
          · exact h e he

/-- A write keeps the canonical form. -/
theorem Sparse.wf_put {l : Sparse α} {k : Nat} {v d : α} (h : Sparse.wf l d = true) :
    Sparse.wf (Sparse.put l k v d) d = true := by
  induction l with
  | nil => by_cases hv : v = d <;> simp [Sparse.put, Sparse.wf, hv]
  | cons e r ih =>
    obtain ⟨k', v'⟩ := e
    obtain ⟨hv', ha, hr⟩ := Sparse.wf_cons.mp h
    rw [Sparse.put]
    split
    · next hk => exact Sparse.wf_cons.mpr ⟨hv', Sparse.above_put ha hk, ih hr⟩
    · split
      · next hk =>
        subst hk
        split
        · exact hr
        · next hv => exact Sparse.wf_cons.mpr ⟨hv, ha, hr⟩
      · next h1 h2 =>
        split
        · exact h
        · next hv =>
          refine Sparse.wf_cons.mpr ⟨hv, ?_, h⟩
          intro e he
          rcases List.mem_cons.mp he with rfl | he
          · show k < k'; omega
          · exact lt_trans (by omega) (ha e he)

/-- A write keeps the keys rising. -/
theorem Sparse.rising_put {l : Sparse α} {k : Nat} {v d : α} (h : Sparse.rising l = true) :
    Sparse.rising (Sparse.put l k v d) = true := by
  induction l with
  | nil => by_cases hv : v = d <;> simp [Sparse.put, Sparse.rising, hv]
  | cons e r ih =>
    obtain ⟨k', v'⟩ := e
    obtain ⟨ha, hr⟩ := Sparse.rising_cons.mp h
    rw [Sparse.put]
    split
    · next hk => exact Sparse.rising_cons.mpr ⟨Sparse.above_put ha hk, ih hr⟩
    · split
      · next hk =>
        subst hk
        split
        · exact hr
        · exact Sparse.rising_cons.mpr ⟨ha, hr⟩
      · next h1 h2 =>
        split
        · exact h
        · refine Sparse.rising_cons.mpr ⟨?_, h⟩
          intro e he
          rcases List.mem_cons.mp he with rfl | he
          · show k < k'; omega
          · exact lt_trans (by omega) (ha e he)

omit [DecidableEq α] in
/-- Leaving entries out keeps the keys rising. -/
theorem Sparse.rising_filter {l : Sparse α} (p : Nat × α → Bool) (h : Sparse.rising l = true) :
    Sparse.rising (List.filter p l) = true := by
  induction l with
  | nil => rfl
  | cons e r ih =>
    obtain ⟨k', v'⟩ := e
    obtain ⟨ha, hr⟩ := Sparse.rising_cons.mp h
    rw [List.filter]
    split
    · exact Sparse.rising_cons.mpr ⟨fun e he => ha e (List.mem_of_mem_filter he), ih hr⟩
    · exact ih hr

/-- Leaving entries out keeps the canonical form. -/
theorem Sparse.wf_filter {l : Sparse α} {d : α} (p : Nat × α → Bool) (h : Sparse.wf l d = true) :
    Sparse.wf (List.filter p l) d = true := by
  induction l with
  | nil => rfl
  | cons e r ih =>
    obtain ⟨k', v'⟩ := e
    obtain ⟨hv', ha, hr⟩ := Sparse.wf_cons.mp h
    rw [List.filter]
    split
    · exact Sparse.wf_cons.mpr ⟨hv', fun e he => ha e (List.mem_of_mem_filter he), ih hr⟩
    · exact ih hr

theorem Sparse.wf_drop {l : Sparse α} {d : α} (p : Nat → Bool) (h : Sparse.wf l d = true) :
    Sparse.wf (Sparse.drop l p) d = true := Sparse.wf_filter _ h

omit [DecidableEq α] in
/-- A key that is not dropped reads what it read. -/
theorem Sparse.at_drop_keep {l : Sparse α} {k : Nat} {d : α} (p : Nat → Bool) (h : p k = false) :
    Sparse.at (Sparse.drop l p) k d = Sparse.at l k d := by
  induction l with
  | nil => rfl
  | cons e r ih =>
    obtain ⟨k', v'⟩ := e
    simp only [Sparse.drop, List.filter] at ih ⊢
    by_cases hk : k' = k
    · subst hk; simp [h, Sparse.at]
    · split
      · rw [Sparse.at, Sparse.at, if_neg hk, if_neg hk]; exact ih
      · rw [Sparse.at, if_neg hk]; exact ih

omit [DecidableEq α] in
/-- A dropped key reads the default. -/
theorem Sparse.at_drop_gone {l : Sparse α} {k : Nat} {d : α} (p : Nat → Bool) (h : p k = true) :
    Sparse.at (Sparse.drop l p) k d = d := by
  induction l with
  | nil => rfl
  | cons e r ih =>
    obtain ⟨k', v'⟩ := e
    simp only [Sparse.drop, List.filter] at ih ⊢
    by_cases hk : k' = k
    · subst hk; simp only [h]; exact ih
    · split
      · rw [Sparse.at, if_neg hk]; exact ih
      · exact ih

end Sys2Proof
end

