-- ==== Sys2Proof/Laws/State.lean ====
section
/-! SUPPORT. What each plain update of the state leaves in every field. -/

namespace Sys2Proof.Machine

variable (s : State)

/-! ## `State.setReg` -/

@[simp] theorem State.setReg_mem (r : RegDef) (i j v : Nat) : (s.setReg r i j v).mem = s.mem := rfl
@[simp] theorem State.setReg_marks (r : RegDef) (i j v : Nat) : (s.setReg r i j v).marks = s.marks := rfl
@[simp] theorem State.setReg_lines (r : RegDef) (i j v : Nat) : (s.setReg r i j v).lines = s.lines := rfl
@[simp] theorem State.setReg_gain (r : RegDef) (i j v : Nat) : (s.setReg r i j v).gain = s.gain := rfl
@[simp] theorem State.setReg_badGain (r : RegDef) (i j v : Nat) : (s.setReg r i j v).badGain = s.badGain := rfl
@[simp] theorem State.setReg_poly (r : RegDef) (i j v : Nat) : (s.setReg r i j v).poly = s.poly := rfl
@[simp] theorem State.setReg_c0 (r : RegDef) (i j v : Nat) : (s.setReg r i j v).c0 = s.c0 := rfl
@[simp] theorem State.setReg_f0 (r : RegDef) (i j v : Nat) : (s.setReg r i j v).f0 = s.f0 := rfl
@[simp] theorem State.setReg_coef (r : RegDef) (i j v : Nat) : (s.setReg r i j v).coef = s.coef := rfl
@[simp] theorem State.setReg_thr (r : RegDef) (i j v : Nat) : (s.setReg r i j v).thr = s.thr := rfl
@[simp] theorem State.setReg_weighted (r : RegDef) (i j v : Nat) : (s.setReg r i j v).weighted = s.weighted := rfl
@[simp] theorem State.setReg_filling (r : RegDef) (i j v : Nat) : (s.setReg r i j v).filling = s.filling := rfl
@[simp] theorem State.setReg_cycle (r : RegDef) (i j v : Nat) : (s.setReg r i j v).cycle = s.cycle := rfl
@[simp] theorem State.setReg_nsHold (r : RegDef) (i j v : Nat) : (s.setReg r i j v).nsHold = s.nsHold := rfl
@[simp] theorem State.setReg_tick (r : RegDef) (i j v : Nat) : (s.setReg r i j v).tick = s.tick := rfl
@[simp] theorem State.setReg_ports (r : RegDef) (i j v : Nat) : (s.setReg r i j v).ports = s.ports := rfl
@[simp] theorem State.setReg_streams (r : RegDef) (i j v : Nat) : (s.setReg r i j v).streams = s.streams := rfl
@[simp] theorem State.setReg_chains (r : RegDef) (i j v : Nat) : (s.setReg r i j v).chains = s.chains := rfl
@[simp] theorem State.setReg_hold (r : RegDef) (i j v : Nat) : (s.setReg r i j v).hold = s.hold := rfl
@[simp] theorem State.setReg_released (r : RegDef) (i j v : Nat) : (s.setReg r i j v).released = s.released := rfl
@[simp] theorem State.setReg_feActive (r : RegDef) (i j v : Nat) : (s.setReg r i j v).feActive = s.feActive := rfl
@[simp] theorem State.setReg_dcClear (r : RegDef) (i j v : Nat) : (s.setReg r i j v).dcClear = s.dcClear := rfl
@[simp] theorem State.setReg_counts (r : RegDef) (i j v : Nat) : (s.setReg r i j v).counts = s.counts := rfl
@[simp] theorem State.setReg_countsNext (r : RegDef) (i j v : Nat) : (s.setReg r i j v).countsNext = s.countsNext := rfl
@[simp] theorem State.setReg_snapshot (r : RegDef) (i j v : Nat) : (s.setReg r i j v).snapshot = s.snapshot := rfl
@[simp] theorem State.setReg_linkloss (r : RegDef) (i j v : Nat) : (s.setReg r i j v).linkloss = s.linkloss := rfl
@[simp] theorem State.setReg_formed (r : RegDef) (i j v : Nat) : (s.setReg r i j v).formed = s.formed := rfl
@[simp] theorem State.setReg_staging (r : RegDef) (i j v : Nat) : (s.setReg r i j v).staging = s.staging := rfl
@[simp] theorem State.setReg_twins (r : RegDef) (i j v : Nat) : (s.setReg r i j v).twins = s.twins := rfl
@[simp] theorem State.setReg_engines (r : RegDef) (i j v : Nat) : (s.setReg r i j v).engines = s.engines := rfl
@[simp] theorem State.setReg_mire (r : RegDef) (i j v : Nat) : (s.setReg r i j v).mire = s.mire := rfl
@[simp] theorem State.setReg_begun (r : RegDef) (i j v : Nat) : (s.setReg r i j v).begun = s.begun := rfl
@[simp] theorem State.setReg_bufTags (r : RegDef) (i j v : Nat) : (s.setReg r i j v).bufTags = s.bufTags := rfl
@[simp] theorem State.setReg_seqs (r : RegDef) (i j v : Nat) : (s.setReg r i j v).seqs = s.seqs := rfl
@[simp] theorem State.setReg_cells (r : RegDef) (i j v : Nat) : (s.setReg r i j v).cells = s.cells := rfl
@[simp] theorem State.setReg_cellLost (r : RegDef) (i j v : Nat) : (s.setReg r i j v).cellLost = s.cellLost := rfl
@[simp] theorem State.setReg_parity (r : RegDef) (i j v : Nat) : (s.setReg r i j v).parity = s.parity := rfl
@[simp] theorem State.setReg_retired (r : RegDef) (i j v : Nat) : (s.setReg r i j v).retired = s.retired := rfl
@[simp] theorem State.setReg_stand (r : RegDef) (i j v : Nat) : (s.setReg r i j v).stand = s.stand := rfl
@[simp] theorem State.setReg_redos (r : RegDef) (i j v : Nat) : (s.setReg r i j v).redos = s.redos := rfl
@[simp] theorem State.setReg_merges (r : RegDef) (i j v : Nat) : (s.setReg r i j v).merges = s.merges := rfl
@[simp] theorem State.setReg_releases (r : RegDef) (i j v : Nat) : (s.setReg r i j v).releases = s.releases := rfl
@[simp] theorem State.setReg_closes (r : RegDef) (i j v : Nat) : (s.setReg r i j v).closes = s.closes := rfl
@[simp] theorem State.setReg_norms (r : RegDef) (i j v : Nat) : (s.setReg r i j v).norms = s.norms := rfl
@[simp] theorem State.setReg_restarts (r : RegDef) (i j v : Nat) : (s.setReg r i j v).restarts = s.restarts := rfl
@[simp] theorem State.setReg_slacks (r : RegDef) (i j v : Nat) : (s.setReg r i j v).slacks = s.slacks := rfl
@[simp] theorem State.setReg_wbuf (r : RegDef) (i j v : Nat) : (s.setReg r i j v).wbuf = s.wbuf := rfl
@[simp] theorem State.setReg_commits (r : RegDef) (i j v : Nat) : (s.setReg r i j v).commits = s.commits := rfl
@[simp] theorem State.setReg_beams (r : RegDef) (i j v : Nat) : (s.setReg r i j v).beams = s.beams := rfl
@[simp] theorem State.setReg_periods (r : RegDef) (i j v : Nat) : (s.setReg r i j v).periods = s.periods := rfl
@[simp] theorem State.setReg_beamActive (r : RegDef) (i j v : Nat) : (s.setReg r i j v).beamActive = s.beamActive := rfl
@[simp] theorem State.setReg_alerts (r : RegDef) (i j v : Nat) : (s.setReg r i j v).alerts = s.alerts := rfl
@[simp] theorem State.setReg_emitted (r : RegDef) (i j v : Nat) : (s.setReg r i j v).emitted = s.emitted := rfl
@[simp] theorem State.setReg_watchDone (r : RegDef) (i j v : Nat) : (s.setReg r i j v).watchDone = s.watchDone := rfl
@[simp] theorem State.setReg_prods (r : RegDef) (i j v : Nat) : (s.setReg r i j v).prods = s.prods := rfl
@[simp] theorem State.setReg_egress (r : RegDef) (i j v : Nat) : (s.setReg r i j v).egress = s.egress := rfl
@[simp] theorem State.setReg_flowStage (r : RegDef) (i j v : Nat) : (s.setReg r i j v).flowStage = s.flowStage := rfl
@[simp] theorem State.setReg_flowStart (r : RegDef) (i j v : Nat) : (s.setReg r i j v).flowStart = s.flowStart := rfl
@[simp] theorem State.setReg_stagedNo (r : RegDef) (i j v : Nat) : (s.setReg r i j v).stagedNo = s.stagedNo := rfl
@[simp] theorem State.setReg_sent (r : RegDef) (i j v : Nat) : (s.setReg r i j v).sent = s.sent := rfl
@[simp] theorem State.setReg_notes (r : RegDef) (i j v : Nat) : (s.setReg r i j v).notes = s.notes := rfl
@[simp] theorem State.setReg_msiPend (r : RegDef) (i j v : Nat) : (s.setReg r i j v).msiPend = s.msiPend := rfl
@[simp] theorem State.setReg_msiSent (r : RegDef) (i j v : Nat) : (s.setReg r i j v).msiSent = s.msiSent := rfl
@[simp] theorem State.setReg_targets (r : RegDef) (i j v : Nat) : (s.setReg r i j v).targets = s.targets := rfl
@[simp] theorem State.setReg_holdback (r : RegDef) (i j v : Nat) : (s.setReg r i j v).holdback = s.holdback := rfl
@[simp] theorem State.setReg_inFlight (r : RegDef) (i j v : Nat) : (s.setReg r i j v).inFlight = s.inFlight := rfl
@[simp] theorem State.setReg_responses (r : RegDef) (i j v : Nat) : (s.setReg r i j v).responses = s.responses := rfl
@[simp] theorem State.setReg_hostCut (r : RegDef) (i j v : Nat) : (s.setReg r i j v).hostCut = s.hostCut := rfl
@[simp] theorem State.setReg_reqNo (r : RegDef) (i j v : Nat) : (s.setReg r i j v).reqNo = s.reqNo := rfl
@[simp] theorem State.setReg_silent (r : RegDef) (i j v : Nat) : (s.setReg r i j v).silent = s.silent := rfl
@[simp] theorem State.setReg_hostReads (r : RegDef) (i j v : Nat) : (s.setReg r i j v).hostReads = s.hostReads := rfl
@[simp] theorem State.setReg_ctls (r : RegDef) (i j v : Nat) : (s.setReg r i j v).ctls = s.ctls := rfl
@[simp] theorem State.setReg_delays (r : RegDef) (i j v : Nat) : (s.setReg r i j v).delays = s.delays := rfl
@[simp] theorem State.setReg_training (r : RegDef) (i j v : Nat) : (s.setReg r i j v).training = s.training := rfl
@[simp] theorem State.setReg_trainArmed (r : RegDef) (i j v : Nat) : (s.setReg r i j v).trainArmed = s.trainArmed := rfl
@[simp] theorem State.setReg_throttled (r : RegDef) (i j v : Nat) : (s.setReg r i j v).throttled = s.throttled := rfl
@[simp] theorem State.setReg_used (r : RegDef) (i j v : Nat) : (s.setReg r i j v).used = s.used := rfl
@[simp] theorem State.setReg_logs (r : RegDef) (i j v : Nat) : (s.setReg r i j v).logs = s.logs := rfl
@[simp] theorem State.setReg_ceRecent (r : RegDef) (i j v : Nat) : (s.setReg r i j v).ceRecent = s.ceRecent := rfl
@[simp] theorem State.setReg_scrubs (r : RegDef) (i j v : Nat) : (s.setReg r i j v).scrubs = s.scrubs := rfl
@[simp] theorem State.setReg_corrections (r : RegDef) (i j v : Nat) : (s.setReg r i j v).corrections = s.corrections := rfl
@[simp] theorem State.setReg_keys (r : RegDef) (i j v : Nat) : (s.setReg r i j v).keys = s.keys := rfl
@[simp] theorem State.setReg_keyStage (r : RegDef) (i j v : Nat) : (s.setReg r i j v).keyStage = s.keyStage := rfl
@[simp] theorem State.setReg_gating (r : RegDef) (i j v : Nat) : (s.setReg r i j v).gating = s.gating := rfl
@[simp] theorem State.setReg_tb (r : RegDef) (i j v : Nat) : (s.setReg r i j v).tb = s.tb := rfl
@[simp] theorem State.setReg_refs (r : RegDef) (i j v : Nat) : (s.setReg r i j v).refs = s.refs := rfl
@[simp] theorem State.setReg_peat (r : RegDef) (i j v : Nat) : (s.setReg r i j v).peat = s.peat := rfl
@[simp] theorem State.setReg_power (r : RegDef) (i j v : Nat) : (s.setReg r i j v).power = s.power := rfl
@[simp] theorem State.setReg_jtag (r : RegDef) (i j v : Nat) : (s.setReg r i j v).jtag = s.jtag := rfl
@[simp] theorem State.setReg_d3hot (r : RegDef) (i j v : Nat) : (s.setReg r i j v).d3hot = s.d3hot := rfl
@[simp] theorem State.setReg_reply (r : RegDef) (i j v : Nat) : (s.setReg r i j v).reply = s.reply := rfl
@[simp] theorem State.setReg_fresh (r : RegDef) (i j v : Nat) : (s.setReg r i j v).fresh = s.fresh := rfl
@[simp] theorem State.setReg_pending (r : RegDef) (i j v : Nat) : (s.setReg r i j v).pending = s.pending := rfl

/-! ## `State.set` -/

@[simp] theorem State.set_mem (f : RField) (v i j : Nat) : (s.set f v i j).mem = s.mem := rfl
@[simp] theorem State.set_marks (f : RField) (v i j : Nat) : (s.set f v i j).marks = s.marks := rfl
@[simp] theorem State.set_lines (f : RField) (v i j : Nat) : (s.set f v i j).lines = s.lines := rfl
@[simp] theorem State.set_gain (f : RField) (v i j : Nat) : (s.set f v i j).gain = s.gain := rfl
@[simp] theorem State.set_badGain (f : RField) (v i j : Nat) : (s.set f v i j).badGain = s.badGain := rfl
@[simp] theorem State.set_poly (f : RField) (v i j : Nat) : (s.set f v i j).poly = s.poly := rfl
@[simp] theorem State.set_c0 (f : RField) (v i j : Nat) : (s.set f v i j).c0 = s.c0 := rfl
@[simp] theorem State.set_f0 (f : RField) (v i j : Nat) : (s.set f v i j).f0 = s.f0 := rfl
@[simp] theorem State.set_coef (f : RField) (v i j : Nat) : (s.set f v i j).coef = s.coef := rfl
@[simp] theorem State.set_thr (f : RField) (v i j : Nat) : (s.set f v i j).thr = s.thr := rfl
@[simp] theorem State.set_weighted (f : RField) (v i j : Nat) : (s.set f v i j).weighted = s.weighted := rfl
@[simp] theorem State.set_filling (f : RField) (v i j : Nat) : (s.set f v i j).filling = s.filling := rfl
@[simp] theorem State.set_cycle (f : RField) (v i j : Nat) : (s.set f v i j).cycle = s.cycle := rfl
@[simp] theorem State.set_nsHold (f : RField) (v i j : Nat) : (s.set f v i j).nsHold = s.nsHold := rfl
@[simp] theorem State.set_tick (f : RField) (v i j : Nat) : (s.set f v i j).tick = s.tick := rfl
@[simp] theorem State.set_ports (f : RField) (v i j : Nat) : (s.set f v i j).ports = s.ports := rfl
@[simp] theorem State.set_streams (f : RField) (v i j : Nat) : (s.set f v i j).streams = s.streams := rfl
@[simp] theorem State.set_chains (f : RField) (v i j : Nat) : (s.set f v i j).chains = s.chains := rfl
@[simp] theorem State.set_hold (f : RField) (v i j : Nat) : (s.set f v i j).hold = s.hold := rfl
@[simp] theorem State.set_released (f : RField) (v i j : Nat) : (s.set f v i j).released = s.released := rfl
@[simp] theorem State.set_feActive (f : RField) (v i j : Nat) : (s.set f v i j).feActive = s.feActive := rfl
@[simp] theorem State.set_dcClear (f : RField) (v i j : Nat) : (s.set f v i j).dcClear = s.dcClear := rfl
@[simp] theorem State.set_counts (f : RField) (v i j : Nat) : (s.set f v i j).counts = s.counts := rfl
@[simp] theorem State.set_countsNext (f : RField) (v i j : Nat) : (s.set f v i j).countsNext = s.countsNext := rfl
@[simp] theorem State.set_snapshot (f : RField) (v i j : Nat) : (s.set f v i j).snapshot = s.snapshot := rfl
@[simp] theorem State.set_linkloss (f : RField) (v i j : Nat) : (s.set f v i j).linkloss = s.linkloss := rfl
@[simp] theorem State.set_formed (f : RField) (v i j : Nat) : (s.set f v i j).formed = s.formed := rfl
@[simp] theorem State.set_staging (f : RField) (v i j : Nat) : (s.set f v i j).staging = s.staging := rfl
@[simp] theorem State.set_twins (f : RField) (v i j : Nat) : (s.set f v i j).twins = s.twins := rfl
@[simp] theorem State.set_engines (f : RField) (v i j : Nat) : (s.set f v i j).engines = s.engines := rfl
@[simp] theorem State.set_mire (f : RField) (v i j : Nat) : (s.set f v i j).mire = s.mire := rfl
@[simp] theorem State.set_begun (f : RField) (v i j : Nat) : (s.set f v i j).begun = s.begun := rfl
@[simp] theorem State.set_bufTags (f : RField) (v i j : Nat) : (s.set f v i j).bufTags = s.bufTags := rfl
@[simp] theorem State.set_seqs (f : RField) (v i j : Nat) : (s.set f v i j).seqs = s.seqs := rfl
@[simp] theorem State.set_cells (f : RField) (v i j : Nat) : (s.set f v i j).cells = s.cells := rfl
@[simp] theorem State.set_cellLost (f : RField) (v i j : Nat) : (s.set f v i j).cellLost = s.cellLost := rfl
@[simp] theorem State.set_parity (f : RField) (v i j : Nat) : (s.set f v i j).parity = s.parity := rfl
@[simp] theorem State.set_retired (f : RField) (v i j : Nat) : (s.set f v i j).retired = s.retired := rfl
@[simp] theorem State.set_stand (f : RField) (v i j : Nat) : (s.set f v i j).stand = s.stand := rfl
@[simp] theorem State.set_redos (f : RField) (v i j : Nat) : (s.set f v i j).redos = s.redos := rfl
@[simp] theorem State.set_merges (f : RField) (v i j : Nat) : (s.set f v i j).merges = s.merges := rfl
@[simp] theorem State.set_releases (f : RField) (v i j : Nat) : (s.set f v i j).releases = s.releases := rfl
@[simp] theorem State.set_closes (f : RField) (v i j : Nat) : (s.set f v i j).closes = s.closes := rfl
@[simp] theorem State.set_norms (f : RField) (v i j : Nat) : (s.set f v i j).norms = s.norms := rfl
@[simp] theorem State.set_restarts (f : RField) (v i j : Nat) : (s.set f v i j).restarts = s.restarts := rfl
@[simp] theorem State.set_slacks (f : RField) (v i j : Nat) : (s.set f v i j).slacks = s.slacks := rfl
@[simp] theorem State.set_wbuf (f : RField) (v i j : Nat) : (s.set f v i j).wbuf = s.wbuf := rfl
@[simp] theorem State.set_commits (f : RField) (v i j : Nat) : (s.set f v i j).commits = s.commits := rfl
@[simp] theorem State.set_beams (f : RField) (v i j : Nat) : (s.set f v i j).beams = s.beams := rfl
@[simp] theorem State.set_periods (f : RField) (v i j : Nat) : (s.set f v i j).periods = s.periods := rfl
@[simp] theorem State.set_beamActive (f : RField) (v i j : Nat) : (s.set f v i j).beamActive = s.beamActive := rfl
@[simp] theorem State.set_alerts (f : RField) (v i j : Nat) : (s.set f v i j).alerts = s.alerts := rfl
@[simp] theorem State.set_emitted (f : RField) (v i j : Nat) : (s.set f v i j).emitted = s.emitted := rfl
@[simp] theorem State.set_watchDone (f : RField) (v i j : Nat) : (s.set f v i j).watchDone = s.watchDone := rfl
@[simp] theorem State.set_prods (f : RField) (v i j : Nat) : (s.set f v i j).prods = s.prods := rfl
@[simp] theorem State.set_egress (f : RField) (v i j : Nat) : (s.set f v i j).egress = s.egress := rfl
@[simp] theorem State.set_flowStage (f : RField) (v i j : Nat) : (s.set f v i j).flowStage = s.flowStage := rfl
@[simp] theorem State.set_flowStart (f : RField) (v i j : Nat) : (s.set f v i j).flowStart = s.flowStart := rfl
@[simp] theorem State.set_stagedNo (f : RField) (v i j : Nat) : (s.set f v i j).stagedNo = s.stagedNo := rfl
@[simp] theorem State.set_sent (f : RField) (v i j : Nat) : (s.set f v i j).sent = s.sent := rfl
@[simp] theorem State.set_notes (f : RField) (v i j : Nat) : (s.set f v i j).notes = s.notes := rfl
@[simp] theorem State.set_msiPend (f : RField) (v i j : Nat) : (s.set f v i j).msiPend = s.msiPend := rfl
@[simp] theorem State.set_msiSent (f : RField) (v i j : Nat) : (s.set f v i j).msiSent = s.msiSent := rfl
@[simp] theorem State.set_targets (f : RField) (v i j : Nat) : (s.set f v i j).targets = s.targets := rfl
@[simp] theorem State.set_holdback (f : RField) (v i j : Nat) : (s.set f v i j).holdback = s.holdback := rfl
@[simp] theorem State.set_inFlight (f : RField) (v i j : Nat) : (s.set f v i j).inFlight = s.inFlight := rfl
@[simp] theorem State.set_responses (f : RField) (v i j : Nat) : (s.set f v i j).responses = s.responses := rfl
@[simp] theorem State.set_hostCut (f : RField) (v i j : Nat) : (s.set f v i j).hostCut = s.hostCut := rfl
@[simp] theorem State.set_reqNo (f : RField) (v i j : Nat) : (s.set f v i j).reqNo = s.reqNo := rfl
@[simp] theorem State.set_silent (f : RField) (v i j : Nat) : (s.set f v i j).silent = s.silent := rfl
@[simp] theorem State.set_hostReads (f : RField) (v i j : Nat) : (s.set f v i j).hostReads = s.hostReads := rfl
@[simp] theorem State.set_ctls (f : RField) (v i j : Nat) : (s.set f v i j).ctls = s.ctls := rfl
@[simp] theorem State.set_delays (f : RField) (v i j : Nat) : (s.set f v i j).delays = s.delays := rfl
@[simp] theorem State.set_training (f : RField) (v i j : Nat) : (s.set f v i j).training = s.training := rfl
@[simp] theorem State.set_trainArmed (f : RField) (v i j : Nat) : (s.set f v i j).trainArmed = s.trainArmed := rfl
@[simp] theorem State.set_throttled (f : RField) (v i j : Nat) : (s.set f v i j).throttled = s.throttled := rfl
@[simp] theorem State.set_used (f : RField) (v i j : Nat) : (s.set f v i j).used = s.used := rfl
@[simp] theorem State.set_logs (f : RField) (v i j : Nat) : (s.set f v i j).logs = s.logs := rfl
@[simp] theorem State.set_ceRecent (f : RField) (v i j : Nat) : (s.set f v i j).ceRecent = s.ceRecent := rfl
@[simp] theorem State.set_scrubs (f : RField) (v i j : Nat) : (s.set f v i j).scrubs = s.scrubs := rfl
@[simp] theorem State.set_corrections (f : RField) (v i j : Nat) : (s.set f v i j).corrections = s.corrections := rfl
@[simp] theorem State.set_keys (f : RField) (v i j : Nat) : (s.set f v i j).keys = s.keys := rfl
@[simp] theorem State.set_keyStage (f : RField) (v i j : Nat) : (s.set f v i j).keyStage = s.keyStage := rfl
@[simp] theorem State.set_gating (f : RField) (v i j : Nat) : (s.set f v i j).gating = s.gating := rfl
@[simp] theorem State.set_tb (f : RField) (v i j : Nat) : (s.set f v i j).tb = s.tb := rfl
@[simp] theorem State.set_refs (f : RField) (v i j : Nat) : (s.set f v i j).refs = s.refs := rfl
@[simp] theorem State.set_peat (f : RField) (v i j : Nat) : (s.set f v i j).peat = s.peat := rfl
@[simp] theorem State.set_power (f : RField) (v i j : Nat) : (s.set f v i j).power = s.power := rfl
@[simp] theorem State.set_jtag (f : RField) (v i j : Nat) : (s.set f v i j).jtag = s.jtag := rfl
@[simp] theorem State.set_d3hot (f : RField) (v i j : Nat) : (s.set f v i j).d3hot = s.d3hot := rfl
@[simp] theorem State.set_reply (f : RField) (v i j : Nat) : (s.set f v i j).reply = s.reply := rfl
@[simp] theorem State.set_fresh (f : RField) (v i j : Nat) : (s.set f v i j).fresh = s.fresh := rfl
@[simp] theorem State.set_pending (f : RField) (v i j : Nat) : (s.set f v i j).pending = s.pending := rfl

/-! ## `State.setInt` -/

@[simp] theorem State.setInt_mem (f : RField) (v : Int) (i j : Nat) : (s.setInt f v i j).mem = s.mem := rfl
@[simp] theorem State.setInt_marks (f : RField) (v : Int) (i j : Nat) : (s.setInt f v i j).marks = s.marks := rfl
@[simp] theorem State.setInt_lines (f : RField) (v : Int) (i j : Nat) : (s.setInt f v i j).lines = s.lines := rfl
@[simp] theorem State.setInt_gain (f : RField) (v : Int) (i j : Nat) : (s.setInt f v i j).gain = s.gain := rfl
@[simp] theorem State.setInt_badGain (f : RField) (v : Int) (i j : Nat) : (s.setInt f v i j).badGain = s.badGain := rfl
@[simp] theorem State.setInt_poly (f : RField) (v : Int) (i j : Nat) : (s.setInt f v i j).poly = s.poly := rfl
@[simp] theorem State.setInt_c0 (f : RField) (v : Int) (i j : Nat) : (s.setInt f v i j).c0 = s.c0 := rfl
@[simp] theorem State.setInt_f0 (f : RField) (v : Int) (i j : Nat) : (s.setInt f v i j).f0 = s.f0 := rfl
@[simp] theorem State.setInt_coef (f : RField) (v : Int) (i j : Nat) : (s.setInt f v i j).coef = s.coef := rfl
@[simp] theorem State.setInt_thr (f : RField) (v : Int) (i j : Nat) : (s.setInt f v i j).thr = s.thr := rfl
@[simp] theorem State.setInt_weighted (f : RField) (v : Int) (i j : Nat) : (s.setInt f v i j).weighted = s.weighted := rfl
@[simp] theorem State.setInt_filling (f : RField) (v : Int) (i j : Nat) : (s.setInt f v i j).filling = s.filling := rfl
@[simp] theorem State.setInt_cycle (f : RField) (v : Int) (i j : Nat) : (s.setInt f v i j).cycle = s.cycle := rfl
@[simp] theorem State.setInt_nsHold (f : RField) (v : Int) (i j : Nat) : (s.setInt f v i j).nsHold = s.nsHold := rfl
@[simp] theorem State.setInt_tick (f : RField) (v : Int) (i j : Nat) : (s.setInt f v i j).tick = s.tick := rfl
@[simp] theorem State.setInt_ports (f : RField) (v : Int) (i j : Nat) : (s.setInt f v i j).ports = s.ports := rfl
@[simp] theorem State.setInt_streams (f : RField) (v : Int) (i j : Nat) : (s.setInt f v i j).streams = s.streams := rfl
@[simp] theorem State.setInt_chains (f : RField) (v : Int) (i j : Nat) : (s.setInt f v i j).chains = s.chains := rfl
@[simp] theorem State.setInt_hold (f : RField) (v : Int) (i j : Nat) : (s.setInt f v i j).hold = s.hold := rfl
@[simp] theorem State.setInt_released (f : RField) (v : Int) (i j : Nat) : (s.setInt f v i j).released = s.released := rfl
@[simp] theorem State.setInt_feActive (f : RField) (v : Int) (i j : Nat) : (s.setInt f v i j).feActive = s.feActive := rfl
@[simp] theorem State.setInt_dcClear (f : RField) (v : Int) (i j : Nat) : (s.setInt f v i j).dcClear = s.dcClear := rfl
@[simp] theorem State.setInt_counts (f : RField) (v : Int) (i j : Nat) : (s.setInt f v i j).counts = s.counts := rfl
@[simp] theorem State.setInt_countsNext (f : RField) (v : Int) (i j : Nat) : (s.setInt f v i j).countsNext = s.countsNext := rfl
@[simp] theorem State.setInt_snapshot (f : RField) (v : Int) (i j : Nat) : (s.setInt f v i j).snapshot = s.snapshot := rfl
@[simp] theorem State.setInt_linkloss (f : RField) (v : Int) (i j : Nat) : (s.setInt f v i j).linkloss = s.linkloss := rfl
@[simp] theorem State.setInt_formed (f : RField) (v : Int) (i j : Nat) : (s.setInt f v i j).formed = s.formed := rfl
@[simp] theorem State.setInt_staging (f : RField) (v : Int) (i j : Nat) : (s.setInt f v i j).staging = s.staging := rfl
@[simp] theorem State.setInt_twins (f : RField) (v : Int) (i j : Nat) : (s.setInt f v i j).twins = s.twins := rfl
@[simp] theorem State.setInt_engines (f : RField) (v : Int) (i j : Nat) : (s.setInt f v i j).engines = s.engines := rfl
@[simp] theorem State.setInt_mire (f : RField) (v : Int) (i j : Nat) : (s.setInt f v i j).mire = s.mire := rfl
@[simp] theorem State.setInt_begun (f : RField) (v : Int) (i j : Nat) : (s.setInt f v i j).begun = s.begun := rfl
@[simp] theorem State.setInt_bufTags (f : RField) (v : Int) (i j : Nat) : (s.setInt f v i j).bufTags = s.bufTags := rfl
@[simp] theorem State.setInt_seqs (f : RField) (v : Int) (i j : Nat) : (s.setInt f v i j).seqs = s.seqs := rfl
@[simp] theorem State.setInt_cells (f : RField) (v : Int) (i j : Nat) : (s.setInt f v i j).cells = s.cells := rfl
@[simp] theorem State.setInt_cellLost (f : RField) (v : Int) (i j : Nat) : (s.setInt f v i j).cellLost = s.cellLost := rfl
@[simp] theorem State.setInt_parity (f : RField) (v : Int) (i j : Nat) : (s.setInt f v i j).parity = s.parity := rfl
@[simp] theorem State.setInt_retired (f : RField) (v : Int) (i j : Nat) : (s.setInt f v i j).retired = s.retired := rfl
@[simp] theorem State.setInt_stand (f : RField) (v : Int) (i j : Nat) : (s.setInt f v i j).stand = s.stand := rfl
@[simp] theorem State.setInt_redos (f : RField) (v : Int) (i j : Nat) : (s.setInt f v i j).redos = s.redos := rfl
@[simp] theorem State.setInt_merges (f : RField) (v : Int) (i j : Nat) : (s.setInt f v i j).merges = s.merges := rfl
@[simp] theorem State.setInt_releases (f : RField) (v : Int) (i j : Nat) : (s.setInt f v i j).releases = s.releases := rfl
@[simp] theorem State.setInt_closes (f : RField) (v : Int) (i j : Nat) : (s.setInt f v i j).closes = s.closes := rfl
@[simp] theorem State.setInt_norms (f : RField) (v : Int) (i j : Nat) : (s.setInt f v i j).norms = s.norms := rfl
@[simp] theorem State.setInt_restarts (f : RField) (v : Int) (i j : Nat) : (s.setInt f v i j).restarts = s.restarts := rfl
@[simp] theorem State.setInt_slacks (f : RField) (v : Int) (i j : Nat) : (s.setInt f v i j).slacks = s.slacks := rfl
@[simp] theorem State.setInt_wbuf (f : RField) (v : Int) (i j : Nat) : (s.setInt f v i j).wbuf = s.wbuf := rfl
@[simp] theorem State.setInt_commits (f : RField) (v : Int) (i j : Nat) : (s.setInt f v i j).commits = s.commits := rfl
@[simp] theorem State.setInt_beams (f : RField) (v : Int) (i j : Nat) : (s.setInt f v i j).beams = s.beams := rfl
@[simp] theorem State.setInt_periods (f : RField) (v : Int) (i j : Nat) : (s.setInt f v i j).periods = s.periods := rfl
@[simp] theorem State.setInt_beamActive (f : RField) (v : Int) (i j : Nat) : (s.setInt f v i j).beamActive = s.beamActive := rfl
@[simp] theorem State.setInt_alerts (f : RField) (v : Int) (i j : Nat) : (s.setInt f v i j).alerts = s.alerts := rfl
@[simp] theorem State.setInt_emitted (f : RField) (v : Int) (i j : Nat) : (s.setInt f v i j).emitted = s.emitted := rfl
@[simp] theorem State.setInt_watchDone (f : RField) (v : Int) (i j : Nat) : (s.setInt f v i j).watchDone = s.watchDone := rfl
@[simp] theorem State.setInt_prods (f : RField) (v : Int) (i j : Nat) : (s.setInt f v i j).prods = s.prods := rfl
@[simp] theorem State.setInt_egress (f : RField) (v : Int) (i j : Nat) : (s.setInt f v i j).egress = s.egress := rfl
@[simp] theorem State.setInt_flowStage (f : RField) (v : Int) (i j : Nat) : (s.setInt f v i j).flowStage = s.flowStage := rfl
@[simp] theorem State.setInt_flowStart (f : RField) (v : Int) (i j : Nat) : (s.setInt f v i j).flowStart = s.flowStart := rfl
@[simp] theorem State.setInt_stagedNo (f : RField) (v : Int) (i j : Nat) : (s.setInt f v i j).stagedNo = s.stagedNo := rfl
@[simp] theorem State.setInt_sent (f : RField) (v : Int) (i j : Nat) : (s.setInt f v i j).sent = s.sent := rfl
@[simp] theorem State.setInt_notes (f : RField) (v : Int) (i j : Nat) : (s.setInt f v i j).notes = s.notes := rfl
@[simp] theorem State.setInt_msiPend (f : RField) (v : Int) (i j : Nat) : (s.setInt f v i j).msiPend = s.msiPend := rfl
@[simp] theorem State.setInt_msiSent (f : RField) (v : Int) (i j : Nat) : (s.setInt f v i j).msiSent = s.msiSent := rfl
@[simp] theorem State.setInt_targets (f : RField) (v : Int) (i j : Nat) : (s.setInt f v i j).targets = s.targets := rfl
@[simp] theorem State.setInt_holdback (f : RField) (v : Int) (i j : Nat) : (s.setInt f v i j).holdback = s.holdback := rfl
@[simp] theorem State.setInt_inFlight (f : RField) (v : Int) (i j : Nat) : (s.setInt f v i j).inFlight = s.inFlight := rfl
@[simp] theorem State.setInt_responses (f : RField) (v : Int) (i j : Nat) : (s.setInt f v i j).responses = s.responses := rfl
@[simp] theorem State.setInt_hostCut (f : RField) (v : Int) (i j : Nat) : (s.setInt f v i j).hostCut = s.hostCut := rfl
@[simp] theorem State.setInt_reqNo (f : RField) (v : Int) (i j : Nat) : (s.setInt f v i j).reqNo = s.reqNo := rfl
@[simp] theorem State.setInt_silent (f : RField) (v : Int) (i j : Nat) : (s.setInt f v i j).silent = s.silent := rfl
@[simp] theorem State.setInt_hostReads (f : RField) (v : Int) (i j : Nat) : (s.setInt f v i j).hostReads = s.hostReads := rfl
@[simp] theorem State.setInt_ctls (f : RField) (v : Int) (i j : Nat) : (s.setInt f v i j).ctls = s.ctls := rfl
@[simp] theorem State.setInt_delays (f : RField) (v : Int) (i j : Nat) : (s.setInt f v i j).delays = s.delays := rfl
@[simp] theorem State.setInt_training (f : RField) (v : Int) (i j : Nat) : (s.setInt f v i j).training = s.training := rfl
@[simp] theorem State.setInt_trainArmed (f : RField) (v : Int) (i j : Nat) : (s.setInt f v i j).trainArmed = s.trainArmed := rfl
@[simp] theorem State.setInt_throttled (f : RField) (v : Int) (i j : Nat) : (s.setInt f v i j).throttled = s.throttled := rfl
@[simp] theorem State.setInt_used (f : RField) (v : Int) (i j : Nat) : (s.setInt f v i j).used = s.used := rfl
@[simp] theorem State.setInt_logs (f : RField) (v : Int) (i j : Nat) : (s.setInt f v i j).logs = s.logs := rfl
@[simp] theorem State.setInt_ceRecent (f : RField) (v : Int) (i j : Nat) : (s.setInt f v i j).ceRecent = s.ceRecent := rfl
@[simp] theorem State.setInt_scrubs (f : RField) (v : Int) (i j : Nat) : (s.setInt f v i j).scrubs = s.scrubs := rfl
@[simp] theorem State.setInt_corrections (f : RField) (v : Int) (i j : Nat) : (s.setInt f v i j).corrections = s.corrections := rfl
@[simp] theorem State.setInt_keys (f : RField) (v : Int) (i j : Nat) : (s.setInt f v i j).keys = s.keys := rfl
@[simp] theorem State.setInt_keyStage (f : RField) (v : Int) (i j : Nat) : (s.setInt f v i j).keyStage = s.keyStage := rfl
@[simp] theorem State.setInt_gating (f : RField) (v : Int) (i j : Nat) : (s.setInt f v i j).gating = s.gating := rfl
@[simp] theorem State.setInt_tb (f : RField) (v : Int) (i j : Nat) : (s.setInt f v i j).tb = s.tb := rfl
@[simp] theorem State.setInt_refs (f : RField) (v : Int) (i j : Nat) : (s.setInt f v i j).refs = s.refs := rfl
@[simp] theorem State.setInt_peat (f : RField) (v : Int) (i j : Nat) : (s.setInt f v i j).peat = s.peat := rfl
@[simp] theorem State.setInt_power (f : RField) (v : Int) (i j : Nat) : (s.setInt f v i j).power = s.power := rfl
@[simp] theorem State.setInt_jtag (f : RField) (v : Int) (i j : Nat) : (s.setInt f v i j).jtag = s.jtag := rfl
@[simp] theorem State.setInt_d3hot (f : RField) (v : Int) (i j : Nat) : (s.setInt f v i j).d3hot = s.d3hot := rfl
@[simp] theorem State.setInt_reply (f : RField) (v : Int) (i j : Nat) : (s.setInt f v i j).reply = s.reply := rfl
@[simp] theorem State.setInt_fresh (f : RField) (v : Int) (i j : Nat) : (s.setInt f v i j).fresh = s.fresh := rfl
@[simp] theorem State.setInt_pending (f : RField) (v : Int) (i j : Nat) : (s.setInt f v i j).pending = s.pending := rfl

/-! ## `State.count` -/

@[simp] theorem State.count_mem (f : RField) (n i j : Nat) : (s.count f n i j).mem = s.mem := rfl
@[simp] theorem State.count_marks (f : RField) (n i j : Nat) : (s.count f n i j).marks = s.marks := rfl
@[simp] theorem State.count_lines (f : RField) (n i j : Nat) : (s.count f n i j).lines = s.lines := rfl
@[simp] theorem State.count_gain (f : RField) (n i j : Nat) : (s.count f n i j).gain = s.gain := rfl
@[simp] theorem State.count_badGain (f : RField) (n i j : Nat) : (s.count f n i j).badGain = s.badGain := rfl
@[simp] theorem State.count_poly (f : RField) (n i j : Nat) : (s.count f n i j).poly = s.poly := rfl
@[simp] theorem State.count_c0 (f : RField) (n i j : Nat) : (s.count f n i j).c0 = s.c0 := rfl
@[simp] theorem State.count_f0 (f : RField) (n i j : Nat) : (s.count f n i j).f0 = s.f0 := rfl
@[simp] theorem State.count_coef (f : RField) (n i j : Nat) : (s.count f n i j).coef = s.coef := rfl
@[simp] theorem State.count_thr (f : RField) (n i j : Nat) : (s.count f n i j).thr = s.thr := rfl
@[simp] theorem State.count_weighted (f : RField) (n i j : Nat) : (s.count f n i j).weighted = s.weighted := rfl
@[simp] theorem State.count_filling (f : RField) (n i j : Nat) : (s.count f n i j).filling = s.filling := rfl
@[simp] theorem State.count_cycle (f : RField) (n i j : Nat) : (s.count f n i j).cycle = s.cycle := rfl
@[simp] theorem State.count_nsHold (f : RField) (n i j : Nat) : (s.count f n i j).nsHold = s.nsHold := rfl
@[simp] theorem State.count_tick (f : RField) (n i j : Nat) : (s.count f n i j).tick = s.tick := rfl
@[simp] theorem State.count_ports (f : RField) (n i j : Nat) : (s.count f n i j).ports = s.ports := rfl
@[simp] theorem State.count_streams (f : RField) (n i j : Nat) : (s.count f n i j).streams = s.streams := rfl
@[simp] theorem State.count_chains (f : RField) (n i j : Nat) : (s.count f n i j).chains = s.chains := rfl
@[simp] theorem State.count_hold (f : RField) (n i j : Nat) : (s.count f n i j).hold = s.hold := rfl
@[simp] theorem State.count_released (f : RField) (n i j : Nat) : (s.count f n i j).released = s.released := rfl
@[simp] theorem State.count_feActive (f : RField) (n i j : Nat) : (s.count f n i j).feActive = s.feActive := rfl
@[simp] theorem State.count_dcClear (f : RField) (n i j : Nat) : (s.count f n i j).dcClear = s.dcClear := rfl
@[simp] theorem State.count_counts (f : RField) (n i j : Nat) : (s.count f n i j).counts = s.counts := rfl
@[simp] theorem State.count_countsNext (f : RField) (n i j : Nat) : (s.count f n i j).countsNext = s.countsNext := rfl
@[simp] theorem State.count_snapshot (f : RField) (n i j : Nat) : (s.count f n i j).snapshot = s.snapshot := rfl
@[simp] theorem State.count_linkloss (f : RField) (n i j : Nat) : (s.count f n i j).linkloss = s.linkloss := rfl
@[simp] theorem State.count_formed (f : RField) (n i j : Nat) : (s.count f n i j).formed = s.formed := rfl
@[simp] theorem State.count_staging (f : RField) (n i j : Nat) : (s.count f n i j).staging = s.staging := rfl
@[simp] theorem State.count_twins (f : RField) (n i j : Nat) : (s.count f n i j).twins = s.twins := rfl
@[simp] theorem State.count_engines (f : RField) (n i j : Nat) : (s.count f n i j).engines = s.engines := rfl
@[simp] theorem State.count_mire (f : RField) (n i j : Nat) : (s.count f n i j).mire = s.mire := rfl
@[simp] theorem State.count_begun (f : RField) (n i j : Nat) : (s.count f n i j).begun = s.begun := rfl
@[simp] theorem State.count_bufTags (f : RField) (n i j : Nat) : (s.count f n i j).bufTags = s.bufTags := rfl
@[simp] theorem State.count_seqs (f : RField) (n i j : Nat) : (s.count f n i j).seqs = s.seqs := rfl
@[simp] theorem State.count_cells (f : RField) (n i j : Nat) : (s.count f n i j).cells = s.cells := rfl
@[simp] theorem State.count_cellLost (f : RField) (n i j : Nat) : (s.count f n i j).cellLost = s.cellLost := rfl
@[simp] theorem State.count_parity (f : RField) (n i j : Nat) : (s.count f n i j).parity = s.parity := rfl
@[simp] theorem State.count_retired (f : RField) (n i j : Nat) : (s.count f n i j).retired = s.retired := rfl
@[simp] theorem State.count_stand (f : RField) (n i j : Nat) : (s.count f n i j).stand = s.stand := rfl
@[simp] theorem State.count_redos (f : RField) (n i j : Nat) : (s.count f n i j).redos = s.redos := rfl
@[simp] theorem State.count_merges (f : RField) (n i j : Nat) : (s.count f n i j).merges = s.merges := rfl
@[simp] theorem State.count_releases (f : RField) (n i j : Nat) : (s.count f n i j).releases = s.releases := rfl
@[simp] theorem State.count_closes (f : RField) (n i j : Nat) : (s.count f n i j).closes = s.closes := rfl
@[simp] theorem State.count_norms (f : RField) (n i j : Nat) : (s.count f n i j).norms = s.norms := rfl
@[simp] theorem State.count_restarts (f : RField) (n i j : Nat) : (s.count f n i j).restarts = s.restarts := rfl
@[simp] theorem State.count_slacks (f : RField) (n i j : Nat) : (s.count f n i j).slacks = s.slacks := rfl
@[simp] theorem State.count_wbuf (f : RField) (n i j : Nat) : (s.count f n i j).wbuf = s.wbuf := rfl
@[simp] theorem State.count_commits (f : RField) (n i j : Nat) : (s.count f n i j).commits = s.commits := rfl
@[simp] theorem State.count_beams (f : RField) (n i j : Nat) : (s.count f n i j).beams = s.beams := rfl
@[simp] theorem State.count_periods (f : RField) (n i j : Nat) : (s.count f n i j).periods = s.periods := rfl
@[simp] theorem State.count_beamActive (f : RField) (n i j : Nat) : (s.count f n i j).beamActive = s.beamActive := rfl
@[simp] theorem State.count_alerts (f : RField) (n i j : Nat) : (s.count f n i j).alerts = s.alerts := rfl
@[simp] theorem State.count_emitted (f : RField) (n i j : Nat) : (s.count f n i j).emitted = s.emitted := rfl
@[simp] theorem State.count_watchDone (f : RField) (n i j : Nat) : (s.count f n i j).watchDone = s.watchDone := rfl
@[simp] theorem State.count_prods (f : RField) (n i j : Nat) : (s.count f n i j).prods = s.prods := rfl
@[simp] theorem State.count_egress (f : RField) (n i j : Nat) : (s.count f n i j).egress = s.egress := rfl
@[simp] theorem State.count_flowStage (f : RField) (n i j : Nat) : (s.count f n i j).flowStage = s.flowStage := rfl
@[simp] theorem State.count_flowStart (f : RField) (n i j : Nat) : (s.count f n i j).flowStart = s.flowStart := rfl
@[simp] theorem State.count_stagedNo (f : RField) (n i j : Nat) : (s.count f n i j).stagedNo = s.stagedNo := rfl
@[simp] theorem State.count_sent (f : RField) (n i j : Nat) : (s.count f n i j).sent = s.sent := rfl
@[simp] theorem State.count_notes (f : RField) (n i j : Nat) : (s.count f n i j).notes = s.notes := rfl
@[simp] theorem State.count_msiPend (f : RField) (n i j : Nat) : (s.count f n i j).msiPend = s.msiPend := rfl
@[simp] theorem State.count_msiSent (f : RField) (n i j : Nat) : (s.count f n i j).msiSent = s.msiSent := rfl
@[simp] theorem State.count_targets (f : RField) (n i j : Nat) : (s.count f n i j).targets = s.targets := rfl
@[simp] theorem State.count_holdback (f : RField) (n i j : Nat) : (s.count f n i j).holdback = s.holdback := rfl
@[simp] theorem State.count_inFlight (f : RField) (n i j : Nat) : (s.count f n i j).inFlight = s.inFlight := rfl
@[simp] theorem State.count_responses (f : RField) (n i j : Nat) : (s.count f n i j).responses = s.responses := rfl
@[simp] theorem State.count_hostCut (f : RField) (n i j : Nat) : (s.count f n i j).hostCut = s.hostCut := rfl
@[simp] theorem State.count_reqNo (f : RField) (n i j : Nat) : (s.count f n i j).reqNo = s.reqNo := rfl
@[simp] theorem State.count_silent (f : RField) (n i j : Nat) : (s.count f n i j).silent = s.silent := rfl
@[simp] theorem State.count_hostReads (f : RField) (n i j : Nat) : (s.count f n i j).hostReads = s.hostReads := rfl
@[simp] theorem State.count_ctls (f : RField) (n i j : Nat) : (s.count f n i j).ctls = s.ctls := rfl
@[simp] theorem State.count_delays (f : RField) (n i j : Nat) : (s.count f n i j).delays = s.delays := rfl
@[simp] theorem State.count_training (f : RField) (n i j : Nat) : (s.count f n i j).training = s.training := rfl
@[simp] theorem State.count_trainArmed (f : RField) (n i j : Nat) : (s.count f n i j).trainArmed = s.trainArmed := rfl
@[simp] theorem State.count_throttled (f : RField) (n i j : Nat) : (s.count f n i j).throttled = s.throttled := rfl
@[simp] theorem State.count_used (f : RField) (n i j : Nat) : (s.count f n i j).used = s.used := rfl
@[simp] theorem State.count_logs (f : RField) (n i j : Nat) : (s.count f n i j).logs = s.logs := rfl
@[simp] theorem State.count_ceRecent (f : RField) (n i j : Nat) : (s.count f n i j).ceRecent = s.ceRecent := rfl
@[simp] theorem State.count_scrubs (f : RField) (n i j : Nat) : (s.count f n i j).scrubs = s.scrubs := rfl
@[simp] theorem State.count_corrections (f : RField) (n i j : Nat) : (s.count f n i j).corrections = s.corrections := rfl
@[simp] theorem State.count_keys (f : RField) (n i j : Nat) : (s.count f n i j).keys = s.keys := rfl
@[simp] theorem State.count_keyStage (f : RField) (n i j : Nat) : (s.count f n i j).keyStage = s.keyStage := rfl
@[simp] theorem State.count_gating (f : RField) (n i j : Nat) : (s.count f n i j).gating = s.gating := rfl
@[simp] theorem State.count_tb (f : RField) (n i j : Nat) : (s.count f n i j).tb = s.tb := rfl
@[simp] theorem State.count_refs (f : RField) (n i j : Nat) : (s.count f n i j).refs = s.refs := rfl
@[simp] theorem State.count_peat (f : RField) (n i j : Nat) : (s.count f n i j).peat = s.peat := rfl
@[simp] theorem State.count_power (f : RField) (n i j : Nat) : (s.count f n i j).power = s.power := rfl
@[simp] theorem State.count_jtag (f : RField) (n i j : Nat) : (s.count f n i j).jtag = s.jtag := rfl
@[simp] theorem State.count_d3hot (f : RField) (n i j : Nat) : (s.count f n i j).d3hot = s.d3hot := rfl
@[simp] theorem State.count_reply (f : RField) (n i j : Nat) : (s.count f n i j).reply = s.reply := rfl
@[simp] theorem State.count_fresh (f : RField) (n i j : Nat) : (s.count f n i j).fresh = s.fresh := rfl
@[simp] theorem State.count_pending (f : RField) (n i j : Nat) : (s.count f n i j).pending = s.pending := rfl

/-! ## `State.drawn` -/

@[simp] theorem State.drawn_regs : (s.drawn).regs = s.regs := rfl
@[simp] theorem State.drawn_mem : (s.drawn).mem = s.mem := rfl
@[simp] theorem State.drawn_marks : (s.drawn).marks = s.marks := rfl
@[simp] theorem State.drawn_lines : (s.drawn).lines = s.lines := rfl
@[simp] theorem State.drawn_gain : (s.drawn).gain = s.gain := rfl
@[simp] theorem State.drawn_badGain : (s.drawn).badGain = s.badGain := rfl
@[simp] theorem State.drawn_poly : (s.drawn).poly = s.poly := rfl
@[simp] theorem State.drawn_c0 : (s.drawn).c0 = s.c0 := rfl
@[simp] theorem State.drawn_f0 : (s.drawn).f0 = s.f0 := rfl
@[simp] theorem State.drawn_coef : (s.drawn).coef = s.coef := rfl
@[simp] theorem State.drawn_thr : (s.drawn).thr = s.thr := rfl
@[simp] theorem State.drawn_weighted : (s.drawn).weighted = s.weighted := rfl
@[simp] theorem State.drawn_filling : (s.drawn).filling = s.filling := rfl
@[simp] theorem State.drawn_cycle : (s.drawn).cycle = s.cycle := rfl
@[simp] theorem State.drawn_nsHold : (s.drawn).nsHold = s.nsHold := rfl
@[simp] theorem State.drawn_tick : (s.drawn).tick = s.tick := rfl
@[simp] theorem State.drawn_ports : (s.drawn).ports = s.ports := rfl
@[simp] theorem State.drawn_streams : (s.drawn).streams = s.streams := rfl
@[simp] theorem State.drawn_chains : (s.drawn).chains = s.chains := rfl
@[simp] theorem State.drawn_hold : (s.drawn).hold = s.hold := rfl
@[simp] theorem State.drawn_released : (s.drawn).released = s.released := rfl
@[simp] theorem State.drawn_feActive : (s.drawn).feActive = s.feActive := rfl
@[simp] theorem State.drawn_dcClear : (s.drawn).dcClear = s.dcClear := rfl
@[simp] theorem State.drawn_counts : (s.drawn).counts = s.counts := rfl
@[simp] theorem State.drawn_countsNext : (s.drawn).countsNext = s.countsNext := rfl
@[simp] theorem State.drawn_snapshot : (s.drawn).snapshot = s.snapshot := rfl
@[simp] theorem State.drawn_linkloss : (s.drawn).linkloss = s.linkloss := rfl
@[simp] theorem State.drawn_formed : (s.drawn).formed = s.formed := rfl
@[simp] theorem State.drawn_staging : (s.drawn).staging = s.staging := rfl
@[simp] theorem State.drawn_twins : (s.drawn).twins = s.twins := rfl
@[simp] theorem State.drawn_engines : (s.drawn).engines = s.engines := rfl
@[simp] theorem State.drawn_mire : (s.drawn).mire = s.mire := rfl
@[simp] theorem State.drawn_begun : (s.drawn).begun = s.begun := rfl
@[simp] theorem State.drawn_bufTags : (s.drawn).bufTags = s.bufTags := rfl
@[simp] theorem State.drawn_seqs : (s.drawn).seqs = s.seqs := rfl
@[simp] theorem State.drawn_cells : (s.drawn).cells = s.cells := rfl
@[simp] theorem State.drawn_cellLost : (s.drawn).cellLost = s.cellLost := rfl
@[simp] theorem State.drawn_parity : (s.drawn).parity = s.parity := rfl
@[simp] theorem State.drawn_retired : (s.drawn).retired = s.retired := rfl
@[simp] theorem State.drawn_stand : (s.drawn).stand = s.stand := rfl
@[simp] theorem State.drawn_redos : (s.drawn).redos = s.redos := rfl
@[simp] theorem State.drawn_merges : (s.drawn).merges = s.merges := rfl
@[simp] theorem State.drawn_releases : (s.drawn).releases = s.releases := rfl
@[simp] theorem State.drawn_closes : (s.drawn).closes = s.closes := rfl
@[simp] theorem State.drawn_norms : (s.drawn).norms = s.norms := rfl
@[simp] theorem State.drawn_restarts : (s.drawn).restarts = s.restarts := rfl
@[simp] theorem State.drawn_slacks : (s.drawn).slacks = s.slacks := rfl
@[simp] theorem State.drawn_wbuf : (s.drawn).wbuf = s.wbuf := rfl
@[simp] theorem State.drawn_commits : (s.drawn).commits = s.commits := rfl
@[simp] theorem State.drawn_beams : (s.drawn).beams = s.beams := rfl
@[simp] theorem State.drawn_periods : (s.drawn).periods = s.periods := rfl
@[simp] theorem State.drawn_beamActive : (s.drawn).beamActive = s.beamActive := rfl
@[simp] theorem State.drawn_alerts : (s.drawn).alerts = s.alerts := rfl
@[simp] theorem State.drawn_emitted : (s.drawn).emitted = s.emitted := rfl
@[simp] theorem State.drawn_watchDone : (s.drawn).watchDone = s.watchDone := rfl
@[simp] theorem State.drawn_prods : (s.drawn).prods = s.prods := rfl
@[simp] theorem State.drawn_egress : (s.drawn).egress = s.egress := rfl
@[simp] theorem State.drawn_flowStage : (s.drawn).flowStage = s.flowStage := rfl
@[simp] theorem State.drawn_flowStart : (s.drawn).flowStart = s.flowStart := rfl
@[simp] theorem State.drawn_stagedNo : (s.drawn).stagedNo = s.stagedNo := rfl
@[simp] theorem State.drawn_sent : (s.drawn).sent = s.sent := rfl
@[simp] theorem State.drawn_notes : (s.drawn).notes = s.notes := rfl
@[simp] theorem State.drawn_msiPend : (s.drawn).msiPend = s.msiPend := rfl
@[simp] theorem State.drawn_msiSent : (s.drawn).msiSent = s.msiSent := rfl
@[simp] theorem State.drawn_targets : (s.drawn).targets = s.targets := rfl
@[simp] theorem State.drawn_holdback : (s.drawn).holdback = s.holdback := rfl
@[simp] theorem State.drawn_inFlight : (s.drawn).inFlight = s.inFlight := rfl
@[simp] theorem State.drawn_responses : (s.drawn).responses = s.responses := rfl
@[simp] theorem State.drawn_hostCut : (s.drawn).hostCut = s.hostCut := rfl
@[simp] theorem State.drawn_reqNo : (s.drawn).reqNo = s.reqNo := rfl
@[simp] theorem State.drawn_silent : (s.drawn).silent = s.silent := rfl
@[simp] theorem State.drawn_hostReads : (s.drawn).hostReads = s.hostReads := rfl
@[simp] theorem State.drawn_ctls : (s.drawn).ctls = s.ctls := rfl
@[simp] theorem State.drawn_delays : (s.drawn).delays = s.delays := rfl
@[simp] theorem State.drawn_training : (s.drawn).training = s.training := rfl
@[simp] theorem State.drawn_trainArmed : (s.drawn).trainArmed = s.trainArmed := rfl
@[simp] theorem State.drawn_throttled : (s.drawn).throttled = s.throttled := rfl
@[simp] theorem State.drawn_used : (s.drawn).used = s.used := rfl
@[simp] theorem State.drawn_logs : (s.drawn).logs = s.logs := rfl
@[simp] theorem State.drawn_ceRecent : (s.drawn).ceRecent = s.ceRecent := rfl
@[simp] theorem State.drawn_scrubs : (s.drawn).scrubs = s.scrubs := rfl
@[simp] theorem State.drawn_corrections : (s.drawn).corrections = s.corrections := rfl
@[simp] theorem State.drawn_keys : (s.drawn).keys = s.keys := rfl
@[simp] theorem State.drawn_keyStage : (s.drawn).keyStage = s.keyStage := rfl
@[simp] theorem State.drawn_gating : (s.drawn).gating = s.gating := rfl
@[simp] theorem State.drawn_tb : (s.drawn).tb = s.tb := rfl
@[simp] theorem State.drawn_refs : (s.drawn).refs = s.refs := rfl
@[simp] theorem State.drawn_peat : (s.drawn).peat = s.peat := rfl
@[simp] theorem State.drawn_power : (s.drawn).power = s.power := rfl
@[simp] theorem State.drawn_jtag : (s.drawn).jtag = s.jtag := rfl
@[simp] theorem State.drawn_d3hot : (s.drawn).d3hot = s.d3hot := rfl
@[simp] theorem State.drawn_reply : (s.drawn).reply = s.reply := rfl
@[simp] theorem State.drawn_pending : (s.drawn).pending = s.pending := rfl

/-! ## `State.setPort` -/

@[simp] theorem State.setPort_regs (n : Nat) (x : Port) : (s.setPort n x).regs = s.regs := rfl
@[simp] theorem State.setPort_mem (n : Nat) (x : Port) : (s.setPort n x).mem = s.mem := rfl
@[simp] theorem State.setPort_marks (n : Nat) (x : Port) : (s.setPort n x).marks = s.marks := rfl
@[simp] theorem State.setPort_lines (n : Nat) (x : Port) : (s.setPort n x).lines = s.lines := rfl
@[simp] theorem State.setPort_gain (n : Nat) (x : Port) : (s.setPort n x).gain = s.gain := rfl
@[simp] theorem State.setPort_badGain (n : Nat) (x : Port) : (s.setPort n x).badGain = s.badGain := rfl
@[simp] theorem State.setPort_poly (n : Nat) (x : Port) : (s.setPort n x).poly = s.poly := rfl
@[simp] theorem State.setPort_c0 (n : Nat) (x : Port) : (s.setPort n x).c0 = s.c0 := rfl
@[simp] theorem State.setPort_f0 (n : Nat) (x : Port) : (s.setPort n x).f0 = s.f0 := rfl
@[simp] theorem State.setPort_coef (n : Nat) (x : Port) : (s.setPort n x).coef = s.coef := rfl
@[simp] theorem State.setPort_thr (n : Nat) (x : Port) : (s.setPort n x).thr = s.thr := rfl
@[simp] theorem State.setPort_weighted (n : Nat) (x : Port) : (s.setPort n x).weighted = s.weighted := rfl
@[simp] theorem State.setPort_filling (n : Nat) (x : Port) : (s.setPort n x).filling = s.filling := rfl
@[simp] theorem State.setPort_cycle (n : Nat) (x : Port) : (s.setPort n x).cycle = s.cycle := rfl
@[simp] theorem State.setPort_nsHold (n : Nat) (x : Port) : (s.setPort n x).nsHold = s.nsHold := rfl
@[simp] theorem State.setPort_tick (n : Nat) (x : Port) : (s.setPort n x).tick = s.tick := rfl
@[simp] theorem State.setPort_streams (n : Nat) (x : Port) : (s.setPort n x).streams = s.streams := rfl
@[simp] theorem State.setPort_chains (n : Nat) (x : Port) : (s.setPort n x).chains = s.chains := rfl
@[simp] theorem State.setPort_hold (n : Nat) (x : Port) : (s.setPort n x).hold = s.hold := rfl
@[simp] theorem State.setPort_released (n : Nat) (x : Port) : (s.setPort n x).released = s.released := rfl
@[simp] theorem State.setPort_feActive (n : Nat) (x : Port) : (s.setPort n x).feActive = s.feActive := rfl
@[simp] theorem State.setPort_dcClear (n : Nat) (x : Port) : (s.setPort n x).dcClear = s.dcClear := rfl
@[simp] theorem State.setPort_counts (n : Nat) (x : Port) : (s.setPort n x).counts = s.counts := rfl
@[simp] theorem State.setPort_countsNext (n : Nat) (x : Port) : (s.setPort n x).countsNext = s.countsNext := rfl
@[simp] theorem State.setPort_snapshot (n : Nat) (x : Port) : (s.setPort n x).snapshot = s.snapshot := rfl
@[simp] theorem State.setPort_linkloss (n : Nat) (x : Port) : (s.setPort n x).linkloss = s.linkloss := rfl
@[simp] theorem State.setPort_formed (n : Nat) (x : Port) : (s.setPort n x).formed = s.formed := rfl
@[simp] theorem State.setPort_staging (n : Nat) (x : Port) : (s.setPort n x).staging = s.staging := rfl
@[simp] theorem State.setPort_twins (n : Nat) (x : Port) : (s.setPort n x).twins = s.twins := rfl
@[simp] theorem State.setPort_engines (n : Nat) (x : Port) : (s.setPort n x).engines = s.engines := rfl
@[simp] theorem State.setPort_mire (n : Nat) (x : Port) : (s.setPort n x).mire = s.mire := rfl
@[simp] theorem State.setPort_begun (n : Nat) (x : Port) : (s.setPort n x).begun = s.begun := rfl
@[simp] theorem State.setPort_bufTags (n : Nat) (x : Port) : (s.setPort n x).bufTags = s.bufTags := rfl
@[simp] theorem State.setPort_seqs (n : Nat) (x : Port) : (s.setPort n x).seqs = s.seqs := rfl
@[simp] theorem State.setPort_cells (n : Nat) (x : Port) : (s.setPort n x).cells = s.cells := rfl
@[simp] theorem State.setPort_cellLost (n : Nat) (x : Port) : (s.setPort n x).cellLost = s.cellLost := rfl
@[simp] theorem State.setPort_parity (n : Nat) (x : Port) : (s.setPort n x).parity = s.parity := rfl
@[simp] theorem State.setPort_retired (n : Nat) (x : Port) : (s.setPort n x).retired = s.retired := rfl
@[simp] theorem State.setPort_stand (n : Nat) (x : Port) : (s.setPort n x).stand = s.stand := rfl
@[simp] theorem State.setPort_redos (n : Nat) (x : Port) : (s.setPort n x).redos = s.redos := rfl
@[simp] theorem State.setPort_merges (n : Nat) (x : Port) : (s.setPort n x).merges = s.merges := rfl
@[simp] theorem State.setPort_releases (n : Nat) (x : Port) : (s.setPort n x).releases = s.releases := rfl
@[simp] theorem State.setPort_closes (n : Nat) (x : Port) : (s.setPort n x).closes = s.closes := rfl
@[simp] theorem State.setPort_norms (n : Nat) (x : Port) : (s.setPort n x).norms = s.norms := rfl
@[simp] theorem State.setPort_restarts (n : Nat) (x : Port) : (s.setPort n x).restarts = s.restarts := rfl
@[simp] theorem State.setPort_slacks (n : Nat) (x : Port) : (s.setPort n x).slacks = s.slacks := rfl
@[simp] theorem State.setPort_wbuf (n : Nat) (x : Port) : (s.setPort n x).wbuf = s.wbuf := rfl
@[simp] theorem State.setPort_commits (n : Nat) (x : Port) : (s.setPort n x).commits = s.commits := rfl
@[simp] theorem State.setPort_beams (n : Nat) (x : Port) : (s.setPort n x).beams = s.beams := rfl
@[simp] theorem State.setPort_periods (n : Nat) (x : Port) : (s.setPort n x).periods = s.periods := rfl
@[simp] theorem State.setPort_beamActive (n : Nat) (x : Port) : (s.setPort n x).beamActive = s.beamActive := rfl
@[simp] theorem State.setPort_alerts (n : Nat) (x : Port) : (s.setPort n x).alerts = s.alerts := rfl
@[simp] theorem State.setPort_emitted (n : Nat) (x : Port) : (s.setPort n x).emitted = s.emitted := rfl
@[simp] theorem State.setPort_watchDone (n : Nat) (x : Port) : (s.setPort n x).watchDone = s.watchDone := rfl
@[simp] theorem State.setPort_prods (n : Nat) (x : Port) : (s.setPort n x).prods = s.prods := rfl
@[simp] theorem State.setPort_egress (n : Nat) (x : Port) : (s.setPort n x).egress = s.egress := rfl
@[simp] theorem State.setPort_flowStage (n : Nat) (x : Port) : (s.setPort n x).flowStage = s.flowStage := rfl
@[simp] theorem State.setPort_flowStart (n : Nat) (x : Port) : (s.setPort n x).flowStart = s.flowStart := rfl
@[simp] theorem State.setPort_stagedNo (n : Nat) (x : Port) : (s.setPort n x).stagedNo = s.stagedNo := rfl
@[simp] theorem State.setPort_sent (n : Nat) (x : Port) : (s.setPort n x).sent = s.sent := rfl
@[simp] theorem State.setPort_notes (n : Nat) (x : Port) : (s.setPort n x).notes = s.notes := rfl
@[simp] theorem State.setPort_msiPend (n : Nat) (x : Port) : (s.setPort n x).msiPend = s.msiPend := rfl
@[simp] theorem State.setPort_msiSent (n : Nat) (x : Port) : (s.setPort n x).msiSent = s.msiSent := rfl
@[simp] theorem State.setPort_targets (n : Nat) (x : Port) : (s.setPort n x).targets = s.targets := rfl
@[simp] theorem State.setPort_holdback (n : Nat) (x : Port) : (s.setPort n x).holdback = s.holdback := rfl
@[simp] theorem State.setPort_inFlight (n : Nat) (x : Port) : (s.setPort n x).inFlight = s.inFlight := rfl
@[simp] theorem State.setPort_responses (n : Nat) (x : Port) : (s.setPort n x).responses = s.responses := rfl
@[simp] theorem State.setPort_hostCut (n : Nat) (x : Port) : (s.setPort n x).hostCut = s.hostCut := rfl
@[simp] theorem State.setPort_reqNo (n : Nat) (x : Port) : (s.setPort n x).reqNo = s.reqNo := rfl
@[simp] theorem State.setPort_silent (n : Nat) (x : Port) : (s.setPort n x).silent = s.silent := rfl
@[simp] theorem State.setPort_hostReads (n : Nat) (x : Port) : (s.setPort n x).hostReads = s.hostReads := rfl
@[simp] theorem State.setPort_ctls (n : Nat) (x : Port) : (s.setPort n x).ctls = s.ctls := rfl
@[simp] theorem State.setPort_delays (n : Nat) (x : Port) : (s.setPort n x).delays = s.delays := rfl
@[simp] theorem State.setPort_training (n : Nat) (x : Port) : (s.setPort n x).training = s.training := rfl
@[simp] theorem State.setPort_trainArmed (n : Nat) (x : Port) : (s.setPort n x).trainArmed = s.trainArmed := rfl
@[simp] theorem State.setPort_throttled (n : Nat) (x : Port) : (s.setPort n x).throttled = s.throttled := rfl
@[simp] theorem State.setPort_used (n : Nat) (x : Port) : (s.setPort n x).used = s.used := rfl
@[simp] theorem State.setPort_logs (n : Nat) (x : Port) : (s.setPort n x).logs = s.logs := rfl
@[simp] theorem State.setPort_ceRecent (n : Nat) (x : Port) : (s.setPort n x).ceRecent = s.ceRecent := rfl
@[simp] theorem State.setPort_scrubs (n : Nat) (x : Port) : (s.setPort n x).scrubs = s.scrubs := rfl
@[simp] theorem State.setPort_corrections (n : Nat) (x : Port) : (s.setPort n x).corrections = s.corrections := rfl
@[simp] theorem State.setPort_keys (n : Nat) (x : Port) : (s.setPort n x).keys = s.keys := rfl
@[simp] theorem State.setPort_keyStage (n : Nat) (x : Port) : (s.setPort n x).keyStage = s.keyStage := rfl
@[simp] theorem State.setPort_gating (n : Nat) (x : Port) : (s.setPort n x).gating = s.gating := rfl
@[simp] theorem State.setPort_tb (n : Nat) (x : Port) : (s.setPort n x).tb = s.tb := rfl
@[simp] theorem State.setPort_refs (n : Nat) (x : Port) : (s.setPort n x).refs = s.refs := rfl
@[simp] theorem State.setPort_peat (n : Nat) (x : Port) : (s.setPort n x).peat = s.peat := rfl
@[simp] theorem State.setPort_power (n : Nat) (x : Port) : (s.setPort n x).power = s.power := rfl
@[simp] theorem State.setPort_jtag (n : Nat) (x : Port) : (s.setPort n x).jtag = s.jtag := rfl
@[simp] theorem State.setPort_d3hot (n : Nat) (x : Port) : (s.setPort n x).d3hot = s.d3hot := rfl
@[simp] theorem State.setPort_reply (n : Nat) (x : Port) : (s.setPort n x).reply = s.reply := rfl
@[simp] theorem State.setPort_fresh (n : Nat) (x : Port) : (s.setPort n x).fresh = s.fresh := rfl
@[simp] theorem State.setPort_pending (n : Nat) (x : Port) : (s.setPort n x).pending = s.pending := rfl

/-! ## `State.setStream` -/

@[simp] theorem State.setStream_regs (k : Nat) (x : Stream) : (s.setStream k x).regs = s.regs := rfl
@[simp] theorem State.setStream_mem (k : Nat) (x : Stream) : (s.setStream k x).mem = s.mem := rfl
@[simp] theorem State.setStream_marks (k : Nat) (x : Stream) : (s.setStream k x).marks = s.marks := rfl
@[simp] theorem State.setStream_lines (k : Nat) (x : Stream) : (s.setStream k x).lines = s.lines := rfl
@[simp] theorem State.setStream_gain (k : Nat) (x : Stream) : (s.setStream k x).gain = s.gain := rfl
@[simp] theorem State.setStream_badGain (k : Nat) (x : Stream) : (s.setStream k x).badGain = s.badGain := rfl
@[simp] theorem State.setStream_poly (k : Nat) (x : Stream) : (s.setStream k x).poly = s.poly := rfl
@[simp] theorem State.setStream_c0 (k : Nat) (x : Stream) : (s.setStream k x).c0 = s.c0 := rfl
@[simp] theorem State.setStream_f0 (k : Nat) (x : Stream) : (s.setStream k x).f0 = s.f0 := rfl
@[simp] theorem State.setStream_coef (k : Nat) (x : Stream) : (s.setStream k x).coef = s.coef := rfl
@[simp] theorem State.setStream_thr (k : Nat) (x : Stream) : (s.setStream k x).thr = s.thr := rfl
@[simp] theorem State.setStream_weighted (k : Nat) (x : Stream) : (s.setStream k x).weighted = s.weighted := rfl
@[simp] theorem State.setStream_filling (k : Nat) (x : Stream) : (s.setStream k x).filling = s.filling := rfl
@[simp] theorem State.setStream_cycle (k : Nat) (x : Stream) : (s.setStream k x).cycle = s.cycle := rfl
@[simp] theorem State.setStream_nsHold (k : Nat) (x : Stream) : (s.setStream k x).nsHold = s.nsHold := rfl
@[simp] theorem State.setStream_tick (k : Nat) (x : Stream) : (s.setStream k x).tick = s.tick := rfl
@[simp] theorem State.setStream_ports (k : Nat) (x : Stream) : (s.setStream k x).ports = s.ports := rfl
@[simp] theorem State.setStream_chains (k : Nat) (x : Stream) : (s.setStream k x).chains = s.chains := rfl
@[simp] theorem State.setStream_hold (k : Nat) (x : Stream) : (s.setStream k x).hold = s.hold := rfl
@[simp] theorem State.setStream_released (k : Nat) (x : Stream) : (s.setStream k x).released = s.released := rfl
@[simp] theorem State.setStream_feActive (k : Nat) (x : Stream) : (s.setStream k x).feActive = s.feActive := rfl
@[simp] theorem State.setStream_dcClear (k : Nat) (x : Stream) : (s.setStream k x).dcClear = s.dcClear := rfl
@[simp] theorem State.setStream_counts (k : Nat) (x : Stream) : (s.setStream k x).counts = s.counts := rfl
@[simp] theorem State.setStream_countsNext (k : Nat) (x : Stream) : (s.setStream k x).countsNext = s.countsNext := rfl
@[simp] theorem State.setStream_snapshot (k : Nat) (x : Stream) : (s.setStream k x).snapshot = s.snapshot := rfl
@[simp] theorem State.setStream_linkloss (k : Nat) (x : Stream) : (s.setStream k x).linkloss = s.linkloss := rfl
@[simp] theorem State.setStream_formed (k : Nat) (x : Stream) : (s.setStream k x).formed = s.formed := rfl
@[simp] theorem State.setStream_staging (k : Nat) (x : Stream) : (s.setStream k x).staging = s.staging := rfl
@[simp] theorem State.setStream_twins (k : Nat) (x : Stream) : (s.setStream k x).twins = s.twins := rfl
@[simp] theorem State.setStream_engines (k : Nat) (x : Stream) : (s.setStream k x).engines = s.engines := rfl
@[simp] theorem State.setStream_mire (k : Nat) (x : Stream) : (s.setStream k x).mire = s.mire := rfl
@[simp] theorem State.setStream_begun (k : Nat) (x : Stream) : (s.setStream k x).begun = s.begun := rfl
@[simp] theorem State.setStream_bufTags (k : Nat) (x : Stream) : (s.setStream k x).bufTags = s.bufTags := rfl
@[simp] theorem State.setStream_seqs (k : Nat) (x : Stream) : (s.setStream k x).seqs = s.seqs := rfl
@[simp] theorem State.setStream_cells (k : Nat) (x : Stream) : (s.setStream k x).cells = s.cells := rfl
@[simp] theorem State.setStream_cellLost (k : Nat) (x : Stream) : (s.setStream k x).cellLost = s.cellLost := rfl
@[simp] theorem State.setStream_parity (k : Nat) (x : Stream) : (s.setStream k x).parity = s.parity := rfl
@[simp] theorem State.setStream_retired (k : Nat) (x : Stream) : (s.setStream k x).retired = s.retired := rfl
@[simp] theorem State.setStream_stand (k : Nat) (x : Stream) : (s.setStream k x).stand = s.stand := rfl
@[simp] theorem State.setStream_redos (k : Nat) (x : Stream) : (s.setStream k x).redos = s.redos := rfl
@[simp] theorem State.setStream_merges (k : Nat) (x : Stream) : (s.setStream k x).merges = s.merges := rfl
@[simp] theorem State.setStream_releases (k : Nat) (x : Stream) : (s.setStream k x).releases = s.releases := rfl
@[simp] theorem State.setStream_closes (k : Nat) (x : Stream) : (s.setStream k x).closes = s.closes := rfl
@[simp] theorem State.setStream_norms (k : Nat) (x : Stream) : (s.setStream k x).norms = s.norms := rfl
@[simp] theorem State.setStream_restarts (k : Nat) (x : Stream) : (s.setStream k x).restarts = s.restarts := rfl
@[simp] theorem State.setStream_slacks (k : Nat) (x : Stream) : (s.setStream k x).slacks = s.slacks := rfl
@[simp] theorem State.setStream_wbuf (k : Nat) (x : Stream) : (s.setStream k x).wbuf = s.wbuf := rfl
@[simp] theorem State.setStream_commits (k : Nat) (x : Stream) : (s.setStream k x).commits = s.commits := rfl
@[simp] theorem State.setStream_beams (k : Nat) (x : Stream) : (s.setStream k x).beams = s.beams := rfl
@[simp] theorem State.setStream_periods (k : Nat) (x : Stream) : (s.setStream k x).periods = s.periods := rfl
@[simp] theorem State.setStream_beamActive (k : Nat) (x : Stream) : (s.setStream k x).beamActive = s.beamActive := rfl
@[simp] theorem State.setStream_alerts (k : Nat) (x : Stream) : (s.setStream k x).alerts = s.alerts := rfl
@[simp] theorem State.setStream_emitted (k : Nat) (x : Stream) : (s.setStream k x).emitted = s.emitted := rfl
@[simp] theorem State.setStream_watchDone (k : Nat) (x : Stream) : (s.setStream k x).watchDone = s.watchDone := rfl
@[simp] theorem State.setStream_prods (k : Nat) (x : Stream) : (s.setStream k x).prods = s.prods := rfl
@[simp] theorem State.setStream_egress (k : Nat) (x : Stream) : (s.setStream k x).egress = s.egress := rfl
@[simp] theorem State.setStream_flowStage (k : Nat) (x : Stream) : (s.setStream k x).flowStage = s.flowStage := rfl
@[simp] theorem State.setStream_flowStart (k : Nat) (x : Stream) : (s.setStream k x).flowStart = s.flowStart := rfl
@[simp] theorem State.setStream_stagedNo (k : Nat) (x : Stream) : (s.setStream k x).stagedNo = s.stagedNo := rfl
@[simp] theorem State.setStream_sent (k : Nat) (x : Stream) : (s.setStream k x).sent = s.sent := rfl
@[simp] theorem State.setStream_notes (k : Nat) (x : Stream) : (s.setStream k x).notes = s.notes := rfl
@[simp] theorem State.setStream_msiPend (k : Nat) (x : Stream) : (s.setStream k x).msiPend = s.msiPend := rfl
@[simp] theorem State.setStream_msiSent (k : Nat) (x : Stream) : (s.setStream k x).msiSent = s.msiSent := rfl
@[simp] theorem State.setStream_targets (k : Nat) (x : Stream) : (s.setStream k x).targets = s.targets := rfl
@[simp] theorem State.setStream_holdback (k : Nat) (x : Stream) : (s.setStream k x).holdback = s.holdback := rfl
@[simp] theorem State.setStream_inFlight (k : Nat) (x : Stream) : (s.setStream k x).inFlight = s.inFlight := rfl
@[simp] theorem State.setStream_responses (k : Nat) (x : Stream) : (s.setStream k x).responses = s.responses := rfl
@[simp] theorem State.setStream_hostCut (k : Nat) (x : Stream) : (s.setStream k x).hostCut = s.hostCut := rfl
@[simp] theorem State.setStream_reqNo (k : Nat) (x : Stream) : (s.setStream k x).reqNo = s.reqNo := rfl
@[simp] theorem State.setStream_silent (k : Nat) (x : Stream) : (s.setStream k x).silent = s.silent := rfl
@[simp] theorem State.setStream_hostReads (k : Nat) (x : Stream) : (s.setStream k x).hostReads = s.hostReads := rfl
@[simp] theorem State.setStream_ctls (k : Nat) (x : Stream) : (s.setStream k x).ctls = s.ctls := rfl
@[simp] theorem State.setStream_delays (k : Nat) (x : Stream) : (s.setStream k x).delays = s.delays := rfl
@[simp] theorem State.setStream_training (k : Nat) (x : Stream) : (s.setStream k x).training = s.training := rfl
@[simp] theorem State.setStream_trainArmed (k : Nat) (x : Stream) : (s.setStream k x).trainArmed = s.trainArmed := rfl
@[simp] theorem State.setStream_throttled (k : Nat) (x : Stream) : (s.setStream k x).throttled = s.throttled := rfl
@[simp] theorem State.setStream_used (k : Nat) (x : Stream) : (s.setStream k x).used = s.used := rfl
@[simp] theorem State.setStream_logs (k : Nat) (x : Stream) : (s.setStream k x).logs = s.logs := rfl
@[simp] theorem State.setStream_ceRecent (k : Nat) (x : Stream) : (s.setStream k x).ceRecent = s.ceRecent := rfl
@[simp] theorem State.setStream_scrubs (k : Nat) (x : Stream) : (s.setStream k x).scrubs = s.scrubs := rfl
@[simp] theorem State.setStream_corrections (k : Nat) (x : Stream) : (s.setStream k x).corrections = s.corrections := rfl
@[simp] theorem State.setStream_keys (k : Nat) (x : Stream) : (s.setStream k x).keys = s.keys := rfl
@[simp] theorem State.setStream_keyStage (k : Nat) (x : Stream) : (s.setStream k x).keyStage = s.keyStage := rfl
@[simp] theorem State.setStream_gating (k : Nat) (x : Stream) : (s.setStream k x).gating = s.gating := rfl
@[simp] theorem State.setStream_tb (k : Nat) (x : Stream) : (s.setStream k x).tb = s.tb := rfl
@[simp] theorem State.setStream_refs (k : Nat) (x : Stream) : (s.setStream k x).refs = s.refs := rfl
@[simp] theorem State.setStream_peat (k : Nat) (x : Stream) : (s.setStream k x).peat = s.peat := rfl
@[simp] theorem State.setStream_power (k : Nat) (x : Stream) : (s.setStream k x).power = s.power := rfl
@[simp] theorem State.setStream_jtag (k : Nat) (x : Stream) : (s.setStream k x).jtag = s.jtag := rfl
@[simp] theorem State.setStream_d3hot (k : Nat) (x : Stream) : (s.setStream k x).d3hot = s.d3hot := rfl
@[simp] theorem State.setStream_reply (k : Nat) (x : Stream) : (s.setStream k x).reply = s.reply := rfl
@[simp] theorem State.setStream_fresh (k : Nat) (x : Stream) : (s.setStream k x).fresh = s.fresh := rfl
@[simp] theorem State.setStream_pending (k : Nat) (x : Stream) : (s.setStream k x).pending = s.pending := rfl

/-! ## `State.setSeq` -/

@[simp] theorem State.setSeq_regs (i : Nat) (x : Seq) : (s.setSeq i x).regs = s.regs := rfl
@[simp] theorem State.setSeq_mem (i : Nat) (x : Seq) : (s.setSeq i x).mem = s.mem := rfl
@[simp] theorem State.setSeq_marks (i : Nat) (x : Seq) : (s.setSeq i x).marks = s.marks := rfl
@[simp] theorem State.setSeq_lines (i : Nat) (x : Seq) : (s.setSeq i x).lines = s.lines := rfl
@[simp] theorem State.setSeq_gain (i : Nat) (x : Seq) : (s.setSeq i x).gain = s.gain := rfl
@[simp] theorem State.setSeq_badGain (i : Nat) (x : Seq) : (s.setSeq i x).badGain = s.badGain := rfl
@[simp] theorem State.setSeq_poly (i : Nat) (x : Seq) : (s.setSeq i x).poly = s.poly := rfl
@[simp] theorem State.setSeq_c0 (i : Nat) (x : Seq) : (s.setSeq i x).c0 = s.c0 := rfl
@[simp] theorem State.setSeq_f0 (i : Nat) (x : Seq) : (s.setSeq i x).f0 = s.f0 := rfl
@[simp] theorem State.setSeq_coef (i : Nat) (x : Seq) : (s.setSeq i x).coef = s.coef := rfl
@[simp] theorem State.setSeq_thr (i : Nat) (x : Seq) : (s.setSeq i x).thr = s.thr := rfl
@[simp] theorem State.setSeq_weighted (i : Nat) (x : Seq) : (s.setSeq i x).weighted = s.weighted := rfl
@[simp] theorem State.setSeq_filling (i : Nat) (x : Seq) : (s.setSeq i x).filling = s.filling := rfl
@[simp] theorem State.setSeq_cycle (i : Nat) (x : Seq) : (s.setSeq i x).cycle = s.cycle := rfl
@[simp] theorem State.setSeq_nsHold (i : Nat) (x : Seq) : (s.setSeq i x).nsHold = s.nsHold := rfl
@[simp] theorem State.setSeq_tick (i : Nat) (x : Seq) : (s.setSeq i x).tick = s.tick := rfl
@[simp] theorem State.setSeq_ports (i : Nat) (x : Seq) : (s.setSeq i x).ports = s.ports := rfl
@[simp] theorem State.setSeq_streams (i : Nat) (x : Seq) : (s.setSeq i x).streams = s.streams := rfl
@[simp] theorem State.setSeq_chains (i : Nat) (x : Seq) : (s.setSeq i x).chains = s.chains := rfl
@[simp] theorem State.setSeq_hold (i : Nat) (x : Seq) : (s.setSeq i x).hold = s.hold := rfl
@[simp] theorem State.setSeq_released (i : Nat) (x : Seq) : (s.setSeq i x).released = s.released := rfl
@[simp] theorem State.setSeq_feActive (i : Nat) (x : Seq) : (s.setSeq i x).feActive = s.feActive := rfl
@[simp] theorem State.setSeq_dcClear (i : Nat) (x : Seq) : (s.setSeq i x).dcClear = s.dcClear := rfl
@[simp] theorem State.setSeq_counts (i : Nat) (x : Seq) : (s.setSeq i x).counts = s.counts := rfl
@[simp] theorem State.setSeq_countsNext (i : Nat) (x : Seq) : (s.setSeq i x).countsNext = s.countsNext := rfl
@[simp] theorem State.setSeq_snapshot (i : Nat) (x : Seq) : (s.setSeq i x).snapshot = s.snapshot := rfl
@[simp] theorem State.setSeq_linkloss (i : Nat) (x : Seq) : (s.setSeq i x).linkloss = s.linkloss := rfl
@[simp] theorem State.setSeq_formed (i : Nat) (x : Seq) : (s.setSeq i x).formed = s.formed := rfl
@[simp] theorem State.setSeq_staging (i : Nat) (x : Seq) : (s.setSeq i x).staging = s.staging := rfl
@[simp] theorem State.setSeq_twins (i : Nat) (x : Seq) : (s.setSeq i x).twins = s.twins := rfl
@[simp] theorem State.setSeq_engines (i : Nat) (x : Seq) : (s.setSeq i x).engines = s.engines := rfl
@[simp] theorem State.setSeq_mire (i : Nat) (x : Seq) : (s.setSeq i x).mire = s.mire := rfl
@[simp] theorem State.setSeq_begun (i : Nat) (x : Seq) : (s.setSeq i x).begun = s.begun := rfl
@[simp] theorem State.setSeq_bufTags (i : Nat) (x : Seq) : (s.setSeq i x).bufTags = s.bufTags := rfl
@[simp] theorem State.setSeq_cells (i : Nat) (x : Seq) : (s.setSeq i x).cells = s.cells := rfl
@[simp] theorem State.setSeq_cellLost (i : Nat) (x : Seq) : (s.setSeq i x).cellLost = s.cellLost := rfl
@[simp] theorem State.setSeq_parity (i : Nat) (x : Seq) : (s.setSeq i x).parity = s.parity := rfl
@[simp] theorem State.setSeq_retired (i : Nat) (x : Seq) : (s.setSeq i x).retired = s.retired := rfl
@[simp] theorem State.setSeq_stand (i : Nat) (x : Seq) : (s.setSeq i x).stand = s.stand := rfl
@[simp] theorem State.setSeq_redos (i : Nat) (x : Seq) : (s.setSeq i x).redos = s.redos := rfl
@[simp] theorem State.setSeq_merges (i : Nat) (x : Seq) : (s.setSeq i x).merges = s.merges := rfl
@[simp] theorem State.setSeq_releases (i : Nat) (x : Seq) : (s.setSeq i x).releases = s.releases := rfl
@[simp] theorem State.setSeq_closes (i : Nat) (x : Seq) : (s.setSeq i x).closes = s.closes := rfl
@[simp] theorem State.setSeq_norms (i : Nat) (x : Seq) : (s.setSeq i x).norms = s.norms := rfl
@[simp] theorem State.setSeq_restarts (i : Nat) (x : Seq) : (s.setSeq i x).restarts = s.restarts := rfl
@[simp] theorem State.setSeq_slacks (i : Nat) (x : Seq) : (s.setSeq i x).slacks = s.slacks := rfl
@[simp] theorem State.setSeq_wbuf (i : Nat) (x : Seq) : (s.setSeq i x).wbuf = s.wbuf := rfl
@[simp] theorem State.setSeq_commits (i : Nat) (x : Seq) : (s.setSeq i x).commits = s.commits := rfl
@[simp] theorem State.setSeq_beams (i : Nat) (x : Seq) : (s.setSeq i x).beams = s.beams := rfl
@[simp] theorem State.setSeq_periods (i : Nat) (x : Seq) : (s.setSeq i x).periods = s.periods := rfl
@[simp] theorem State.setSeq_beamActive (i : Nat) (x : Seq) : (s.setSeq i x).beamActive = s.beamActive := rfl
@[simp] theorem State.setSeq_alerts (i : Nat) (x : Seq) : (s.setSeq i x).alerts = s.alerts := rfl
@[simp] theorem State.setSeq_emitted (i : Nat) (x : Seq) : (s.setSeq i x).emitted = s.emitted := rfl
@[simp] theorem State.setSeq_watchDone (i : Nat) (x : Seq) : (s.setSeq i x).watchDone = s.watchDone := rfl
@[simp] theorem State.setSeq_prods (i : Nat) (x : Seq) : (s.setSeq i x).prods = s.prods := rfl
@[simp] theorem State.setSeq_egress (i : Nat) (x : Seq) : (s.setSeq i x).egress = s.egress := rfl
@[simp] theorem State.setSeq_flowStage (i : Nat) (x : Seq) : (s.setSeq i x).flowStage = s.flowStage := rfl
@[simp] theorem State.setSeq_flowStart (i : Nat) (x : Seq) : (s.setSeq i x).flowStart = s.flowStart := rfl
@[simp] theorem State.setSeq_stagedNo (i : Nat) (x : Seq) : (s.setSeq i x).stagedNo = s.stagedNo := rfl
@[simp] theorem State.setSeq_sent (i : Nat) (x : Seq) : (s.setSeq i x).sent = s.sent := rfl
@[simp] theorem State.setSeq_notes (i : Nat) (x : Seq) : (s.setSeq i x).notes = s.notes := rfl
@[simp] theorem State.setSeq_msiPend (i : Nat) (x : Seq) : (s.setSeq i x).msiPend = s.msiPend := rfl
@[simp] theorem State.setSeq_msiSent (i : Nat) (x : Seq) : (s.setSeq i x).msiSent = s.msiSent := rfl
@[simp] theorem State.setSeq_targets (i : Nat) (x : Seq) : (s.setSeq i x).targets = s.targets := rfl
@[simp] theorem State.setSeq_holdback (i : Nat) (x : Seq) : (s.setSeq i x).holdback = s.holdback := rfl
@[simp] theorem State.setSeq_inFlight (i : Nat) (x : Seq) : (s.setSeq i x).inFlight = s.inFlight := rfl
@[simp] theorem State.setSeq_responses (i : Nat) (x : Seq) : (s.setSeq i x).responses = s.responses := rfl
@[simp] theorem State.setSeq_hostCut (i : Nat) (x : Seq) : (s.setSeq i x).hostCut = s.hostCut := rfl
@[simp] theorem State.setSeq_reqNo (i : Nat) (x : Seq) : (s.setSeq i x).reqNo = s.reqNo := rfl
@[simp] theorem State.setSeq_silent (i : Nat) (x : Seq) : (s.setSeq i x).silent = s.silent := rfl
@[simp] theorem State.setSeq_hostReads (i : Nat) (x : Seq) : (s.setSeq i x).hostReads = s.hostReads := rfl
@[simp] theorem State.setSeq_ctls (i : Nat) (x : Seq) : (s.setSeq i x).ctls = s.ctls := rfl
@[simp] theorem State.setSeq_delays (i : Nat) (x : Seq) : (s.setSeq i x).delays = s.delays := rfl
@[simp] theorem State.setSeq_training (i : Nat) (x : Seq) : (s.setSeq i x).training = s.training := rfl
@[simp] theorem State.setSeq_trainArmed (i : Nat) (x : Seq) : (s.setSeq i x).trainArmed = s.trainArmed := rfl
@[simp] theorem State.setSeq_throttled (i : Nat) (x : Seq) : (s.setSeq i x).throttled = s.throttled := rfl
@[simp] theorem State.setSeq_used (i : Nat) (x : Seq) : (s.setSeq i x).used = s.used := rfl
@[simp] theorem State.setSeq_logs (i : Nat) (x : Seq) : (s.setSeq i x).logs = s.logs := rfl
@[simp] theorem State.setSeq_ceRecent (i : Nat) (x : Seq) : (s.setSeq i x).ceRecent = s.ceRecent := rfl
@[simp] theorem State.setSeq_scrubs (i : Nat) (x : Seq) : (s.setSeq i x).scrubs = s.scrubs := rfl
@[simp] theorem State.setSeq_corrections (i : Nat) (x : Seq) : (s.setSeq i x).corrections = s.corrections := rfl
@[simp] theorem State.setSeq_keys (i : Nat) (x : Seq) : (s.setSeq i x).keys = s.keys := rfl
@[simp] theorem State.setSeq_keyStage (i : Nat) (x : Seq) : (s.setSeq i x).keyStage = s.keyStage := rfl
@[simp] theorem State.setSeq_gating (i : Nat) (x : Seq) : (s.setSeq i x).gating = s.gating := rfl
@[simp] theorem State.setSeq_tb (i : Nat) (x : Seq) : (s.setSeq i x).tb = s.tb := rfl
@[simp] theorem State.setSeq_refs (i : Nat) (x : Seq) : (s.setSeq i x).refs = s.refs := rfl
@[simp] theorem State.setSeq_peat (i : Nat) (x : Seq) : (s.setSeq i x).peat = s.peat := rfl
@[simp] theorem State.setSeq_power (i : Nat) (x : Seq) : (s.setSeq i x).power = s.power := rfl
@[simp] theorem State.setSeq_jtag (i : Nat) (x : Seq) : (s.setSeq i x).jtag = s.jtag := rfl
@[simp] theorem State.setSeq_d3hot (i : Nat) (x : Seq) : (s.setSeq i x).d3hot = s.d3hot := rfl
@[simp] theorem State.setSeq_reply (i : Nat) (x : Seq) : (s.setSeq i x).reply = s.reply := rfl
@[simp] theorem State.setSeq_fresh (i : Nat) (x : Seq) : (s.setSeq i x).fresh = s.fresh := rfl
@[simp] theorem State.setSeq_pending (i : Nat) (x : Seq) : (s.setSeq i x).pending = s.pending := rfl

/-! ## `State.setCell` -/

@[simp] theorem State.setCell_regs (i : Nat) (x : Cell) : (s.setCell i x).regs = s.regs := rfl
@[simp] theorem State.setCell_mem (i : Nat) (x : Cell) : (s.setCell i x).mem = s.mem := rfl
@[simp] theorem State.setCell_marks (i : Nat) (x : Cell) : (s.setCell i x).marks = s.marks := rfl
@[simp] theorem State.setCell_lines (i : Nat) (x : Cell) : (s.setCell i x).lines = s.lines := rfl
@[simp] theorem State.setCell_gain (i : Nat) (x : Cell) : (s.setCell i x).gain = s.gain := rfl
@[simp] theorem State.setCell_badGain (i : Nat) (x : Cell) : (s.setCell i x).badGain = s.badGain := rfl
@[simp] theorem State.setCell_poly (i : Nat) (x : Cell) : (s.setCell i x).poly = s.poly := rfl
@[simp] theorem State.setCell_c0 (i : Nat) (x : Cell) : (s.setCell i x).c0 = s.c0 := rfl
@[simp] theorem State.setCell_f0 (i : Nat) (x : Cell) : (s.setCell i x).f0 = s.f0 := rfl
@[simp] theorem State.setCell_coef (i : Nat) (x : Cell) : (s.setCell i x).coef = s.coef := rfl
@[simp] theorem State.setCell_thr (i : Nat) (x : Cell) : (s.setCell i x).thr = s.thr := rfl
@[simp] theorem State.setCell_weighted (i : Nat) (x : Cell) : (s.setCell i x).weighted = s.weighted := rfl
@[simp] theorem State.setCell_filling (i : Nat) (x : Cell) : (s.setCell i x).filling = s.filling := rfl
@[simp] theorem State.setCell_cycle (i : Nat) (x : Cell) : (s.setCell i x).cycle = s.cycle := rfl
@[simp] theorem State.setCell_nsHold (i : Nat) (x : Cell) : (s.setCell i x).nsHold = s.nsHold := rfl
@[simp] theorem State.setCell_tick (i : Nat) (x : Cell) : (s.setCell i x).tick = s.tick := rfl
@[simp] theorem State.setCell_ports (i : Nat) (x : Cell) : (s.setCell i x).ports = s.ports := rfl
@[simp] theorem State.setCell_streams (i : Nat) (x : Cell) : (s.setCell i x).streams = s.streams := rfl
@[simp] theorem State.setCell_chains (i : Nat) (x : Cell) : (s.setCell i x).chains = s.chains := rfl
@[simp] theorem State.setCell_hold (i : Nat) (x : Cell) : (s.setCell i x).hold = s.hold := rfl
@[simp] theorem State.setCell_released (i : Nat) (x : Cell) : (s.setCell i x).released = s.released := rfl
@[simp] theorem State.setCell_feActive (i : Nat) (x : Cell) : (s.setCell i x).feActive = s.feActive := rfl
@[simp] theorem State.setCell_dcClear (i : Nat) (x : Cell) : (s.setCell i x).dcClear = s.dcClear := rfl
@[simp] theorem State.setCell_counts (i : Nat) (x : Cell) : (s.setCell i x).counts = s.counts := rfl
@[simp] theorem State.setCell_countsNext (i : Nat) (x : Cell) : (s.setCell i x).countsNext = s.countsNext := rfl
@[simp] theorem State.setCell_snapshot (i : Nat) (x : Cell) : (s.setCell i x).snapshot = s.snapshot := rfl
@[simp] theorem State.setCell_linkloss (i : Nat) (x : Cell) : (s.setCell i x).linkloss = s.linkloss := rfl
@[simp] theorem State.setCell_formed (i : Nat) (x : Cell) : (s.setCell i x).formed = s.formed := rfl
@[simp] theorem State.setCell_staging (i : Nat) (x : Cell) : (s.setCell i x).staging = s.staging := rfl
@[simp] theorem State.setCell_twins (i : Nat) (x : Cell) : (s.setCell i x).twins = s.twins := rfl
@[simp] theorem State.setCell_engines (i : Nat) (x : Cell) : (s.setCell i x).engines = s.engines := rfl
@[simp] theorem State.setCell_mire (i : Nat) (x : Cell) : (s.setCell i x).mire = s.mire := rfl
@[simp] theorem State.setCell_begun (i : Nat) (x : Cell) : (s.setCell i x).begun = s.begun := rfl
@[simp] theorem State.setCell_bufTags (i : Nat) (x : Cell) : (s.setCell i x).bufTags = s.bufTags := rfl
@[simp] theorem State.setCell_seqs (i : Nat) (x : Cell) : (s.setCell i x).seqs = s.seqs := rfl
@[simp] theorem State.setCell_cellLost (i : Nat) (x : Cell) : (s.setCell i x).cellLost = s.cellLost := rfl
@[simp] theorem State.setCell_parity (i : Nat) (x : Cell) : (s.setCell i x).parity = s.parity := rfl
@[simp] theorem State.setCell_retired (i : Nat) (x : Cell) : (s.setCell i x).retired = s.retired := rfl
@[simp] theorem State.setCell_stand (i : Nat) (x : Cell) : (s.setCell i x).stand = s.stand := rfl
@[simp] theorem State.setCell_redos (i : Nat) (x : Cell) : (s.setCell i x).redos = s.redos := rfl
@[simp] theorem State.setCell_merges (i : Nat) (x : Cell) : (s.setCell i x).merges = s.merges := rfl
@[simp] theorem State.setCell_releases (i : Nat) (x : Cell) : (s.setCell i x).releases = s.releases := rfl
@[simp] theorem State.setCell_closes (i : Nat) (x : Cell) : (s.setCell i x).closes = s.closes := rfl
@[simp] theorem State.setCell_norms (i : Nat) (x : Cell) : (s.setCell i x).norms = s.norms := rfl
@[simp] theorem State.setCell_restarts (i : Nat) (x : Cell) : (s.setCell i x).restarts = s.restarts := rfl
@[simp] theorem State.setCell_slacks (i : Nat) (x : Cell) : (s.setCell i x).slacks = s.slacks := rfl
@[simp] theorem State.setCell_wbuf (i : Nat) (x : Cell) : (s.setCell i x).wbuf = s.wbuf := rfl
@[simp] theorem State.setCell_commits (i : Nat) (x : Cell) : (s.setCell i x).commits = s.commits := rfl
@[simp] theorem State.setCell_beams (i : Nat) (x : Cell) : (s.setCell i x).beams = s.beams := rfl
@[simp] theorem State.setCell_periods (i : Nat) (x : Cell) : (s.setCell i x).periods = s.periods := rfl
@[simp] theorem State.setCell_beamActive (i : Nat) (x : Cell) : (s.setCell i x).beamActive = s.beamActive := rfl
@[simp] theorem State.setCell_alerts (i : Nat) (x : Cell) : (s.setCell i x).alerts = s.alerts := rfl
@[simp] theorem State.setCell_emitted (i : Nat) (x : Cell) : (s.setCell i x).emitted = s.emitted := rfl
@[simp] theorem State.setCell_watchDone (i : Nat) (x : Cell) : (s.setCell i x).watchDone = s.watchDone := rfl
@[simp] theorem State.setCell_prods (i : Nat) (x : Cell) : (s.setCell i x).prods = s.prods := rfl
@[simp] theorem State.setCell_egress (i : Nat) (x : Cell) : (s.setCell i x).egress = s.egress := rfl
@[simp] theorem State.setCell_flowStage (i : Nat) (x : Cell) : (s.setCell i x).flowStage = s.flowStage := rfl
@[simp] theorem State.setCell_flowStart (i : Nat) (x : Cell) : (s.setCell i x).flowStart = s.flowStart := rfl
@[simp] theorem State.setCell_stagedNo (i : Nat) (x : Cell) : (s.setCell i x).stagedNo = s.stagedNo := rfl
@[simp] theorem State.setCell_sent (i : Nat) (x : Cell) : (s.setCell i x).sent = s.sent := rfl
@[simp] theorem State.setCell_notes (i : Nat) (x : Cell) : (s.setCell i x).notes = s.notes := rfl
@[simp] theorem State.setCell_msiPend (i : Nat) (x : Cell) : (s.setCell i x).msiPend = s.msiPend := rfl
@[simp] theorem State.setCell_msiSent (i : Nat) (x : Cell) : (s.setCell i x).msiSent = s.msiSent := rfl
@[simp] theorem State.setCell_targets (i : Nat) (x : Cell) : (s.setCell i x).targets = s.targets := rfl
@[simp] theorem State.setCell_holdback (i : Nat) (x : Cell) : (s.setCell i x).holdback = s.holdback := rfl
@[simp] theorem State.setCell_inFlight (i : Nat) (x : Cell) : (s.setCell i x).inFlight = s.inFlight := rfl
@[simp] theorem State.setCell_responses (i : Nat) (x : Cell) : (s.setCell i x).responses = s.responses := rfl
@[simp] theorem State.setCell_hostCut (i : Nat) (x : Cell) : (s.setCell i x).hostCut = s.hostCut := rfl
@[simp] theorem State.setCell_reqNo (i : Nat) (x : Cell) : (s.setCell i x).reqNo = s.reqNo := rfl
@[simp] theorem State.setCell_silent (i : Nat) (x : Cell) : (s.setCell i x).silent = s.silent := rfl
@[simp] theorem State.setCell_hostReads (i : Nat) (x : Cell) : (s.setCell i x).hostReads = s.hostReads := rfl
@[simp] theorem State.setCell_ctls (i : Nat) (x : Cell) : (s.setCell i x).ctls = s.ctls := rfl
@[simp] theorem State.setCell_delays (i : Nat) (x : Cell) : (s.setCell i x).delays = s.delays := rfl
@[simp] theorem State.setCell_training (i : Nat) (x : Cell) : (s.setCell i x).training = s.training := rfl
@[simp] theorem State.setCell_trainArmed (i : Nat) (x : Cell) : (s.setCell i x).trainArmed = s.trainArmed := rfl
@[simp] theorem State.setCell_throttled (i : Nat) (x : Cell) : (s.setCell i x).throttled = s.throttled := rfl
@[simp] theorem State.setCell_used (i : Nat) (x : Cell) : (s.setCell i x).used = s.used := rfl
@[simp] theorem State.setCell_logs (i : Nat) (x : Cell) : (s.setCell i x).logs = s.logs := rfl
@[simp] theorem State.setCell_ceRecent (i : Nat) (x : Cell) : (s.setCell i x).ceRecent = s.ceRecent := rfl
@[simp] theorem State.setCell_scrubs (i : Nat) (x : Cell) : (s.setCell i x).scrubs = s.scrubs := rfl
@[simp] theorem State.setCell_corrections (i : Nat) (x : Cell) : (s.setCell i x).corrections = s.corrections := rfl
@[simp] theorem State.setCell_keys (i : Nat) (x : Cell) : (s.setCell i x).keys = s.keys := rfl
@[simp] theorem State.setCell_keyStage (i : Nat) (x : Cell) : (s.setCell i x).keyStage = s.keyStage := rfl
@[simp] theorem State.setCell_gating (i : Nat) (x : Cell) : (s.setCell i x).gating = s.gating := rfl
@[simp] theorem State.setCell_tb (i : Nat) (x : Cell) : (s.setCell i x).tb = s.tb := rfl
@[simp] theorem State.setCell_refs (i : Nat) (x : Cell) : (s.setCell i x).refs = s.refs := rfl
@[simp] theorem State.setCell_peat (i : Nat) (x : Cell) : (s.setCell i x).peat = s.peat := rfl
@[simp] theorem State.setCell_power (i : Nat) (x : Cell) : (s.setCell i x).power = s.power := rfl
@[simp] theorem State.setCell_jtag (i : Nat) (x : Cell) : (s.setCell i x).jtag = s.jtag := rfl
@[simp] theorem State.setCell_d3hot (i : Nat) (x : Cell) : (s.setCell i x).d3hot = s.d3hot := rfl
@[simp] theorem State.setCell_reply (i : Nat) (x : Cell) : (s.setCell i x).reply = s.reply := rfl
@[simp] theorem State.setCell_fresh (i : Nat) (x : Cell) : (s.setCell i x).fresh = s.fresh := rfl
@[simp] theorem State.setCell_pending (i : Nat) (x : Cell) : (s.setCell i x).pending = s.pending := rfl

/-! ## `State.setEngine` -/

@[simp] theorem State.setEngine_regs (e : Nat) (x : Engine) : (s.setEngine e x).regs = s.regs := rfl
@[simp] theorem State.setEngine_mem (e : Nat) (x : Engine) : (s.setEngine e x).mem = s.mem := rfl
@[simp] theorem State.setEngine_marks (e : Nat) (x : Engine) : (s.setEngine e x).marks = s.marks := rfl
@[simp] theorem State.setEngine_lines (e : Nat) (x : Engine) : (s.setEngine e x).lines = s.lines := rfl
@[simp] theorem State.setEngine_gain (e : Nat) (x : Engine) : (s.setEngine e x).gain = s.gain := rfl
@[simp] theorem State.setEngine_badGain (e : Nat) (x : Engine) : (s.setEngine e x).badGain = s.badGain := rfl
@[simp] theorem State.setEngine_poly (e : Nat) (x : Engine) : (s.setEngine e x).poly = s.poly := rfl
@[simp] theorem State.setEngine_c0 (e : Nat) (x : Engine) : (s.setEngine e x).c0 = s.c0 := rfl
@[simp] theorem State.setEngine_f0 (e : Nat) (x : Engine) : (s.setEngine e x).f0 = s.f0 := rfl
@[simp] theorem State.setEngine_coef (e : Nat) (x : Engine) : (s.setEngine e x).coef = s.coef := rfl
@[simp] theorem State.setEngine_thr (e : Nat) (x : Engine) : (s.setEngine e x).thr = s.thr := rfl
@[simp] theorem State.setEngine_weighted (e : Nat) (x : Engine) : (s.setEngine e x).weighted = s.weighted := rfl
@[simp] theorem State.setEngine_filling (e : Nat) (x : Engine) : (s.setEngine e x).filling = s.filling := rfl
@[simp] theorem State.setEngine_cycle (e : Nat) (x : Engine) : (s.setEngine e x).cycle = s.cycle := rfl
@[simp] theorem State.setEngine_nsHold (e : Nat) (x : Engine) : (s.setEngine e x).nsHold = s.nsHold := rfl
@[simp] theorem State.setEngine_tick (e : Nat) (x : Engine) : (s.setEngine e x).tick = s.tick := rfl
@[simp] theorem State.setEngine_ports (e : Nat) (x : Engine) : (s.setEngine e x).ports = s.ports := rfl
@[simp] theorem State.setEngine_streams (e : Nat) (x : Engine) : (s.setEngine e x).streams = s.streams := rfl
@[simp] theorem State.setEngine_chains (e : Nat) (x : Engine) : (s.setEngine e x).chains = s.chains := rfl
@[simp] theorem State.setEngine_hold (e : Nat) (x : Engine) : (s.setEngine e x).hold = s.hold := rfl
@[simp] theorem State.setEngine_released (e : Nat) (x : Engine) : (s.setEngine e x).released = s.released := rfl
@[simp] theorem State.setEngine_feActive (e : Nat) (x : Engine) : (s.setEngine e x).feActive = s.feActive := rfl
@[simp] theorem State.setEngine_dcClear (e : Nat) (x : Engine) : (s.setEngine e x).dcClear = s.dcClear := rfl
@[simp] theorem State.setEngine_counts (e : Nat) (x : Engine) : (s.setEngine e x).counts = s.counts := rfl
@[simp] theorem State.setEngine_countsNext (e : Nat) (x : Engine) : (s.setEngine e x).countsNext = s.countsNext := rfl
@[simp] theorem State.setEngine_snapshot (e : Nat) (x : Engine) : (s.setEngine e x).snapshot = s.snapshot := rfl
@[simp] theorem State.setEngine_linkloss (e : Nat) (x : Engine) : (s.setEngine e x).linkloss = s.linkloss := rfl
@[simp] theorem State.setEngine_formed (e : Nat) (x : Engine) : (s.setEngine e x).formed = s.formed := rfl
@[simp] theorem State.setEngine_staging (e : Nat) (x : Engine) : (s.setEngine e x).staging = s.staging := rfl
@[simp] theorem State.setEngine_twins (e : Nat) (x : Engine) : (s.setEngine e x).twins = s.twins := rfl
@[simp] theorem State.setEngine_mire (e : Nat) (x : Engine) : (s.setEngine e x).mire = s.mire := rfl
@[simp] theorem State.setEngine_begun (e : Nat) (x : Engine) : (s.setEngine e x).begun = s.begun := rfl
@[simp] theorem State.setEngine_bufTags (e : Nat) (x : Engine) : (s.setEngine e x).bufTags = s.bufTags := rfl
@[simp] theorem State.setEngine_seqs (e : Nat) (x : Engine) : (s.setEngine e x).seqs = s.seqs := rfl
@[simp] theorem State.setEngine_cells (e : Nat) (x : Engine) : (s.setEngine e x).cells = s.cells := rfl
@[simp] theorem State.setEngine_cellLost (e : Nat) (x : Engine) : (s.setEngine e x).cellLost = s.cellLost := rfl
@[simp] theorem State.setEngine_parity (e : Nat) (x : Engine) : (s.setEngine e x).parity = s.parity := rfl
@[simp] theorem State.setEngine_retired (e : Nat) (x : Engine) : (s.setEngine e x).retired = s.retired := rfl
@[simp] theorem State.setEngine_stand (e : Nat) (x : Engine) : (s.setEngine e x).stand = s.stand := rfl
@[simp] theorem State.setEngine_redos (e : Nat) (x : Engine) : (s.setEngine e x).redos = s.redos := rfl
@[simp] theorem State.setEngine_merges (e : Nat) (x : Engine) : (s.setEngine e x).merges = s.merges := rfl
@[simp] theorem State.setEngine_releases (e : Nat) (x : Engine) : (s.setEngine e x).releases = s.releases := rfl
@[simp] theorem State.setEngine_closes (e : Nat) (x : Engine) : (s.setEngine e x).closes = s.closes := rfl
@[simp] theorem State.setEngine_norms (e : Nat) (x : Engine) : (s.setEngine e x).norms = s.norms := rfl
@[simp] theorem State.setEngine_restarts (e : Nat) (x : Engine) : (s.setEngine e x).restarts = s.restarts := rfl
@[simp] theorem State.setEngine_slacks (e : Nat) (x : Engine) : (s.setEngine e x).slacks = s.slacks := rfl
@[simp] theorem State.setEngine_wbuf (e : Nat) (x : Engine) : (s.setEngine e x).wbuf = s.wbuf := rfl
@[simp] theorem State.setEngine_commits (e : Nat) (x : Engine) : (s.setEngine e x).commits = s.commits := rfl
@[simp] theorem State.setEngine_beams (e : Nat) (x : Engine) : (s.setEngine e x).beams = s.beams := rfl
@[simp] theorem State.setEngine_periods (e : Nat) (x : Engine) : (s.setEngine e x).periods = s.periods := rfl
@[simp] theorem State.setEngine_beamActive (e : Nat) (x : Engine) : (s.setEngine e x).beamActive = s.beamActive := rfl
@[simp] theorem State.setEngine_alerts (e : Nat) (x : Engine) : (s.setEngine e x).alerts = s.alerts := rfl
@[simp] theorem State.setEngine_emitted (e : Nat) (x : Engine) : (s.setEngine e x).emitted = s.emitted := rfl
@[simp] theorem State.setEngine_watchDone (e : Nat) (x : Engine) : (s.setEngine e x).watchDone = s.watchDone := rfl
@[simp] theorem State.setEngine_prods (e : Nat) (x : Engine) : (s.setEngine e x).prods = s.prods := rfl
@[simp] theorem State.setEngine_egress (e : Nat) (x : Engine) : (s.setEngine e x).egress = s.egress := rfl
@[simp] theorem State.setEngine_flowStage (e : Nat) (x : Engine) : (s.setEngine e x).flowStage = s.flowStage := rfl
@[simp] theorem State.setEngine_flowStart (e : Nat) (x : Engine) : (s.setEngine e x).flowStart = s.flowStart := rfl
@[simp] theorem State.setEngine_stagedNo (e : Nat) (x : Engine) : (s.setEngine e x).stagedNo = s.stagedNo := rfl
@[simp] theorem State.setEngine_sent (e : Nat) (x : Engine) : (s.setEngine e x).sent = s.sent := rfl
@[simp] theorem State.setEngine_notes (e : Nat) (x : Engine) : (s.setEngine e x).notes = s.notes := rfl
@[simp] theorem State.setEngine_msiPend (e : Nat) (x : Engine) : (s.setEngine e x).msiPend = s.msiPend := rfl
@[simp] theorem State.setEngine_msiSent (e : Nat) (x : Engine) : (s.setEngine e x).msiSent = s.msiSent := rfl
@[simp] theorem State.setEngine_targets (e : Nat) (x : Engine) : (s.setEngine e x).targets = s.targets := rfl
@[simp] theorem State.setEngine_holdback (e : Nat) (x : Engine) : (s.setEngine e x).holdback = s.holdback := rfl
@[simp] theorem State.setEngine_inFlight (e : Nat) (x : Engine) : (s.setEngine e x).inFlight = s.inFlight := rfl
@[simp] theorem State.setEngine_responses (e : Nat) (x : Engine) : (s.setEngine e x).responses = s.responses := rfl
@[simp] theorem State.setEngine_hostCut (e : Nat) (x : Engine) : (s.setEngine e x).hostCut = s.hostCut := rfl
@[simp] theorem State.setEngine_reqNo (e : Nat) (x : Engine) : (s.setEngine e x).reqNo = s.reqNo := rfl
@[simp] theorem State.setEngine_silent (e : Nat) (x : Engine) : (s.setEngine e x).silent = s.silent := rfl
@[simp] theorem State.setEngine_hostReads (e : Nat) (x : Engine) : (s.setEngine e x).hostReads = s.hostReads := rfl
@[simp] theorem State.setEngine_ctls (e : Nat) (x : Engine) : (s.setEngine e x).ctls = s.ctls := rfl
@[simp] theorem State.setEngine_delays (e : Nat) (x : Engine) : (s.setEngine e x).delays = s.delays := rfl
@[simp] theorem State.setEngine_training (e : Nat) (x : Engine) : (s.setEngine e x).training = s.training := rfl
@[simp] theorem State.setEngine_trainArmed (e : Nat) (x : Engine) : (s.setEngine e x).trainArmed = s.trainArmed := rfl
@[simp] theorem State.setEngine_throttled (e : Nat) (x : Engine) : (s.setEngine e x).throttled = s.throttled := rfl
@[simp] theorem State.setEngine_used (e : Nat) (x : Engine) : (s.setEngine e x).used = s.used := rfl
@[simp] theorem State.setEngine_logs (e : Nat) (x : Engine) : (s.setEngine e x).logs = s.logs := rfl
@[simp] theorem State.setEngine_ceRecent (e : Nat) (x : Engine) : (s.setEngine e x).ceRecent = s.ceRecent := rfl
@[simp] theorem State.setEngine_scrubs (e : Nat) (x : Engine) : (s.setEngine e x).scrubs = s.scrubs := rfl
@[simp] theorem State.setEngine_corrections (e : Nat) (x : Engine) : (s.setEngine e x).corrections = s.corrections := rfl
@[simp] theorem State.setEngine_keys (e : Nat) (x : Engine) : (s.setEngine e x).keys = s.keys := rfl
@[simp] theorem State.setEngine_keyStage (e : Nat) (x : Engine) : (s.setEngine e x).keyStage = s.keyStage := rfl
@[simp] theorem State.setEngine_gating (e : Nat) (x : Engine) : (s.setEngine e x).gating = s.gating := rfl
@[simp] theorem State.setEngine_tb (e : Nat) (x : Engine) : (s.setEngine e x).tb = s.tb := rfl
@[simp] theorem State.setEngine_refs (e : Nat) (x : Engine) : (s.setEngine e x).refs = s.refs := rfl
@[simp] theorem State.setEngine_peat (e : Nat) (x : Engine) : (s.setEngine e x).peat = s.peat := rfl
@[simp] theorem State.setEngine_power (e : Nat) (x : Engine) : (s.setEngine e x).power = s.power := rfl
@[simp] theorem State.setEngine_jtag (e : Nat) (x : Engine) : (s.setEngine e x).jtag = s.jtag := rfl
@[simp] theorem State.setEngine_d3hot (e : Nat) (x : Engine) : (s.setEngine e x).d3hot = s.d3hot := rfl
@[simp] theorem State.setEngine_reply (e : Nat) (x : Engine) : (s.setEngine e x).reply = s.reply := rfl
@[simp] theorem State.setEngine_fresh (e : Nat) (x : Engine) : (s.setEngine e x).fresh = s.fresh := rfl
@[simp] theorem State.setEngine_pending (e : Nat) (x : Engine) : (s.setEngine e x).pending = s.pending := rfl

/-! ## `State.setPeriod` -/

@[simp] theorem State.setPeriod_regs (β r : Nat) (x : Period) : (s.setPeriod β r x).regs = s.regs := rfl
@[simp] theorem State.setPeriod_mem (β r : Nat) (x : Period) : (s.setPeriod β r x).mem = s.mem := rfl
@[simp] theorem State.setPeriod_marks (β r : Nat) (x : Period) : (s.setPeriod β r x).marks = s.marks := rfl
@[simp] theorem State.setPeriod_lines (β r : Nat) (x : Period) : (s.setPeriod β r x).lines = s.lines := rfl
@[simp] theorem State.setPeriod_gain (β r : Nat) (x : Period) : (s.setPeriod β r x).gain = s.gain := rfl
@[simp] theorem State.setPeriod_badGain (β r : Nat) (x : Period) : (s.setPeriod β r x).badGain = s.badGain := rfl
@[simp] theorem State.setPeriod_poly (β r : Nat) (x : Period) : (s.setPeriod β r x).poly = s.poly := rfl
@[simp] theorem State.setPeriod_c0 (β r : Nat) (x : Period) : (s.setPeriod β r x).c0 = s.c0 := rfl
@[simp] theorem State.setPeriod_f0 (β r : Nat) (x : Period) : (s.setPeriod β r x).f0 = s.f0 := rfl
@[simp] theorem State.setPeriod_coef (β r : Nat) (x : Period) : (s.setPeriod β r x).coef = s.coef := rfl
@[simp] theorem State.setPeriod_thr (β r : Nat) (x : Period) : (s.setPeriod β r x).thr = s.thr := rfl
@[simp] theorem State.setPeriod_weighted (β r : Nat) (x : Period) : (s.setPeriod β r x).weighted = s.weighted := rfl
@[simp] theorem State.setPeriod_filling (β r : Nat) (x : Period) : (s.setPeriod β r x).filling = s.filling := rfl
@[simp] theorem State.setPeriod_cycle (β r : Nat) (x : Period) : (s.setPeriod β r x).cycle = s.cycle := rfl
@[simp] theorem State.setPeriod_nsHold (β r : Nat) (x : Period) : (s.setPeriod β r x).nsHold = s.nsHold := rfl
@[simp] theorem State.setPeriod_tick (β r : Nat) (x : Period) : (s.setPeriod β r x).tick = s.tick := rfl
@[simp] theorem State.setPeriod_ports (β r : Nat) (x : Period) : (s.setPeriod β r x).ports = s.ports := rfl
@[simp] theorem State.setPeriod_streams (β r : Nat) (x : Period) : (s.setPeriod β r x).streams = s.streams := rfl
@[simp] theorem State.setPeriod_chains (β r : Nat) (x : Period) : (s.setPeriod β r x).chains = s.chains := rfl
@[simp] theorem State.setPeriod_hold (β r : Nat) (x : Period) : (s.setPeriod β r x).hold = s.hold := rfl
@[simp] theorem State.setPeriod_released (β r : Nat) (x : Period) : (s.setPeriod β r x).released = s.released := rfl
@[simp] theorem State.setPeriod_feActive (β r : Nat) (x : Period) : (s.setPeriod β r x).feActive = s.feActive := rfl
@[simp] theorem State.setPeriod_dcClear (β r : Nat) (x : Period) : (s.setPeriod β r x).dcClear = s.dcClear := rfl
@[simp] theorem State.setPeriod_counts (β r : Nat) (x : Period) : (s.setPeriod β r x).counts = s.counts := rfl
@[simp] theorem State.setPeriod_countsNext (β r : Nat) (x : Period) : (s.setPeriod β r x).countsNext = s.countsNext := rfl
@[simp] theorem State.setPeriod_snapshot (β r : Nat) (x : Period) : (s.setPeriod β r x).snapshot = s.snapshot := rfl
@[simp] theorem State.setPeriod_linkloss (β r : Nat) (x : Period) : (s.setPeriod β r x).linkloss = s.linkloss := rfl
@[simp] theorem State.setPeriod_formed (β r : Nat) (x : Period) : (s.setPeriod β r x).formed = s.formed := rfl
@[simp] theorem State.setPeriod_staging (β r : Nat) (x : Period) : (s.setPeriod β r x).staging = s.staging := rfl
@[simp] theorem State.setPeriod_twins (β r : Nat) (x : Period) : (s.setPeriod β r x).twins = s.twins := rfl
@[simp] theorem State.setPeriod_engines (β r : Nat) (x : Period) : (s.setPeriod β r x).engines = s.engines := rfl
@[simp] theorem State.setPeriod_mire (β r : Nat) (x : Period) : (s.setPeriod β r x).mire = s.mire := rfl
@[simp] theorem State.setPeriod_begun (β r : Nat) (x : Period) : (s.setPeriod β r x).begun = s.begun := rfl
@[simp] theorem State.setPeriod_bufTags (β r : Nat) (x : Period) : (s.setPeriod β r x).bufTags = s.bufTags := rfl
@[simp] theorem State.setPeriod_seqs (β r : Nat) (x : Period) : (s.setPeriod β r x).seqs = s.seqs := rfl
@[simp] theorem State.setPeriod_cells (β r : Nat) (x : Period) : (s.setPeriod β r x).cells = s.cells := rfl
@[simp] theorem State.setPeriod_cellLost (β r : Nat) (x : Period) : (s.setPeriod β r x).cellLost = s.cellLost := rfl
@[simp] theorem State.setPeriod_parity (β r : Nat) (x : Period) : (s.setPeriod β r x).parity = s.parity := rfl
@[simp] theorem State.setPeriod_retired (β r : Nat) (x : Period) : (s.setPeriod β r x).retired = s.retired := rfl
@[simp] theorem State.setPeriod_stand (β r : Nat) (x : Period) : (s.setPeriod β r x).stand = s.stand := rfl
@[simp] theorem State.setPeriod_redos (β r : Nat) (x : Period) : (s.setPeriod β r x).redos = s.redos := rfl
@[simp] theorem State.setPeriod_merges (β r : Nat) (x : Period) : (s.setPeriod β r x).merges = s.merges := rfl
@[simp] theorem State.setPeriod_releases (β r : Nat) (x : Period) : (s.setPeriod β r x).releases = s.releases := rfl
@[simp] theorem State.setPeriod_closes (β r : Nat) (x : Period) : (s.setPeriod β r x).closes = s.closes := rfl
@[simp] theorem State.setPeriod_norms (β r : Nat) (x : Period) : (s.setPeriod β r x).norms = s.norms := rfl
@[simp] theorem State.setPeriod_restarts (β r : Nat) (x : Period) : (s.setPeriod β r x).restarts = s.restarts := rfl
@[simp] theorem State.setPeriod_slacks (β r : Nat) (x : Period) : (s.setPeriod β r x).slacks = s.slacks := rfl
@[simp] theorem State.setPeriod_wbuf (β r : Nat) (x : Period) : (s.setPeriod β r x).wbuf = s.wbuf := rfl
@[simp] theorem State.setPeriod_commits (β r : Nat) (x : Period) : (s.setPeriod β r x).commits = s.commits := rfl
@[simp] theorem State.setPeriod_beams (β r : Nat) (x : Period) : (s.setPeriod β r x).beams = s.beams := rfl
@[simp] theorem State.setPeriod_beamActive (β r : Nat) (x : Period) : (s.setPeriod β r x).beamActive = s.beamActive := rfl
@[simp] theorem State.setPeriod_alerts (β r : Nat) (x : Period) : (s.setPeriod β r x).alerts = s.alerts := rfl
@[simp] theorem State.setPeriod_emitted (β r : Nat) (x : Period) : (s.setPeriod β r x).emitted = s.emitted := rfl
@[simp] theorem State.setPeriod_watchDone (β r : Nat) (x : Period) : (s.setPeriod β r x).watchDone = s.watchDone := rfl
@[simp] theorem State.setPeriod_prods (β r : Nat) (x : Period) : (s.setPeriod β r x).prods = s.prods := rfl
@[simp] theorem State.setPeriod_egress (β r : Nat) (x : Period) : (s.setPeriod β r x).egress = s.egress := rfl
@[simp] theorem State.setPeriod_flowStage (β r : Nat) (x : Period) : (s.setPeriod β r x).flowStage = s.flowStage := rfl
@[simp] theorem State.setPeriod_flowStart (β r : Nat) (x : Period) : (s.setPeriod β r x).flowStart = s.flowStart := rfl
@[simp] theorem State.setPeriod_stagedNo (β r : Nat) (x : Period) : (s.setPeriod β r x).stagedNo = s.stagedNo := rfl
@[simp] theorem State.setPeriod_sent (β r : Nat) (x : Period) : (s.setPeriod β r x).sent = s.sent := rfl
@[simp] theorem State.setPeriod_notes (β r : Nat) (x : Period) : (s.setPeriod β r x).notes = s.notes := rfl
@[simp] theorem State.setPeriod_msiPend (β r : Nat) (x : Period) : (s.setPeriod β r x).msiPend = s.msiPend := rfl
@[simp] theorem State.setPeriod_msiSent (β r : Nat) (x : Period) : (s.setPeriod β r x).msiSent = s.msiSent := rfl
@[simp] theorem State.setPeriod_targets (β r : Nat) (x : Period) : (s.setPeriod β r x).targets = s.targets := rfl
@[simp] theorem State.setPeriod_holdback (β r : Nat) (x : Period) : (s.setPeriod β r x).holdback = s.holdback := rfl
@[simp] theorem State.setPeriod_inFlight (β r : Nat) (x : Period) : (s.setPeriod β r x).inFlight = s.inFlight := rfl
@[simp] theorem State.setPeriod_responses (β r : Nat) (x : Period) : (s.setPeriod β r x).responses = s.responses := rfl
@[simp] theorem State.setPeriod_hostCut (β r : Nat) (x : Period) : (s.setPeriod β r x).hostCut = s.hostCut := rfl
@[simp] theorem State.setPeriod_reqNo (β r : Nat) (x : Period) : (s.setPeriod β r x).reqNo = s.reqNo := rfl
@[simp] theorem State.setPeriod_silent (β r : Nat) (x : Period) : (s.setPeriod β r x).silent = s.silent := rfl
@[simp] theorem State.setPeriod_hostReads (β r : Nat) (x : Period) : (s.setPeriod β r x).hostReads = s.hostReads := rfl
@[simp] theorem State.setPeriod_ctls (β r : Nat) (x : Period) : (s.setPeriod β r x).ctls = s.ctls := rfl
@[simp] theorem State.setPeriod_delays (β r : Nat) (x : Period) : (s.setPeriod β r x).delays = s.delays := rfl
@[simp] theorem State.setPeriod_training (β r : Nat) (x : Period) : (s.setPeriod β r x).training = s.training := rfl
@[simp] theorem State.setPeriod_trainArmed (β r : Nat) (x : Period) : (s.setPeriod β r x).trainArmed = s.trainArmed := rfl
@[simp] theorem State.setPeriod_throttled (β r : Nat) (x : Period) : (s.setPeriod β r x).throttled = s.throttled := rfl
@[simp] theorem State.setPeriod_used (β r : Nat) (x : Period) : (s.setPeriod β r x).used = s.used := rfl
@[simp] theorem State.setPeriod_logs (β r : Nat) (x : Period) : (s.setPeriod β r x).logs = s.logs := rfl
@[simp] theorem State.setPeriod_ceRecent (β r : Nat) (x : Period) : (s.setPeriod β r x).ceRecent = s.ceRecent := rfl
@[simp] theorem State.setPeriod_scrubs (β r : Nat) (x : Period) : (s.setPeriod β r x).scrubs = s.scrubs := rfl
@[simp] theorem State.setPeriod_corrections (β r : Nat) (x : Period) : (s.setPeriod β r x).corrections = s.corrections := rfl
@[simp] theorem State.setPeriod_keys (β r : Nat) (x : Period) : (s.setPeriod β r x).keys = s.keys := rfl
@[simp] theorem State.setPeriod_keyStage (β r : Nat) (x : Period) : (s.setPeriod β r x).keyStage = s.keyStage := rfl
@[simp] theorem State.setPeriod_gating (β r : Nat) (x : Period) : (s.setPeriod β r x).gating = s.gating := rfl
@[simp] theorem State.setPeriod_tb (β r : Nat) (x : Period) : (s.setPeriod β r x).tb = s.tb := rfl
@[simp] theorem State.setPeriod_refs (β r : Nat) (x : Period) : (s.setPeriod β r x).refs = s.refs := rfl
@[simp] theorem State.setPeriod_peat (β r : Nat) (x : Period) : (s.setPeriod β r x).peat = s.peat := rfl
@[simp] theorem State.setPeriod_power (β r : Nat) (x : Period) : (s.setPeriod β r x).power = s.power := rfl
@[simp] theorem State.setPeriod_jtag (β r : Nat) (x : Period) : (s.setPeriod β r x).jtag = s.jtag := rfl
@[simp] theorem State.setPeriod_d3hot (β r : Nat) (x : Period) : (s.setPeriod β r x).d3hot = s.d3hot := rfl
@[simp] theorem State.setPeriod_reply (β r : Nat) (x : Period) : (s.setPeriod β r x).reply = s.reply := rfl
@[simp] theorem State.setPeriod_fresh (β r : Nat) (x : Period) : (s.setPeriod β r x).fresh = s.fresh := rfl
@[simp] theorem State.setPeriod_pending (β r : Nat) (x : Period) : (s.setPeriod β r x).pending = s.pending := rfl

/-! ## `State.setNoteQ` -/

@[simp] theorem State.setNoteQ_regs (t : Nat) (x : NoteQueue) : (s.setNoteQ t x).regs = s.regs := rfl
@[simp] theorem State.setNoteQ_mem (t : Nat) (x : NoteQueue) : (s.setNoteQ t x).mem = s.mem := rfl
@[simp] theorem State.setNoteQ_marks (t : Nat) (x : NoteQueue) : (s.setNoteQ t x).marks = s.marks := rfl
@[simp] theorem State.setNoteQ_lines (t : Nat) (x : NoteQueue) : (s.setNoteQ t x).lines = s.lines := rfl
@[simp] theorem State.setNoteQ_gain (t : Nat) (x : NoteQueue) : (s.setNoteQ t x).gain = s.gain := rfl
@[simp] theorem State.setNoteQ_badGain (t : Nat) (x : NoteQueue) : (s.setNoteQ t x).badGain = s.badGain := rfl
@[simp] theorem State.setNoteQ_poly (t : Nat) (x : NoteQueue) : (s.setNoteQ t x).poly = s.poly := rfl
@[simp] theorem State.setNoteQ_c0 (t : Nat) (x : NoteQueue) : (s.setNoteQ t x).c0 = s.c0 := rfl
@[simp] theorem State.setNoteQ_f0 (t : Nat) (x : NoteQueue) : (s.setNoteQ t x).f0 = s.f0 := rfl
@[simp] theorem State.setNoteQ_coef (t : Nat) (x : NoteQueue) : (s.setNoteQ t x).coef = s.coef := rfl
@[simp] theorem State.setNoteQ_thr (t : Nat) (x : NoteQueue) : (s.setNoteQ t x).thr = s.thr := rfl
@[simp] theorem State.setNoteQ_weighted (t : Nat) (x : NoteQueue) : (s.setNoteQ t x).weighted = s.weighted := rfl
@[simp] theorem State.setNoteQ_filling (t : Nat) (x : NoteQueue) : (s.setNoteQ t x).filling = s.filling := rfl
@[simp] theorem State.setNoteQ_cycle (t : Nat) (x : NoteQueue) : (s.setNoteQ t x).cycle = s.cycle := rfl
@[simp] theorem State.setNoteQ_nsHold (t : Nat) (x : NoteQueue) : (s.setNoteQ t x).nsHold = s.nsHold := rfl
@[simp] theorem State.setNoteQ_tick (t : Nat) (x : NoteQueue) : (s.setNoteQ t x).tick = s.tick := rfl
@[simp] theorem State.setNoteQ_ports (t : Nat) (x : NoteQueue) : (s.setNoteQ t x).ports = s.ports := rfl
@[simp] theorem State.setNoteQ_streams (t : Nat) (x : NoteQueue) : (s.setNoteQ t x).streams = s.streams := rfl
@[simp] theorem State.setNoteQ_chains (t : Nat) (x : NoteQueue) : (s.setNoteQ t x).chains = s.chains := rfl
@[simp] theorem State.setNoteQ_hold (t : Nat) (x : NoteQueue) : (s.setNoteQ t x).hold = s.hold := rfl
@[simp] theorem State.setNoteQ_released (t : Nat) (x : NoteQueue) : (s.setNoteQ t x).released = s.released := rfl
@[simp] theorem State.setNoteQ_feActive (t : Nat) (x : NoteQueue) : (s.setNoteQ t x).feActive = s.feActive := rfl
@[simp] theorem State.setNoteQ_dcClear (t : Nat) (x : NoteQueue) : (s.setNoteQ t x).dcClear = s.dcClear := rfl
@[simp] theorem State.setNoteQ_counts (t : Nat) (x : NoteQueue) : (s.setNoteQ t x).counts = s.counts := rfl
@[simp] theorem State.setNoteQ_countsNext (t : Nat) (x : NoteQueue) : (s.setNoteQ t x).countsNext = s.countsNext := rfl
@[simp] theorem State.setNoteQ_snapshot (t : Nat) (x : NoteQueue) : (s.setNoteQ t x).snapshot = s.snapshot := rfl
@[simp] theorem State.setNoteQ_linkloss (t : Nat) (x : NoteQueue) : (s.setNoteQ t x).linkloss = s.linkloss := rfl
@[simp] theorem State.setNoteQ_formed (t : Nat) (x : NoteQueue) : (s.setNoteQ t x).formed = s.formed := rfl
@[simp] theorem State.setNoteQ_staging (t : Nat) (x : NoteQueue) : (s.setNoteQ t x).staging = s.staging := rfl
@[simp] theorem State.setNoteQ_twins (t : Nat) (x : NoteQueue) : (s.setNoteQ t x).twins = s.twins := rfl
@[simp] theorem State.setNoteQ_engines (t : Nat) (x : NoteQueue) : (s.setNoteQ t x).engines = s.engines := rfl
@[simp] theorem State.setNoteQ_mire (t : Nat) (x : NoteQueue) : (s.setNoteQ t x).mire = s.mire := rfl
@[simp] theorem State.setNoteQ_begun (t : Nat) (x : NoteQueue) : (s.setNoteQ t x).begun = s.begun := rfl
@[simp] theorem State.setNoteQ_bufTags (t : Nat) (x : NoteQueue) : (s.setNoteQ t x).bufTags = s.bufTags := rfl
@[simp] theorem State.setNoteQ_seqs (t : Nat) (x : NoteQueue) : (s.setNoteQ t x).seqs = s.seqs := rfl
@[simp] theorem State.setNoteQ_cells (t : Nat) (x : NoteQueue) : (s.setNoteQ t x).cells = s.cells := rfl
@[simp] theorem State.setNoteQ_cellLost (t : Nat) (x : NoteQueue) : (s.setNoteQ t x).cellLost = s.cellLost := rfl
@[simp] theorem State.setNoteQ_parity (t : Nat) (x : NoteQueue) : (s.setNoteQ t x).parity = s.parity := rfl
@[simp] theorem State.setNoteQ_retired (t : Nat) (x : NoteQueue) : (s.setNoteQ t x).retired = s.retired := rfl
@[simp] theorem State.setNoteQ_stand (t : Nat) (x : NoteQueue) : (s.setNoteQ t x).stand = s.stand := rfl
@[simp] theorem State.setNoteQ_redos (t : Nat) (x : NoteQueue) : (s.setNoteQ t x).redos = s.redos := rfl
@[simp] theorem State.setNoteQ_merges (t : Nat) (x : NoteQueue) : (s.setNoteQ t x).merges = s.merges := rfl
@[simp] theorem State.setNoteQ_releases (t : Nat) (x : NoteQueue) : (s.setNoteQ t x).releases = s.releases := rfl
@[simp] theorem State.setNoteQ_closes (t : Nat) (x : NoteQueue) : (s.setNoteQ t x).closes = s.closes := rfl
@[simp] theorem State.setNoteQ_norms (t : Nat) (x : NoteQueue) : (s.setNoteQ t x).norms = s.norms := rfl
@[simp] theorem State.setNoteQ_restarts (t : Nat) (x : NoteQueue) : (s.setNoteQ t x).restarts = s.restarts := rfl
@[simp] theorem State.setNoteQ_slacks (t : Nat) (x : NoteQueue) : (s.setNoteQ t x).slacks = s.slacks := rfl
@[simp] theorem State.setNoteQ_wbuf (t : Nat) (x : NoteQueue) : (s.setNoteQ t x).wbuf = s.wbuf := rfl
@[simp] theorem State.setNoteQ_commits (t : Nat) (x : NoteQueue) : (s.setNoteQ t x).commits = s.commits := rfl
@[simp] theorem State.setNoteQ_beams (t : Nat) (x : NoteQueue) : (s.setNoteQ t x).beams = s.beams := rfl
@[simp] theorem State.setNoteQ_periods (t : Nat) (x : NoteQueue) : (s.setNoteQ t x).periods = s.periods := rfl
@[simp] theorem State.setNoteQ_beamActive (t : Nat) (x : NoteQueue) : (s.setNoteQ t x).beamActive = s.beamActive := rfl
@[simp] theorem State.setNoteQ_alerts (t : Nat) (x : NoteQueue) : (s.setNoteQ t x).alerts = s.alerts := rfl
@[simp] theorem State.setNoteQ_emitted (t : Nat) (x : NoteQueue) : (s.setNoteQ t x).emitted = s.emitted := rfl
@[simp] theorem State.setNoteQ_watchDone (t : Nat) (x : NoteQueue) : (s.setNoteQ t x).watchDone = s.watchDone := rfl
@[simp] theorem State.setNoteQ_prods (t : Nat) (x : NoteQueue) : (s.setNoteQ t x).prods = s.prods := rfl
@[simp] theorem State.setNoteQ_egress (t : Nat) (x : NoteQueue) : (s.setNoteQ t x).egress = s.egress := rfl
@[simp] theorem State.setNoteQ_flowStage (t : Nat) (x : NoteQueue) : (s.setNoteQ t x).flowStage = s.flowStage := rfl
@[simp] theorem State.setNoteQ_flowStart (t : Nat) (x : NoteQueue) : (s.setNoteQ t x).flowStart = s.flowStart := rfl
@[simp] theorem State.setNoteQ_stagedNo (t : Nat) (x : NoteQueue) : (s.setNoteQ t x).stagedNo = s.stagedNo := rfl
@[simp] theorem State.setNoteQ_sent (t : Nat) (x : NoteQueue) : (s.setNoteQ t x).sent = s.sent := rfl
@[simp] theorem State.setNoteQ_msiPend (t : Nat) (x : NoteQueue) : (s.setNoteQ t x).msiPend = s.msiPend := rfl
@[simp] theorem State.setNoteQ_msiSent (t : Nat) (x : NoteQueue) : (s.setNoteQ t x).msiSent = s.msiSent := rfl
@[simp] theorem State.setNoteQ_targets (t : Nat) (x : NoteQueue) : (s.setNoteQ t x).targets = s.targets := rfl
@[simp] theorem State.setNoteQ_holdback (t : Nat) (x : NoteQueue) : (s.setNoteQ t x).holdback = s.holdback := rfl
@[simp] theorem State.setNoteQ_inFlight (t : Nat) (x : NoteQueue) : (s.setNoteQ t x).inFlight = s.inFlight := rfl
@[simp] theorem State.setNoteQ_responses (t : Nat) (x : NoteQueue) : (s.setNoteQ t x).responses = s.responses := rfl
@[simp] theorem State.setNoteQ_hostCut (t : Nat) (x : NoteQueue) : (s.setNoteQ t x).hostCut = s.hostCut := rfl
@[simp] theorem State.setNoteQ_reqNo (t : Nat) (x : NoteQueue) : (s.setNoteQ t x).reqNo = s.reqNo := rfl
@[simp] theorem State.setNoteQ_silent (t : Nat) (x : NoteQueue) : (s.setNoteQ t x).silent = s.silent := rfl
@[simp] theorem State.setNoteQ_hostReads (t : Nat) (x : NoteQueue) : (s.setNoteQ t x).hostReads = s.hostReads := rfl
@[simp] theorem State.setNoteQ_ctls (t : Nat) (x : NoteQueue) : (s.setNoteQ t x).ctls = s.ctls := rfl
@[simp] theorem State.setNoteQ_delays (t : Nat) (x : NoteQueue) : (s.setNoteQ t x).delays = s.delays := rfl
@[simp] theorem State.setNoteQ_training (t : Nat) (x : NoteQueue) : (s.setNoteQ t x).training = s.training := rfl
@[simp] theorem State.setNoteQ_trainArmed (t : Nat) (x : NoteQueue) : (s.setNoteQ t x).trainArmed = s.trainArmed := rfl
@[simp] theorem State.setNoteQ_throttled (t : Nat) (x : NoteQueue) : (s.setNoteQ t x).throttled = s.throttled := rfl
@[simp] theorem State.setNoteQ_used (t : Nat) (x : NoteQueue) : (s.setNoteQ t x).used = s.used := rfl
@[simp] theorem State.setNoteQ_logs (t : Nat) (x : NoteQueue) : (s.setNoteQ t x).logs = s.logs := rfl
@[simp] theorem State.setNoteQ_ceRecent (t : Nat) (x : NoteQueue) : (s.setNoteQ t x).ceRecent = s.ceRecent := rfl
@[simp] theorem State.setNoteQ_scrubs (t : Nat) (x : NoteQueue) : (s.setNoteQ t x).scrubs = s.scrubs := rfl
@[simp] theorem State.setNoteQ_corrections (t : Nat) (x : NoteQueue) : (s.setNoteQ t x).corrections = s.corrections := rfl
@[simp] theorem State.setNoteQ_keys (t : Nat) (x : NoteQueue) : (s.setNoteQ t x).keys = s.keys := rfl
@[simp] theorem State.setNoteQ_keyStage (t : Nat) (x : NoteQueue) : (s.setNoteQ t x).keyStage = s.keyStage := rfl
@[simp] theorem State.setNoteQ_gating (t : Nat) (x : NoteQueue) : (s.setNoteQ t x).gating = s.gating := rfl
@[simp] theorem State.setNoteQ_tb (t : Nat) (x : NoteQueue) : (s.setNoteQ t x).tb = s.tb := rfl
@[simp] theorem State.setNoteQ_refs (t : Nat) (x : NoteQueue) : (s.setNoteQ t x).refs = s.refs := rfl
@[simp] theorem State.setNoteQ_peat (t : Nat) (x : NoteQueue) : (s.setNoteQ t x).peat = s.peat := rfl
@[simp] theorem State.setNoteQ_power (t : Nat) (x : NoteQueue) : (s.setNoteQ t x).power = s.power := rfl
@[simp] theorem State.setNoteQ_jtag (t : Nat) (x : NoteQueue) : (s.setNoteQ t x).jtag = s.jtag := rfl
@[simp] theorem State.setNoteQ_d3hot (t : Nat) (x : NoteQueue) : (s.setNoteQ t x).d3hot = s.d3hot := rfl
@[simp] theorem State.setNoteQ_reply (t : Nat) (x : NoteQueue) : (s.setNoteQ t x).reply = s.reply := rfl
@[simp] theorem State.setNoteQ_fresh (t : Nat) (x : NoteQueue) : (s.setNoteQ t x).fresh = s.fresh := rfl
@[simp] theorem State.setNoteQ_pending (t : Nat) (x : NoteQueue) : (s.setNoteQ t x).pending = s.pending := rfl

/-! ## `State.setEgr` -/

@[simp] theorem State.setEgr_regs (p : Nat) (x : EgrPort) : (s.setEgr p x).regs = s.regs := rfl
@[simp] theorem State.setEgr_mem (p : Nat) (x : EgrPort) : (s.setEgr p x).mem = s.mem := rfl
@[simp] theorem State.setEgr_marks (p : Nat) (x : EgrPort) : (s.setEgr p x).marks = s.marks := rfl
@[simp] theorem State.setEgr_lines (p : Nat) (x : EgrPort) : (s.setEgr p x).lines = s.lines := rfl
@[simp] theorem State.setEgr_gain (p : Nat) (x : EgrPort) : (s.setEgr p x).gain = s.gain := rfl
@[simp] theorem State.setEgr_badGain (p : Nat) (x : EgrPort) : (s.setEgr p x).badGain = s.badGain := rfl
@[simp] theorem State.setEgr_poly (p : Nat) (x : EgrPort) : (s.setEgr p x).poly = s.poly := rfl
@[simp] theorem State.setEgr_c0 (p : Nat) (x : EgrPort) : (s.setEgr p x).c0 = s.c0 := rfl
@[simp] theorem State.setEgr_f0 (p : Nat) (x : EgrPort) : (s.setEgr p x).f0 = s.f0 := rfl
@[simp] theorem State.setEgr_coef (p : Nat) (x : EgrPort) : (s.setEgr p x).coef = s.coef := rfl
@[simp] theorem State.setEgr_thr (p : Nat) (x : EgrPort) : (s.setEgr p x).thr = s.thr := rfl
@[simp] theorem State.setEgr_weighted (p : Nat) (x : EgrPort) : (s.setEgr p x).weighted = s.weighted := rfl
@[simp] theorem State.setEgr_filling (p : Nat) (x : EgrPort) : (s.setEgr p x).filling = s.filling := rfl
@[simp] theorem State.setEgr_cycle (p : Nat) (x : EgrPort) : (s.setEgr p x).cycle = s.cycle := rfl
@[simp] theorem State.setEgr_nsHold (p : Nat) (x : EgrPort) : (s.setEgr p x).nsHold = s.nsHold := rfl
@[simp] theorem State.setEgr_tick (p : Nat) (x : EgrPort) : (s.setEgr p x).tick = s.tick := rfl
@[simp] theorem State.setEgr_ports (p : Nat) (x : EgrPort) : (s.setEgr p x).ports = s.ports := rfl
@[simp] theorem State.setEgr_streams (p : Nat) (x : EgrPort) : (s.setEgr p x).streams = s.streams := rfl
@[simp] theorem State.setEgr_chains (p : Nat) (x : EgrPort) : (s.setEgr p x).chains = s.chains := rfl
@[simp] theorem State.setEgr_hold (p : Nat) (x : EgrPort) : (s.setEgr p x).hold = s.hold := rfl
@[simp] theorem State.setEgr_released (p : Nat) (x : EgrPort) : (s.setEgr p x).released = s.released := rfl
@[simp] theorem State.setEgr_feActive (p : Nat) (x : EgrPort) : (s.setEgr p x).feActive = s.feActive := rfl
@[simp] theorem State.setEgr_dcClear (p : Nat) (x : EgrPort) : (s.setEgr p x).dcClear = s.dcClear := rfl
@[simp] theorem State.setEgr_counts (p : Nat) (x : EgrPort) : (s.setEgr p x).counts = s.counts := rfl
@[simp] theorem State.setEgr_countsNext (p : Nat) (x : EgrPort) : (s.setEgr p x).countsNext = s.countsNext := rfl
@[simp] theorem State.setEgr_snapshot (p : Nat) (x : EgrPort) : (s.setEgr p x).snapshot = s.snapshot := rfl
@[simp] theorem State.setEgr_linkloss (p : Nat) (x : EgrPort) : (s.setEgr p x).linkloss = s.linkloss := rfl
@[simp] theorem State.setEgr_formed (p : Nat) (x : EgrPort) : (s.setEgr p x).formed = s.formed := rfl
@[simp] theorem State.setEgr_staging (p : Nat) (x : EgrPort) : (s.setEgr p x).staging = s.staging := rfl
@[simp] theorem State.setEgr_twins (p : Nat) (x : EgrPort) : (s.setEgr p x).twins = s.twins := rfl
@[simp] theorem State.setEgr_engines (p : Nat) (x : EgrPort) : (s.setEgr p x).engines = s.engines := rfl
@[simp] theorem State.setEgr_mire (p : Nat) (x : EgrPort) : (s.setEgr p x).mire = s.mire := rfl
@[simp] theorem State.setEgr_begun (p : Nat) (x : EgrPort) : (s.setEgr p x).begun = s.begun := rfl
@[simp] theorem State.setEgr_bufTags (p : Nat) (x : EgrPort) : (s.setEgr p x).bufTags = s.bufTags := rfl
@[simp] theorem State.setEgr_seqs (p : Nat) (x : EgrPort) : (s.setEgr p x).seqs = s.seqs := rfl
@[simp] theorem State.setEgr_cells (p : Nat) (x : EgrPort) : (s.setEgr p x).cells = s.cells := rfl
@[simp] theorem State.setEgr_cellLost (p : Nat) (x : EgrPort) : (s.setEgr p x).cellLost = s.cellLost := rfl
@[simp] theorem State.setEgr_parity (p : Nat) (x : EgrPort) : (s.setEgr p x).parity = s.parity := rfl
@[simp] theorem State.setEgr_retired (p : Nat) (x : EgrPort) : (s.setEgr p x).retired = s.retired := rfl
@[simp] theorem State.setEgr_stand (p : Nat) (x : EgrPort) : (s.setEgr p x).stand = s.stand := rfl
@[simp] theorem State.setEgr_redos (p : Nat) (x : EgrPort) : (s.setEgr p x).redos = s.redos := rfl
@[simp] theorem State.setEgr_merges (p : Nat) (x : EgrPort) : (s.setEgr p x).merges = s.merges := rfl
@[simp] theorem State.setEgr_releases (p : Nat) (x : EgrPort) : (s.setEgr p x).releases = s.releases := rfl
@[simp] theorem State.setEgr_closes (p : Nat) (x : EgrPort) : (s.setEgr p x).closes = s.closes := rfl
@[simp] theorem State.setEgr_norms (p : Nat) (x : EgrPort) : (s.setEgr p x).norms = s.norms := rfl
@[simp] theorem State.setEgr_restarts (p : Nat) (x : EgrPort) : (s.setEgr p x).restarts = s.restarts := rfl
@[simp] theorem State.setEgr_slacks (p : Nat) (x : EgrPort) : (s.setEgr p x).slacks = s.slacks := rfl
@[simp] theorem State.setEgr_wbuf (p : Nat) (x : EgrPort) : (s.setEgr p x).wbuf = s.wbuf := rfl
@[simp] theorem State.setEgr_commits (p : Nat) (x : EgrPort) : (s.setEgr p x).commits = s.commits := rfl
@[simp] theorem State.setEgr_beams (p : Nat) (x : EgrPort) : (s.setEgr p x).beams = s.beams := rfl
@[simp] theorem State.setEgr_periods (p : Nat) (x : EgrPort) : (s.setEgr p x).periods = s.periods := rfl
@[simp] theorem State.setEgr_beamActive (p : Nat) (x : EgrPort) : (s.setEgr p x).beamActive = s.beamActive := rfl
@[simp] theorem State.setEgr_alerts (p : Nat) (x : EgrPort) : (s.setEgr p x).alerts = s.alerts := rfl
@[simp] theorem State.setEgr_emitted (p : Nat) (x : EgrPort) : (s.setEgr p x).emitted = s.emitted := rfl
@[simp] theorem State.setEgr_watchDone (p : Nat) (x : EgrPort) : (s.setEgr p x).watchDone = s.watchDone := rfl
@[simp] theorem State.setEgr_prods (p : Nat) (x : EgrPort) : (s.setEgr p x).prods = s.prods := rfl
@[simp] theorem State.setEgr_flowStage (p : Nat) (x : EgrPort) : (s.setEgr p x).flowStage = s.flowStage := rfl
@[simp] theorem State.setEgr_flowStart (p : Nat) (x : EgrPort) : (s.setEgr p x).flowStart = s.flowStart := rfl
@[simp] theorem State.setEgr_stagedNo (p : Nat) (x : EgrPort) : (s.setEgr p x).stagedNo = s.stagedNo := rfl
@[simp] theorem State.setEgr_sent (p : Nat) (x : EgrPort) : (s.setEgr p x).sent = s.sent := rfl
@[simp] theorem State.setEgr_notes (p : Nat) (x : EgrPort) : (s.setEgr p x).notes = s.notes := rfl
@[simp] theorem State.setEgr_msiPend (p : Nat) (x : EgrPort) : (s.setEgr p x).msiPend = s.msiPend := rfl
@[simp] theorem State.setEgr_msiSent (p : Nat) (x : EgrPort) : (s.setEgr p x).msiSent = s.msiSent := rfl
@[simp] theorem State.setEgr_targets (p : Nat) (x : EgrPort) : (s.setEgr p x).targets = s.targets := rfl
@[simp] theorem State.setEgr_holdback (p : Nat) (x : EgrPort) : (s.setEgr p x).holdback = s.holdback := rfl
@[simp] theorem State.setEgr_inFlight (p : Nat) (x : EgrPort) : (s.setEgr p x).inFlight = s.inFlight := rfl
@[simp] theorem State.setEgr_responses (p : Nat) (x : EgrPort) : (s.setEgr p x).responses = s.responses := rfl
@[simp] theorem State.setEgr_hostCut (p : Nat) (x : EgrPort) : (s.setEgr p x).hostCut = s.hostCut := rfl
@[simp] theorem State.setEgr_reqNo (p : Nat) (x : EgrPort) : (s.setEgr p x).reqNo = s.reqNo := rfl
@[simp] theorem State.setEgr_silent (p : Nat) (x : EgrPort) : (s.setEgr p x).silent = s.silent := rfl
@[simp] theorem State.setEgr_hostReads (p : Nat) (x : EgrPort) : (s.setEgr p x).hostReads = s.hostReads := rfl
@[simp] theorem State.setEgr_ctls (p : Nat) (x : EgrPort) : (s.setEgr p x).ctls = s.ctls := rfl
@[simp] theorem State.setEgr_delays (p : Nat) (x : EgrPort) : (s.setEgr p x).delays = s.delays := rfl
@[simp] theorem State.setEgr_training (p : Nat) (x : EgrPort) : (s.setEgr p x).training = s.training := rfl
@[simp] theorem State.setEgr_trainArmed (p : Nat) (x : EgrPort) : (s.setEgr p x).trainArmed = s.trainArmed := rfl
@[simp] theorem State.setEgr_throttled (p : Nat) (x : EgrPort) : (s.setEgr p x).throttled = s.throttled := rfl
@[simp] theorem State.setEgr_used (p : Nat) (x : EgrPort) : (s.setEgr p x).used = s.used := rfl
@[simp] theorem State.setEgr_logs (p : Nat) (x : EgrPort) : (s.setEgr p x).logs = s.logs := rfl
@[simp] theorem State.setEgr_ceRecent (p : Nat) (x : EgrPort) : (s.setEgr p x).ceRecent = s.ceRecent := rfl
@[simp] theorem State.setEgr_scrubs (p : Nat) (x : EgrPort) : (s.setEgr p x).scrubs = s.scrubs := rfl
@[simp] theorem State.setEgr_corrections (p : Nat) (x : EgrPort) : (s.setEgr p x).corrections = s.corrections := rfl
@[simp] theorem State.setEgr_keys (p : Nat) (x : EgrPort) : (s.setEgr p x).keys = s.keys := rfl
@[simp] theorem State.setEgr_keyStage (p : Nat) (x : EgrPort) : (s.setEgr p x).keyStage = s.keyStage := rfl
@[simp] theorem State.setEgr_gating (p : Nat) (x : EgrPort) : (s.setEgr p x).gating = s.gating := rfl
@[simp] theorem State.setEgr_tb (p : Nat) (x : EgrPort) : (s.setEgr p x).tb = s.tb := rfl
@[simp] theorem State.setEgr_refs (p : Nat) (x : EgrPort) : (s.setEgr p x).refs = s.refs := rfl
@[simp] theorem State.setEgr_peat (p : Nat) (x : EgrPort) : (s.setEgr p x).peat = s.peat := rfl
@[simp] theorem State.setEgr_power (p : Nat) (x : EgrPort) : (s.setEgr p x).power = s.power := rfl
@[simp] theorem State.setEgr_jtag (p : Nat) (x : EgrPort) : (s.setEgr p x).jtag = s.jtag := rfl
@[simp] theorem State.setEgr_d3hot (p : Nat) (x : EgrPort) : (s.setEgr p x).d3hot = s.d3hot := rfl
@[simp] theorem State.setEgr_reply (p : Nat) (x : EgrPort) : (s.setEgr p x).reply = s.reply := rfl
@[simp] theorem State.setEgr_fresh (p : Nat) (x : EgrPort) : (s.setEgr p x).fresh = s.fresh := rfl
@[simp] theorem State.setEgr_pending (p : Nat) (x : EgrPort) : (s.setEgr p x).pending = s.pending := rfl

/-! ## `State.setRef` -/

@[simp] theorem State.setRef_regs (x : Nat) (r : Ref) : (s.setRef x r).regs = s.regs := rfl
@[simp] theorem State.setRef_mem (x : Nat) (r : Ref) : (s.setRef x r).mem = s.mem := rfl
@[simp] theorem State.setRef_marks (x : Nat) (r : Ref) : (s.setRef x r).marks = s.marks := rfl
@[simp] theorem State.setRef_lines (x : Nat) (r : Ref) : (s.setRef x r).lines = s.lines := rfl
@[simp] theorem State.setRef_gain (x : Nat) (r : Ref) : (s.setRef x r).gain = s.gain := rfl
@[simp] theorem State.setRef_badGain (x : Nat) (r : Ref) : (s.setRef x r).badGain = s.badGain := rfl
@[simp] theorem State.setRef_poly (x : Nat) (r : Ref) : (s.setRef x r).poly = s.poly := rfl
@[simp] theorem State.setRef_c0 (x : Nat) (r : Ref) : (s.setRef x r).c0 = s.c0 := rfl
@[simp] theorem State.setRef_f0 (x : Nat) (r : Ref) : (s.setRef x r).f0 = s.f0 := rfl
@[simp] theorem State.setRef_coef (x : Nat) (r : Ref) : (s.setRef x r).coef = s.coef := rfl
@[simp] theorem State.setRef_thr (x : Nat) (r : Ref) : (s.setRef x r).thr = s.thr := rfl
@[simp] theorem State.setRef_weighted (x : Nat) (r : Ref) : (s.setRef x r).weighted = s.weighted := rfl
@[simp] theorem State.setRef_filling (x : Nat) (r : Ref) : (s.setRef x r).filling = s.filling := rfl
@[simp] theorem State.setRef_cycle (x : Nat) (r : Ref) : (s.setRef x r).cycle = s.cycle := rfl
@[simp] theorem State.setRef_nsHold (x : Nat) (r : Ref) : (s.setRef x r).nsHold = s.nsHold := rfl
@[simp] theorem State.setRef_tick (x : Nat) (r : Ref) : (s.setRef x r).tick = s.tick := rfl
@[simp] theorem State.setRef_ports (x : Nat) (r : Ref) : (s.setRef x r).ports = s.ports := rfl
@[simp] theorem State.setRef_streams (x : Nat) (r : Ref) : (s.setRef x r).streams = s.streams := rfl
@[simp] theorem State.setRef_chains (x : Nat) (r : Ref) : (s.setRef x r).chains = s.chains := rfl
@[simp] theorem State.setRef_hold (x : Nat) (r : Ref) : (s.setRef x r).hold = s.hold := rfl
@[simp] theorem State.setRef_released (x : Nat) (r : Ref) : (s.setRef x r).released = s.released := rfl
@[simp] theorem State.setRef_feActive (x : Nat) (r : Ref) : (s.setRef x r).feActive = s.feActive := rfl
@[simp] theorem State.setRef_dcClear (x : Nat) (r : Ref) : (s.setRef x r).dcClear = s.dcClear := rfl
@[simp] theorem State.setRef_counts (x : Nat) (r : Ref) : (s.setRef x r).counts = s.counts := rfl
@[simp] theorem State.setRef_countsNext (x : Nat) (r : Ref) : (s.setRef x r).countsNext = s.countsNext := rfl
@[simp] theorem State.setRef_snapshot (x : Nat) (r : Ref) : (s.setRef x r).snapshot = s.snapshot := rfl
@[simp] theorem State.setRef_linkloss (x : Nat) (r : Ref) : (s.setRef x r).linkloss = s.linkloss := rfl
@[simp] theorem State.setRef_formed (x : Nat) (r : Ref) : (s.setRef x r).formed = s.formed := rfl
@[simp] theorem State.setRef_staging (x : Nat) (r : Ref) : (s.setRef x r).staging = s.staging := rfl
@[simp] theorem State.setRef_twins (x : Nat) (r : Ref) : (s.setRef x r).twins = s.twins := rfl
@[simp] theorem State.setRef_engines (x : Nat) (r : Ref) : (s.setRef x r).engines = s.engines := rfl
@[simp] theorem State.setRef_mire (x : Nat) (r : Ref) : (s.setRef x r).mire = s.mire := rfl
@[simp] theorem State.setRef_begun (x : Nat) (r : Ref) : (s.setRef x r).begun = s.begun := rfl
@[simp] theorem State.setRef_bufTags (x : Nat) (r : Ref) : (s.setRef x r).bufTags = s.bufTags := rfl
@[simp] theorem State.setRef_seqs (x : Nat) (r : Ref) : (s.setRef x r).seqs = s.seqs := rfl
@[simp] theorem State.setRef_cells (x : Nat) (r : Ref) : (s.setRef x r).cells = s.cells := rfl
@[simp] theorem State.setRef_cellLost (x : Nat) (r : Ref) : (s.setRef x r).cellLost = s.cellLost := rfl
@[simp] theorem State.setRef_parity (x : Nat) (r : Ref) : (s.setRef x r).parity = s.parity := rfl
@[simp] theorem State.setRef_retired (x : Nat) (r : Ref) : (s.setRef x r).retired = s.retired := rfl
@[simp] theorem State.setRef_stand (x : Nat) (r : Ref) : (s.setRef x r).stand = s.stand := rfl
@[simp] theorem State.setRef_redos (x : Nat) (r : Ref) : (s.setRef x r).redos = s.redos := rfl
@[simp] theorem State.setRef_merges (x : Nat) (r : Ref) : (s.setRef x r).merges = s.merges := rfl
@[simp] theorem State.setRef_releases (x : Nat) (r : Ref) : (s.setRef x r).releases = s.releases := rfl
@[simp] theorem State.setRef_closes (x : Nat) (r : Ref) : (s.setRef x r).closes = s.closes := rfl
@[simp] theorem State.setRef_norms (x : Nat) (r : Ref) : (s.setRef x r).norms = s.norms := rfl
@[simp] theorem State.setRef_restarts (x : Nat) (r : Ref) : (s.setRef x r).restarts = s.restarts := rfl
@[simp] theorem State.setRef_slacks (x : Nat) (r : Ref) : (s.setRef x r).slacks = s.slacks := rfl
@[simp] theorem State.setRef_wbuf (x : Nat) (r : Ref) : (s.setRef x r).wbuf = s.wbuf := rfl
@[simp] theorem State.setRef_commits (x : Nat) (r : Ref) : (s.setRef x r).commits = s.commits := rfl
@[simp] theorem State.setRef_beams (x : Nat) (r : Ref) : (s.setRef x r).beams = s.beams := rfl
@[simp] theorem State.setRef_periods (x : Nat) (r : Ref) : (s.setRef x r).periods = s.periods := rfl
@[simp] theorem State.setRef_beamActive (x : Nat) (r : Ref) : (s.setRef x r).beamActive = s.beamActive := rfl
@[simp] theorem State.setRef_alerts (x : Nat) (r : Ref) : (s.setRef x r).alerts = s.alerts := rfl
@[simp] theorem State.setRef_emitted (x : Nat) (r : Ref) : (s.setRef x r).emitted = s.emitted := rfl
@[simp] theorem State.setRef_watchDone (x : Nat) (r : Ref) : (s.setRef x r).watchDone = s.watchDone := rfl
@[simp] theorem State.setRef_prods (x : Nat) (r : Ref) : (s.setRef x r).prods = s.prods := rfl
@[simp] theorem State.setRef_egress (x : Nat) (r : Ref) : (s.setRef x r).egress = s.egress := rfl
@[simp] theorem State.setRef_flowStage (x : Nat) (r : Ref) : (s.setRef x r).flowStage = s.flowStage := rfl
@[simp] theorem State.setRef_flowStart (x : Nat) (r : Ref) : (s.setRef x r).flowStart = s.flowStart := rfl
@[simp] theorem State.setRef_stagedNo (x : Nat) (r : Ref) : (s.setRef x r).stagedNo = s.stagedNo := rfl
@[simp] theorem State.setRef_sent (x : Nat) (r : Ref) : (s.setRef x r).sent = s.sent := rfl
@[simp] theorem State.setRef_notes (x : Nat) (r : Ref) : (s.setRef x r).notes = s.notes := rfl
@[simp] theorem State.setRef_msiPend (x : Nat) (r : Ref) : (s.setRef x r).msiPend = s.msiPend := rfl
@[simp] theorem State.setRef_msiSent (x : Nat) (r : Ref) : (s.setRef x r).msiSent = s.msiSent := rfl
@[simp] theorem State.setRef_targets (x : Nat) (r : Ref) : (s.setRef x r).targets = s.targets := rfl
@[simp] theorem State.setRef_holdback (x : Nat) (r : Ref) : (s.setRef x r).holdback = s.holdback := rfl
@[simp] theorem State.setRef_inFlight (x : Nat) (r : Ref) : (s.setRef x r).inFlight = s.inFlight := rfl
@[simp] theorem State.setRef_responses (x : Nat) (r : Ref) : (s.setRef x r).responses = s.responses := rfl
@[simp] theorem State.setRef_hostCut (x : Nat) (r : Ref) : (s.setRef x r).hostCut = s.hostCut := rfl
@[simp] theorem State.setRef_reqNo (x : Nat) (r : Ref) : (s.setRef x r).reqNo = s.reqNo := rfl
@[simp] theorem State.setRef_silent (x : Nat) (r : Ref) : (s.setRef x r).silent = s.silent := rfl
@[simp] theorem State.setRef_hostReads (x : Nat) (r : Ref) : (s.setRef x r).hostReads = s.hostReads := rfl
@[simp] theorem State.setRef_ctls (x : Nat) (r : Ref) : (s.setRef x r).ctls = s.ctls := rfl
@[simp] theorem State.setRef_delays (x : Nat) (r : Ref) : (s.setRef x r).delays = s.delays := rfl
@[simp] theorem State.setRef_training (x : Nat) (r : Ref) : (s.setRef x r).training = s.training := rfl
@[simp] theorem State.setRef_trainArmed (x : Nat) (r : Ref) : (s.setRef x r).trainArmed = s.trainArmed := rfl
@[simp] theorem State.setRef_throttled (x : Nat) (r : Ref) : (s.setRef x r).throttled = s.throttled := rfl
@[simp] theorem State.setRef_used (x : Nat) (r : Ref) : (s.setRef x r).used = s.used := rfl
@[simp] theorem State.setRef_logs (x : Nat) (r : Ref) : (s.setRef x r).logs = s.logs := rfl
@[simp] theorem State.setRef_ceRecent (x : Nat) (r : Ref) : (s.setRef x r).ceRecent = s.ceRecent := rfl
@[simp] theorem State.setRef_scrubs (x : Nat) (r : Ref) : (s.setRef x r).scrubs = s.scrubs := rfl
@[simp] theorem State.setRef_corrections (x : Nat) (r : Ref) : (s.setRef x r).corrections = s.corrections := rfl
@[simp] theorem State.setRef_keys (x : Nat) (r : Ref) : (s.setRef x r).keys = s.keys := rfl
@[simp] theorem State.setRef_keyStage (x : Nat) (r : Ref) : (s.setRef x r).keyStage = s.keyStage := rfl
@[simp] theorem State.setRef_gating (x : Nat) (r : Ref) : (s.setRef x r).gating = s.gating := rfl
@[simp] theorem State.setRef_tb (x : Nat) (r : Ref) : (s.setRef x r).tb = s.tb := rfl
@[simp] theorem State.setRef_peat (x : Nat) (r : Ref) : (s.setRef x r).peat = s.peat := rfl
@[simp] theorem State.setRef_power (x : Nat) (r : Ref) : (s.setRef x r).power = s.power := rfl
@[simp] theorem State.setRef_jtag (x : Nat) (r : Ref) : (s.setRef x r).jtag = s.jtag := rfl
@[simp] theorem State.setRef_d3hot (x : Nat) (r : Ref) : (s.setRef x r).d3hot = s.d3hot := rfl
@[simp] theorem State.setRef_reply (x : Nat) (r : Ref) : (s.setRef x r).reply = s.reply := rfl
@[simp] theorem State.setRef_fresh (x : Nat) (r : Ref) : (s.setRef x r).fresh = s.fresh := rfl
@[simp] theorem State.setRef_pending (x : Nat) (r : Ref) : (s.setRef x r).pending = s.pending := rfl

/-! ## `State.setScrub` -/

@[simp] theorem State.setScrub_regs (u : Nat) (x : Scrub) : (s.setScrub u x).regs = s.regs := rfl
@[simp] theorem State.setScrub_mem (u : Nat) (x : Scrub) : (s.setScrub u x).mem = s.mem := rfl
@[simp] theorem State.setScrub_marks (u : Nat) (x : Scrub) : (s.setScrub u x).marks = s.marks := rfl
@[simp] theorem State.setScrub_lines (u : Nat) (x : Scrub) : (s.setScrub u x).lines = s.lines := rfl
@[simp] theorem State.setScrub_gain (u : Nat) (x : Scrub) : (s.setScrub u x).gain = s.gain := rfl
@[simp] theorem State.setScrub_badGain (u : Nat) (x : Scrub) : (s.setScrub u x).badGain = s.badGain := rfl
@[simp] theorem State.setScrub_poly (u : Nat) (x : Scrub) : (s.setScrub u x).poly = s.poly := rfl
@[simp] theorem State.setScrub_c0 (u : Nat) (x : Scrub) : (s.setScrub u x).c0 = s.c0 := rfl
@[simp] theorem State.setScrub_f0 (u : Nat) (x : Scrub) : (s.setScrub u x).f0 = s.f0 := rfl
@[simp] theorem State.setScrub_coef (u : Nat) (x : Scrub) : (s.setScrub u x).coef = s.coef := rfl
@[simp] theorem State.setScrub_thr (u : Nat) (x : Scrub) : (s.setScrub u x).thr = s.thr := rfl
@[simp] theorem State.setScrub_weighted (u : Nat) (x : Scrub) : (s.setScrub u x).weighted = s.weighted := rfl
@[simp] theorem State.setScrub_filling (u : Nat) (x : Scrub) : (s.setScrub u x).filling = s.filling := rfl
@[simp] theorem State.setScrub_cycle (u : Nat) (x : Scrub) : (s.setScrub u x).cycle = s.cycle := rfl
@[simp] theorem State.setScrub_nsHold (u : Nat) (x : Scrub) : (s.setScrub u x).nsHold = s.nsHold := rfl
@[simp] theorem State.setScrub_tick (u : Nat) (x : Scrub) : (s.setScrub u x).tick = s.tick := rfl
@[simp] theorem State.setScrub_ports (u : Nat) (x : Scrub) : (s.setScrub u x).ports = s.ports := rfl
@[simp] theorem State.setScrub_streams (u : Nat) (x : Scrub) : (s.setScrub u x).streams = s.streams := rfl
@[simp] theorem State.setScrub_chains (u : Nat) (x : Scrub) : (s.setScrub u x).chains = s.chains := rfl
@[simp] theorem State.setScrub_hold (u : Nat) (x : Scrub) : (s.setScrub u x).hold = s.hold := rfl
@[simp] theorem State.setScrub_released (u : Nat) (x : Scrub) : (s.setScrub u x).released = s.released := rfl
@[simp] theorem State.setScrub_feActive (u : Nat) (x : Scrub) : (s.setScrub u x).feActive = s.feActive := rfl
@[simp] theorem State.setScrub_dcClear (u : Nat) (x : Scrub) : (s.setScrub u x).dcClear = s.dcClear := rfl
@[simp] theorem State.setScrub_counts (u : Nat) (x : Scrub) : (s.setScrub u x).counts = s.counts := rfl
@[simp] theorem State.setScrub_countsNext (u : Nat) (x : Scrub) : (s.setScrub u x).countsNext = s.countsNext := rfl
@[simp] theorem State.setScrub_snapshot (u : Nat) (x : Scrub) : (s.setScrub u x).snapshot = s.snapshot := rfl
@[simp] theorem State.setScrub_linkloss (u : Nat) (x : Scrub) : (s.setScrub u x).linkloss = s.linkloss := rfl
@[simp] theorem State.setScrub_formed (u : Nat) (x : Scrub) : (s.setScrub u x).formed = s.formed := rfl
@[simp] theorem State.setScrub_staging (u : Nat) (x : Scrub) : (s.setScrub u x).staging = s.staging := rfl
@[simp] theorem State.setScrub_twins (u : Nat) (x : Scrub) : (s.setScrub u x).twins = s.twins := rfl
@[simp] theorem State.setScrub_engines (u : Nat) (x : Scrub) : (s.setScrub u x).engines = s.engines := rfl
@[simp] theorem State.setScrub_mire (u : Nat) (x : Scrub) : (s.setScrub u x).mire = s.mire := rfl
@[simp] theorem State.setScrub_begun (u : Nat) (x : Scrub) : (s.setScrub u x).begun = s.begun := rfl
@[simp] theorem State.setScrub_bufTags (u : Nat) (x : Scrub) : (s.setScrub u x).bufTags = s.bufTags := rfl
@[simp] theorem State.setScrub_seqs (u : Nat) (x : Scrub) : (s.setScrub u x).seqs = s.seqs := rfl
@[simp] theorem State.setScrub_cells (u : Nat) (x : Scrub) : (s.setScrub u x).cells = s.cells := rfl
@[simp] theorem State.setScrub_cellLost (u : Nat) (x : Scrub) : (s.setScrub u x).cellLost = s.cellLost := rfl
@[simp] theorem State.setScrub_parity (u : Nat) (x : Scrub) : (s.setScrub u x).parity = s.parity := rfl
@[simp] theorem State.setScrub_retired (u : Nat) (x : Scrub) : (s.setScrub u x).retired = s.retired := rfl
@[simp] theorem State.setScrub_stand (u : Nat) (x : Scrub) : (s.setScrub u x).stand = s.stand := rfl
@[simp] theorem State.setScrub_redos (u : Nat) (x : Scrub) : (s.setScrub u x).redos = s.redos := rfl
@[simp] theorem State.setScrub_merges (u : Nat) (x : Scrub) : (s.setScrub u x).merges = s.merges := rfl
@[simp] theorem State.setScrub_releases (u : Nat) (x : Scrub) : (s.setScrub u x).releases = s.releases := rfl
@[simp] theorem State.setScrub_closes (u : Nat) (x : Scrub) : (s.setScrub u x).closes = s.closes := rfl
@[simp] theorem State.setScrub_norms (u : Nat) (x : Scrub) : (s.setScrub u x).norms = s.norms := rfl
@[simp] theorem State.setScrub_restarts (u : Nat) (x : Scrub) : (s.setScrub u x).restarts = s.restarts := rfl
@[simp] theorem State.setScrub_slacks (u : Nat) (x : Scrub) : (s.setScrub u x).slacks = s.slacks := rfl
@[simp] theorem State.setScrub_wbuf (u : Nat) (x : Scrub) : (s.setScrub u x).wbuf = s.wbuf := rfl
@[simp] theorem State.setScrub_commits (u : Nat) (x : Scrub) : (s.setScrub u x).commits = s.commits := rfl
@[simp] theorem State.setScrub_beams (u : Nat) (x : Scrub) : (s.setScrub u x).beams = s.beams := rfl
@[simp] theorem State.setScrub_periods (u : Nat) (x : Scrub) : (s.setScrub u x).periods = s.periods := rfl
@[simp] theorem State.setScrub_beamActive (u : Nat) (x : Scrub) : (s.setScrub u x).beamActive = s.beamActive := rfl
@[simp] theorem State.setScrub_alerts (u : Nat) (x : Scrub) : (s.setScrub u x).alerts = s.alerts := rfl
@[simp] theorem State.setScrub_emitted (u : Nat) (x : Scrub) : (s.setScrub u x).emitted = s.emitted := rfl
@[simp] theorem State.setScrub_watchDone (u : Nat) (x : Scrub) : (s.setScrub u x).watchDone = s.watchDone := rfl
@[simp] theorem State.setScrub_prods (u : Nat) (x : Scrub) : (s.setScrub u x).prods = s.prods := rfl
@[simp] theorem State.setScrub_egress (u : Nat) (x : Scrub) : (s.setScrub u x).egress = s.egress := rfl
@[simp] theorem State.setScrub_flowStage (u : Nat) (x : Scrub) : (s.setScrub u x).flowStage = s.flowStage := rfl
@[simp] theorem State.setScrub_flowStart (u : Nat) (x : Scrub) : (s.setScrub u x).flowStart = s.flowStart := rfl
@[simp] theorem State.setScrub_stagedNo (u : Nat) (x : Scrub) : (s.setScrub u x).stagedNo = s.stagedNo := rfl
@[simp] theorem State.setScrub_sent (u : Nat) (x : Scrub) : (s.setScrub u x).sent = s.sent := rfl
@[simp] theorem State.setScrub_notes (u : Nat) (x : Scrub) : (s.setScrub u x).notes = s.notes := rfl
@[simp] theorem State.setScrub_msiPend (u : Nat) (x : Scrub) : (s.setScrub u x).msiPend = s.msiPend := rfl
@[simp] theorem State.setScrub_msiSent (u : Nat) (x : Scrub) : (s.setScrub u x).msiSent = s.msiSent := rfl
@[simp] theorem State.setScrub_targets (u : Nat) (x : Scrub) : (s.setScrub u x).targets = s.targets := rfl
@[simp] theorem State.setScrub_holdback (u : Nat) (x : Scrub) : (s.setScrub u x).holdback = s.holdback := rfl
@[simp] theorem State.setScrub_inFlight (u : Nat) (x : Scrub) : (s.setScrub u x).inFlight = s.inFlight := rfl
@[simp] theorem State.setScrub_responses (u : Nat) (x : Scrub) : (s.setScrub u x).responses = s.responses := rfl
@[simp] theorem State.setScrub_hostCut (u : Nat) (x : Scrub) : (s.setScrub u x).hostCut = s.hostCut := rfl
@[simp] theorem State.setScrub_reqNo (u : Nat) (x : Scrub) : (s.setScrub u x).reqNo = s.reqNo := rfl
@[simp] theorem State.setScrub_silent (u : Nat) (x : Scrub) : (s.setScrub u x).silent = s.silent := rfl
@[simp] theorem State.setScrub_hostReads (u : Nat) (x : Scrub) : (s.setScrub u x).hostReads = s.hostReads := rfl
@[simp] theorem State.setScrub_ctls (u : Nat) (x : Scrub) : (s.setScrub u x).ctls = s.ctls := rfl
@[simp] theorem State.setScrub_delays (u : Nat) (x : Scrub) : (s.setScrub u x).delays = s.delays := rfl
@[simp] theorem State.setScrub_training (u : Nat) (x : Scrub) : (s.setScrub u x).training = s.training := rfl
@[simp] theorem State.setScrub_trainArmed (u : Nat) (x : Scrub) : (s.setScrub u x).trainArmed = s.trainArmed := rfl
@[simp] theorem State.setScrub_throttled (u : Nat) (x : Scrub) : (s.setScrub u x).throttled = s.throttled := rfl
@[simp] theorem State.setScrub_used (u : Nat) (x : Scrub) : (s.setScrub u x).used = s.used := rfl
@[simp] theorem State.setScrub_logs (u : Nat) (x : Scrub) : (s.setScrub u x).logs = s.logs := rfl
@[simp] theorem State.setScrub_ceRecent (u : Nat) (x : Scrub) : (s.setScrub u x).ceRecent = s.ceRecent := rfl
@[simp] theorem State.setScrub_corrections (u : Nat) (x : Scrub) : (s.setScrub u x).corrections = s.corrections := rfl
@[simp] theorem State.setScrub_keys (u : Nat) (x : Scrub) : (s.setScrub u x).keys = s.keys := rfl
@[simp] theorem State.setScrub_keyStage (u : Nat) (x : Scrub) : (s.setScrub u x).keyStage = s.keyStage := rfl
@[simp] theorem State.setScrub_gating (u : Nat) (x : Scrub) : (s.setScrub u x).gating = s.gating := rfl
@[simp] theorem State.setScrub_tb (u : Nat) (x : Scrub) : (s.setScrub u x).tb = s.tb := rfl
@[simp] theorem State.setScrub_refs (u : Nat) (x : Scrub) : (s.setScrub u x).refs = s.refs := rfl
@[simp] theorem State.setScrub_peat (u : Nat) (x : Scrub) : (s.setScrub u x).peat = s.peat := rfl
@[simp] theorem State.setScrub_power (u : Nat) (x : Scrub) : (s.setScrub u x).power = s.power := rfl
@[simp] theorem State.setScrub_jtag (u : Nat) (x : Scrub) : (s.setScrub u x).jtag = s.jtag := rfl
@[simp] theorem State.setScrub_d3hot (u : Nat) (x : Scrub) : (s.setScrub u x).d3hot = s.d3hot := rfl
@[simp] theorem State.setScrub_reply (u : Nat) (x : Scrub) : (s.setScrub u x).reply = s.reply := rfl
@[simp] theorem State.setScrub_fresh (u : Nat) (x : Scrub) : (s.setScrub u x).fresh = s.fresh := rfl
@[simp] theorem State.setScrub_pending (u : Nat) (x : Scrub) : (s.setScrub u x).pending = s.pending := rfl

/-! ## `State.setTb` -/

@[simp] theorem State.setTb_regs (f : Timebase → Timebase) : (s.setTb f).regs = s.regs := rfl
@[simp] theorem State.setTb_mem (f : Timebase → Timebase) : (s.setTb f).mem = s.mem := rfl
@[simp] theorem State.setTb_marks (f : Timebase → Timebase) : (s.setTb f).marks = s.marks := rfl
@[simp] theorem State.setTb_lines (f : Timebase → Timebase) : (s.setTb f).lines = s.lines := rfl
@[simp] theorem State.setTb_gain (f : Timebase → Timebase) : (s.setTb f).gain = s.gain := rfl
@[simp] theorem State.setTb_badGain (f : Timebase → Timebase) : (s.setTb f).badGain = s.badGain := rfl
@[simp] theorem State.setTb_poly (f : Timebase → Timebase) : (s.setTb f).poly = s.poly := rfl
@[simp] theorem State.setTb_c0 (f : Timebase → Timebase) : (s.setTb f).c0 = s.c0 := rfl
@[simp] theorem State.setTb_f0 (f : Timebase → Timebase) : (s.setTb f).f0 = s.f0 := rfl
@[simp] theorem State.setTb_coef (f : Timebase → Timebase) : (s.setTb f).coef = s.coef := rfl
@[simp] theorem State.setTb_thr (f : Timebase → Timebase) : (s.setTb f).thr = s.thr := rfl
@[simp] theorem State.setTb_weighted (f : Timebase → Timebase) : (s.setTb f).weighted = s.weighted := rfl
@[simp] theorem State.setTb_filling (f : Timebase → Timebase) : (s.setTb f).filling = s.filling := rfl
@[simp] theorem State.setTb_cycle (f : Timebase → Timebase) : (s.setTb f).cycle = s.cycle := rfl
@[simp] theorem State.setTb_nsHold (f : Timebase → Timebase) : (s.setTb f).nsHold = s.nsHold := rfl
@[simp] theorem State.setTb_tick (f : Timebase → Timebase) : (s.setTb f).tick = s.tick := rfl
@[simp] theorem State.setTb_ports (f : Timebase → Timebase) : (s.setTb f).ports = s.ports := rfl
@[simp] theorem State.setTb_streams (f : Timebase → Timebase) : (s.setTb f).streams = s.streams := rfl
@[simp] theorem State.setTb_chains (f : Timebase → Timebase) : (s.setTb f).chains = s.chains := rfl
@[simp] theorem State.setTb_hold (f : Timebase → Timebase) : (s.setTb f).hold = s.hold := rfl
@[simp] theorem State.setTb_released (f : Timebase → Timebase) : (s.setTb f).released = s.released := rfl
@[simp] theorem State.setTb_feActive (f : Timebase → Timebase) : (s.setTb f).feActive = s.feActive := rfl
@[simp] theorem State.setTb_dcClear (f : Timebase → Timebase) : (s.setTb f).dcClear = s.dcClear := rfl
@[simp] theorem State.setTb_counts (f : Timebase → Timebase) : (s.setTb f).counts = s.counts := rfl
@[simp] theorem State.setTb_countsNext (f : Timebase → Timebase) : (s.setTb f).countsNext = s.countsNext := rfl
@[simp] theorem State.setTb_snapshot (f : Timebase → Timebase) : (s.setTb f).snapshot = s.snapshot := rfl
@[simp] theorem State.setTb_linkloss (f : Timebase → Timebase) : (s.setTb f).linkloss = s.linkloss := rfl
@[simp] theorem State.setTb_formed (f : Timebase → Timebase) : (s.setTb f).formed = s.formed := rfl
@[simp] theorem State.setTb_staging (f : Timebase → Timebase) : (s.setTb f).staging = s.staging := rfl
@[simp] theorem State.setTb_twins (f : Timebase → Timebase) : (s.setTb f).twins = s.twins := rfl
@[simp] theorem State.setTb_engines (f : Timebase → Timebase) : (s.setTb f).engines = s.engines := rfl
@[simp] theorem State.setTb_mire (f : Timebase → Timebase) : (s.setTb f).mire = s.mire := rfl
@[simp] theorem State.setTb_begun (f : Timebase → Timebase) : (s.setTb f).begun = s.begun := rfl
@[simp] theorem State.setTb_bufTags (f : Timebase → Timebase) : (s.setTb f).bufTags = s.bufTags := rfl
@[simp] theorem State.setTb_seqs (f : Timebase → Timebase) : (s.setTb f).seqs = s.seqs := rfl
@[simp] theorem State.setTb_cells (f : Timebase → Timebase) : (s.setTb f).cells = s.cells := rfl
@[simp] theorem State.setTb_cellLost (f : Timebase → Timebase) : (s.setTb f).cellLost = s.cellLost := rfl
@[simp] theorem State.setTb_parity (f : Timebase → Timebase) : (s.setTb f).parity = s.parity := rfl
@[simp] theorem State.setTb_retired (f : Timebase → Timebase) : (s.setTb f).retired = s.retired := rfl
@[simp] theorem State.setTb_stand (f : Timebase → Timebase) : (s.setTb f).stand = s.stand := rfl
@[simp] theorem State.setTb_redos (f : Timebase → Timebase) : (s.setTb f).redos = s.redos := rfl
@[simp] theorem State.setTb_merges (f : Timebase → Timebase) : (s.setTb f).merges = s.merges := rfl
@[simp] theorem State.setTb_releases (f : Timebase → Timebase) : (s.setTb f).releases = s.releases := rfl
@[simp] theorem State.setTb_closes (f : Timebase → Timebase) : (s.setTb f).closes = s.closes := rfl
@[simp] theorem State.setTb_norms (f : Timebase → Timebase) : (s.setTb f).norms = s.norms := rfl
@[simp] theorem State.setTb_restarts (f : Timebase → Timebase) : (s.setTb f).restarts = s.restarts := rfl
@[simp] theorem State.setTb_slacks (f : Timebase → Timebase) : (s.setTb f).slacks = s.slacks := rfl
@[simp] theorem State.setTb_wbuf (f : Timebase → Timebase) : (s.setTb f).wbuf = s.wbuf := rfl
@[simp] theorem State.setTb_commits (f : Timebase → Timebase) : (s.setTb f).commits = s.commits := rfl
@[simp] theorem State.setTb_beams (f : Timebase → Timebase) : (s.setTb f).beams = s.beams := rfl
@[simp] theorem State.setTb_periods (f : Timebase → Timebase) : (s.setTb f).periods = s.periods := rfl
@[simp] theorem State.setTb_beamActive (f : Timebase → Timebase) : (s.setTb f).beamActive = s.beamActive := rfl
@[simp] theorem State.setTb_alerts (f : Timebase → Timebase) : (s.setTb f).alerts = s.alerts := rfl
@[simp] theorem State.setTb_emitted (f : Timebase → Timebase) : (s.setTb f).emitted = s.emitted := rfl
@[simp] theorem State.setTb_watchDone (f : Timebase → Timebase) : (s.setTb f).watchDone = s.watchDone := rfl
@[simp] theorem State.setTb_prods (f : Timebase → Timebase) : (s.setTb f).prods = s.prods := rfl
@[simp] theorem State.setTb_egress (f : Timebase → Timebase) : (s.setTb f).egress = s.egress := rfl
@[simp] theorem State.setTb_flowStage (f : Timebase → Timebase) : (s.setTb f).flowStage = s.flowStage := rfl
@[simp] theorem State.setTb_flowStart (f : Timebase → Timebase) : (s.setTb f).flowStart = s.flowStart := rfl
@[simp] theorem State.setTb_stagedNo (f : Timebase → Timebase) : (s.setTb f).stagedNo = s.stagedNo := rfl
@[simp] theorem State.setTb_sent (f : Timebase → Timebase) : (s.setTb f).sent = s.sent := rfl
@[simp] theorem State.setTb_notes (f : Timebase → Timebase) : (s.setTb f).notes = s.notes := rfl
@[simp] theorem State.setTb_msiPend (f : Timebase → Timebase) : (s.setTb f).msiPend = s.msiPend := rfl
@[simp] theorem State.setTb_msiSent (f : Timebase → Timebase) : (s.setTb f).msiSent = s.msiSent := rfl
@[simp] theorem State.setTb_targets (f : Timebase → Timebase) : (s.setTb f).targets = s.targets := rfl
@[simp] theorem State.setTb_holdback (f : Timebase → Timebase) : (s.setTb f).holdback = s.holdback := rfl
@[simp] theorem State.setTb_inFlight (f : Timebase → Timebase) : (s.setTb f).inFlight = s.inFlight := rfl
@[simp] theorem State.setTb_responses (f : Timebase → Timebase) : (s.setTb f).responses = s.responses := rfl
@[simp] theorem State.setTb_hostCut (f : Timebase → Timebase) : (s.setTb f).hostCut = s.hostCut := rfl
@[simp] theorem State.setTb_reqNo (f : Timebase → Timebase) : (s.setTb f).reqNo = s.reqNo := rfl
@[simp] theorem State.setTb_silent (f : Timebase → Timebase) : (s.setTb f).silent = s.silent := rfl
@[simp] theorem State.setTb_hostReads (f : Timebase → Timebase) : (s.setTb f).hostReads = s.hostReads := rfl
@[simp] theorem State.setTb_ctls (f : Timebase → Timebase) : (s.setTb f).ctls = s.ctls := rfl
@[simp] theorem State.setTb_delays (f : Timebase → Timebase) : (s.setTb f).delays = s.delays := rfl
@[simp] theorem State.setTb_training (f : Timebase → Timebase) : (s.setTb f).training = s.training := rfl
@[simp] theorem State.setTb_trainArmed (f : Timebase → Timebase) : (s.setTb f).trainArmed = s.trainArmed := rfl
@[simp] theorem State.setTb_throttled (f : Timebase → Timebase) : (s.setTb f).throttled = s.throttled := rfl
@[simp] theorem State.setTb_used (f : Timebase → Timebase) : (s.setTb f).used = s.used := rfl
@[simp] theorem State.setTb_logs (f : Timebase → Timebase) : (s.setTb f).logs = s.logs := rfl
@[simp] theorem State.setTb_ceRecent (f : Timebase → Timebase) : (s.setTb f).ceRecent = s.ceRecent := rfl
@[simp] theorem State.setTb_scrubs (f : Timebase → Timebase) : (s.setTb f).scrubs = s.scrubs := rfl
@[simp] theorem State.setTb_corrections (f : Timebase → Timebase) : (s.setTb f).corrections = s.corrections := rfl
@[simp] theorem State.setTb_keys (f : Timebase → Timebase) : (s.setTb f).keys = s.keys := rfl
@[simp] theorem State.setTb_keyStage (f : Timebase → Timebase) : (s.setTb f).keyStage = s.keyStage := rfl
@[simp] theorem State.setTb_gating (f : Timebase → Timebase) : (s.setTb f).gating = s.gating := rfl
@[simp] theorem State.setTb_refs (f : Timebase → Timebase) : (s.setTb f).refs = s.refs := rfl
@[simp] theorem State.setTb_peat (f : Timebase → Timebase) : (s.setTb f).peat = s.peat := rfl
@[simp] theorem State.setTb_power (f : Timebase → Timebase) : (s.setTb f).power = s.power := rfl
@[simp] theorem State.setTb_jtag (f : Timebase → Timebase) : (s.setTb f).jtag = s.jtag := rfl
@[simp] theorem State.setTb_d3hot (f : Timebase → Timebase) : (s.setTb f).d3hot = s.d3hot := rfl
@[simp] theorem State.setTb_reply (f : Timebase → Timebase) : (s.setTb f).reply = s.reply := rfl
@[simp] theorem State.setTb_fresh (f : Timebase → Timebase) : (s.setTb f).fresh = s.fresh := rfl
@[simp] theorem State.setTb_pending (f : Timebase → Timebase) : (s.setTb f).pending = s.pending := rfl

end Sys2Proof.Machine
end

