-- ==== Sys2Proof/Laws/Registers.lean ====
section
/-! SUPPORT. The laws of registers and their fields: what a register reads after it, or another, has been written. -/

namespace Sys2Proof

/-- The replaced bits read the new value. -/
theorem bits_setBits_same (v hi lo x : Nat) : bits (setBits v hi lo x) hi lo = x % 2 ^ (hi + 1 - lo) := by
  have hn : 0 < 2 ^ (hi + 1 - lo) := by positivity
  have hl : 0 < 2 ^ lo := by positivity
  generalize hA : 2 ^ (hi + 1 - lo) = A at *
  generalize hB : 2 ^ lo = B at *
  simp only [setBits, bits, hA, hB]
  have e1 : v = v % B + B * (v / B) := (Nat.mod_add_div v B).symm
  have e2 : v / B = v / B % A + A * (v / B / A) := (Nat.mod_add_div (v / B) A).symm
  set q := v / B with hq
  set c := q / A with hc
  set m := q % A with hm
  set l := v % B with hlq
  have h1 : v - m * B = l + B * (A * c) := by
    have : v = l + B * (m + A * c) := by rw [← e2]; exact e1
    rw [this]; ring_nf; omega
  have h2 : l < B := Nat.mod_lt _ hl
  rw [h1]
  have h3 : l + B * (A * c) + x % A * B = l + B * (x % A + A * c) := by ring
  rw [h3, Nat.add_mul_div_left _ _ hl, Nat.div_eq_of_lt h2, Nat.zero_add, Nat.add_mul_mod_self_left, Nat.mod_mod]

/-- The low bits of a number do not see what is above them. -/
theorem bits_mod (v w hi lo : Nat) (h : hi < w) (hlo : lo ≤ hi) : bits (v % 2 ^ w) hi lo = bits v hi lo := by
  simp only [bits]
  have hw : 2 ^ w = 2 ^ lo * 2 ^ (w - lo) := by rw [← pow_add]; congr 1; omega
  rw [hw, Nat.mod_mul_right_div_self]
  have : 2 ^ (w - lo) = 2 ^ (hi + 1 - lo) * 2 ^ (w - hi - 1) := by rw [← pow_add]; congr 1; omega
  rw [this, Nat.mod_mul_right_mod]

namespace Machine

variable (s : State)

theorem State.reg_setReg_same (r : RegDef) (i j v : Nat) (h : Sparse.rising s.regs = true) :
    (s.setReg r i j v).reg r i j = v % 2 ^ r.width := Sparse.at_put_same h

/-- A register elsewhere reads what it read, whatever its own reset value. -/
theorem State.reg_setReg_other (r r' : RegDef) (i j i' j' v : Nat) (h : r'.key i' j' ≠ r.key i j)  :
    (s.setReg r i j v).reg r' i' j' = s.reg r' i' j' := by
  show Sparse.at (Sparse.put s.regs (r.key i j) (v % 2 ^ r.width) (r.reset i j)) (r'.key i' j') (r'.reset i' j')
    = Sparse.at s.regs (r'.key i' j') (r'.reset i' j')
  exact Sparse.at_put_other' h

theorem State.setReg_rising (r : RegDef) (i j v : Nat) (h : Sparse.rising s.regs = true) :
    Sparse.rising (s.setReg r i j v).regs = true := Sparse.rising_put h

theorem State.set_rising (f : RField) (v i j : Nat) (h : Sparse.rising s.regs = true) :
    Sparse.rising (s.set f v i j).regs = true := Sparse.rising_put h

/-- A field reads what was written to it. -/
theorem State.get_set_same (f : RField) (v i j : Nat) (h : Sparse.rising s.regs = true) (hw : f.hi < f.reg.width)
    (hl : f.lo ≤ f.hi) : (s.set f v i j).get f i j = v % 2 ^ (f.hi + 1 - f.lo) := by
  show bits ((s.setReg f.reg i j _).reg f.reg i j) f.hi f.lo = _
  rw [State.reg_setReg_same s _ _ _ _ h, bits_mod _ _ _ _ hw hl, bits_setBits_same]

/-- A field of another register reads what it read. -/
theorem State.get_set_other (f g : RField) (v i j i' j' : Nat) (h : g.reg.key i' j' ≠ f.reg.key i j) :
    (s.set f v i j).get g i' j' = s.get g i' j' := by
  show bits ((s.setReg f.reg i j _).reg g.reg i' j') g.hi g.lo = _
  rw [State.reg_setReg_other s _ _ _ _ _ _ _ h]; rfl

/-- The register itself after one of its fields was written. -/
theorem State.reg_set_other (f : RField) (r : RegDef) (v i j i' j' : Nat) (h : r.key i' j' ≠ f.reg.key i j) :
    (s.set f v i j).reg r i' j' = s.reg r i' j' := State.reg_setReg_other s _ _ _ _ _ _ _ h

end Machine
end Sys2Proof
end

