-- ==== Sys2Proof/Laws/Events.lean ====
section
/-! SUPPORT. Everything that raising a source may do: it sets status bits, posts notes and sends messages. -/

namespace Sys2Proof.Machine

theorem State.sameBut_refl (s : State) : s.sameBut s := rfl

theorem State.sameBut_trans {s t u : State} (h : s.sameBut t) (k : t.sameBut u) : s.sameBut u := by
  unfold State.sameBut at *
  rw [k, h]

theorem State.regsKept_refl (s : State) (p : Nat → Bool) : s.regsKept s p := fun _ _ _ => rfl

theorem State.regsKept_trans {s t u : State} {p : Nat → Bool} (h : s.regsKept t p) (k : t.regsKept u p) :
    s.regsKept u p := fun a d ha => (k a d ha).trans (h a d ha)

theorem State.regsKept_setReg (s : State) (r : RegDef) (i j v : Nat) (p : Nat → Bool) (h : p (r.key i j) = true) :
    s.regsKept (s.setReg r i j v) p := by
  intro k d hk
  refine Sparse.at_put_other' ?_
  rintro rfl
  rw [hk] at h
  cases h

/-- What a state transformation may do to the event unit, and no more. -/
structure State.Raised (s t : State) : Prop where
  same : s.sameBut t
  kept : s.regsKept t eventReg
  rising : Sparse.rising s.regs = true → Sparse.rising t.regs = true
  on : ∀ n, n < 512 → s.evtOn n = true → Sparse.rising s.regs = true → t.evtOn n = true

theorem State.Raised.refl (s : State) : s.Raised s :=
  ⟨s.sameBut_refl, s.regsKept_refl _, id, fun _ _ h _ => h⟩

theorem State.Raised.trans {s t u : State} (h : s.Raised t) (k : t.Raised u) : s.Raised u :=
  ⟨State.sameBut_trans h.same k.same, State.regsKept_trans h.kept k.kept, fun r => k.rising (h.rising r),
    fun n hl hn hr => k.on n hl (h.on n hl hn hr) (h.rising hr)⟩

theorem State.Raised.foldl {α : Type} (f : State → α → State) (h : ∀ (s : State) x, s.Raised (f s x)) (l : List α) (s : State) :
    s.Raised (l.foldl f s) := by
  induction l generalizing s with
  | nil => exact .refl s
  | cons x l ih => exact (h s x).trans (ih _)

theorem evtStat_key (w : Nat) : evtStat.key w 0 = 0x400000 + 4 * w := by
  simp [RegDef.key, evtStat]

theorem note_key (r : RegDef) (hr : r = noteStatus ∨ r = notePeak ∨ r = noteLost) (t : Nat) :
    0x3008010 ≤ r.key t 0 := by
  rcases hr with rfl | rfl | rfl <;> simp [RegDef.key, noteStatus, notePeak, noteLost] <;> omega

theorem eventReg_note (r : RegDef) (hr : r = noteStatus ∨ r = notePeak ∨ r = noteLost) (t : Nat) (ht : t < 4) :
    eventReg (r.key t 0) = true := by
  have h : t ∈ List.range 4 := List.mem_range.mpr ht
  unfold eventReg
  rw [Bool.or_eq_true, List.any_eq_true, List.any_eq_true]
  refine Or.inr ⟨t, h, ?_⟩
  rcases hr with rfl | rfl | rfl <;> simp

/-- A register of a note queue is written. -/
theorem State.raised_note (s : State) (r : RegDef) (hr : r = noteStatus ∨ r = notePeak ∨ r = noteLost) (t v : Nat)
    (ht : t < 4) : s.Raised (s.setReg r t 0 v) :=
  ⟨rfl, s.regsKept_setReg _ _ _ _ _ (eventReg_note r hr t ht), fun h => s.setReg_rising _ _ _ _ h, fun n hl hn _ => by
    have h1 : evtStatStatus.reg.key (n / 32) 0 ≠ r.key t 0 := by
      have := note_key r hr t
      have := evtStat_key (n / 32)
      show evtStat.key _ _ ≠ _
      omega
    show bit (bits ((s.setReg r t 0 v).reg evtStatStatus.reg (n / 32) 0) _ _) _ = true
    rw [State.reg_setReg_other _ _ _ _ _ _ _ _ h1]
    exact hn⟩

/-- The notes or messages change. -/
theorem State.raised_notes (s : State) (x : Sparse NoteQueue) : s.Raised { s with notes := x } :=
  ⟨rfl, fun _ _ _ => rfl, id, fun _ _ h _ => h⟩

theorem State.raised_pend (s : State) (x : List (Nat × Nat)) : s.Raised { s with msiPend := x } :=
  ⟨rfl, fun _ _ _ => rfl, id, fun _ _ h _ => h⟩

theorem State.raised_sent (s : State) (x : List (Nat × Nat)) : s.Raised { s with msiSent := x } :=
  ⟨rfl, fun _ _ _ => rfl, id, fun _ _ h _ => h⟩

theorem State.raised_msix (s : State) (src : Nat) : s.Raised (s.msixPost src) := by
  unfold State.msixPost
  dsimp only
  split
  · exact .refl s
  · split
    · split
      · exact .refl s
      · exact s.raised_pend _
    · exact s.raised_sent _

theorem State.raised_peak (s : State) (occ t : Nat) (ht : t < 4) : s.Raised (s.peak notePeakValue occ t) := by
  unfold State.peak
  split
  · exact s.raised_note notePeak (by simp) t _ ht
  · exact .refl s

theorem State.raised_store (s : State) (t : Nat) (n : Note) (ht : t < 4) : s.Raised (s.noteStore t n).1 := by
  unfold State.noteStore
  dsimp only
  split
  · exact (s.raised_notes _).trans (State.raised_peak _ _ _ ht)
  · exact s.raised_note noteLost (by simp) t _ ht

theorem bits_lt (v hi lo n : Nat) (h : 2 ^ (hi + 1 - lo) = n) : bits v hi lo < n := by
  subst h
  exact Nat.mod_lt _ (by positivity)

/-- Setting bit `k` leaves bit `m` set, and sets bit `k`. -/
theorem bit_or (v k m w : Nat) (hm : m < w) :
    bit ((v ||| 2 ^ k) % 2 ^ w) m = (bit v m || decide (m = k)) := by
  have e : ∀ x i, bit x i = x.testBit i := fun x i => by
    rw [Nat.testBit_eq_decide_div_mod_eq]; rfl
  rw [e, e, Nat.testBit_mod_two_pow, Nat.testBit_or, Nat.testBit_two_pow]
  simp only [hm, decide_true, Bool.true_and]
  congr 1
  simp only [eq_comm]

/-- The status of a source is a bit of its register. -/
theorem State.evtOn_reg (s : State) (n : Nat) : s.evtOn n = bit (s.reg evtStat (n / 32) 0) (n % 32) := by
  show bit (bits _ 31 0) _ = _
  have e : ∀ x i, bit x i = x.testBit i := fun x i => by
    rw [Nat.testBit_eq_decide_div_mod_eq]; rfl
  rw [bits, e, e, pow_zero, Nat.div_one, Nat.testBit_mod_two_pow]
  have : n % 32 < 31 + 1 - 0 := by omega
  simp [this]
  rfl

/-- A status bit of the event unit is set among others. -/
theorem State.raised_stat (s : State) (src : Nat) (h : src < 512) :
    s.Raised (s.setStatus evtStat (src / 32) 0 (2 ^ (src % 32))) := by
  have hk : eventReg (evtStat.key (src / 32) 0) = true := by
    unfold eventReg
    rw [Bool.or_eq_true, List.any_eq_true]
    exact Or.inl ⟨src / 32, List.mem_range.mpr (by omega), by simp⟩
  refine ⟨rfl, s.regsKept_setReg _ _ _ _ _ hk, fun hr => s.setReg_rising _ _ _ _ hr, fun n hl hn hr => ?_⟩
  rw [State.evtOn_reg] at hn ⊢
  by_cases he : n / 32 = src / 32
  · rw [he] at hn ⊢
    rw [State.setStatus, State.reg_setReg_same _ _ _ _ _ hr]
    show bit (_ % 2 ^ 32) _ = true
    rw [bit_or _ _ _ _ (Nat.mod_lt _ (by decide)), hn]
    rfl
  · rw [State.setStatus, State.reg_setReg_other]
    · exact hn
    · rw [evtStat_key, evtStat_key]
      omega

theorem evtListed_lt {i : Nat} (h : evtListed i = true) : i < 512 := by
  simp only [evtListed, Bool.or_eq_true, Bool.and_eq_true, decide_eq_true_eq] at h
  omega

/-- A note is stored, and the queue's sources are raised. -/
theorem State.raised_posted (g : State → Nat → State) (hg : ∀ (s : State) src, s.Raised (g s src)) (s : State)
    (t : Nat) (n : Note) (ht : t < 4) :
    s.Raised ((s.noteStore t n).2.foldl
      (fun a b => g (a.setStatus noteStatus t 0 (2 ^ b)) (noteSource t b)) (s.noteStore t n).1) :=
  (State.raised_store s t n ht).trans
    (State.Raised.foldl _ (fun u _ => (u.raised_note noteStatus (by simp) t _ ht).trans (hg _ _)) _ _)

theorem State.raised_fuel (fuel : Nat) : ∀ (s : State) (src : Nat), s.Raised (s.raiseFuel src fuel) := by
  induction fuel with
  | zero => exact fun s _ => .refl s
  | succ fuel ih =>
    intro s src
    rw [State.raiseFuel]
    split
    · exact .refl s
    · next hl =>
      have hs : src < 512 := evtListed_lt (by simpa using hl)
      have h1 := s.raised_stat src hs
      dsimp only
      split
      · exact h1
      · split
        · exact h1.trans (State.raised_msix _ _)
        · split
          · have ht : ∀ t : State, t.get evtCfgFn src < 4 := fun t => bits_lt _ _ _ _ rfl
            exact h1.trans (State.raised_posted (fun a b => a.raiseFuel b fuel) ih _ _ _ (ht _))
          · exact h1

/-- Raising a source does nothing but what the event unit does (R363). -/
theorem State.raised (s : State) (src : Nat) : s.Raised (s.raise src) := by
  unfold State.raise
  split
  · exact .refl s
  · exact State.raised_fuel _ _ _

theorem State.raiseFuel_on (s : State) (src fuel : Nat) (hl : evtListed src = true) (hr : Sparse.rising s.regs = true) :
    (s.raiseFuel src (fuel + 1)).evtOn src = true := by
  have hs := evtListed_lt hl
  have h0 : (s.setStatus evtStat (src / 32) 0 (2 ^ (src % 32))).evtOn src = true := by
    rw [State.evtOn_reg, State.setStatus, State.reg_setReg_same _ _ _ _ _ hr]
    show bit (_ % 2 ^ 32) _ = true
    rw [bit_or _ _ _ _ (Nat.mod_lt _ (by decide))]
    simp
  have hr1 := s.setReg_rising evtStat (src / 32) 0 (s.reg evtStat (src / 32) 0 ||| 2 ^ (src % 32)) hr
  have ht : ∀ t : State, t.get evtCfgFn src < 4 := fun t => bits_lt _ _ _ _ rfl
  rw [State.raiseFuel, if_neg (by simp [hl])]
  dsimp only
  split
  · exact h0
  · split
    · exact (State.raised_msix _ _).on _ hs h0 hr1
    · split
      · exact (State.raised_posted (fun a b => a.raiseFuel b fuel) (State.raised_fuel fuel) _ _ _ (ht _)).on _ hs h0 hr1
      · exact h0

/-- A source that the table lists is set when it is raised. -/
theorem State.raise_on (s : State) (src : Nat) (hl : evtListed src = true) (hp : s.power.inReset = false)
    (hr : Sparse.rising s.regs = true) : (s.raise src).evtOn src = true := by
  unfold State.raise
  rw [if_neg (by simp [hp])]
  exact s.raiseFuel_on _ _ hl hr

theorem State.raise_rising (s : State) (src : Nat) (h : Sparse.rising s.regs = true) :
    Sparse.rising (s.raise src).regs = true := (s.raised src).rising h

/-- A register outside the event unit's reads what it read. -/
theorem State.Raised.reg {s t : State} (h : s.Raised t) (r : RegDef) (i j : Nat) (hk : eventReg (r.key i j) = false) :
    t.reg r i j = s.reg r i j := h.kept _ _ hk

theorem State.reg_raise (s : State) (src : Nat) (r : RegDef) (i j : Nat) (hk : eventReg (r.key i j) = false) :
    (s.raise src).reg r i j = s.reg r i j := (s.raised src).reg r i j hk

theorem State.get_raise (s : State) (src : Nat) (f : RField) (i j : Nat) (hk : eventReg (f.reg.key i j) = false) :
    (s.raise src).get f i j = s.get f i j := by
  show bits ((s.raise src).reg f.reg i j) _ _ = _
  rw [State.reg_raise _ _ _ _ _ hk]; rfl

end Sys2Proof.Machine
end

