-- ==== Sys2Proof/Laws/Access.lean ====
section
/-! SUPPORT. What a guarded register access does: performed where the right is there, refused with the rejected-write
event where it is not, and lost where nothing answers. -/

namespace Sys2Proof.Machine

theorem State.guarded_ok (s : State) (w : Who) (off : Nat) (f : State → State) (hr : s.reachable w off = true)
    (hu : s.unanswered off = false) (ha : s.admitted w off = true) : s.guarded w off true f = f s := by
  simp [State.guarded, hr, ha, hu]

theorem State.guarded_ignored (s : State) (w : Who) (off : Nat) (f : State → State) (hr : s.reachable w off = true)
    (hu : s.unanswered off = false) (ha : s.admitted w off = true) : s.guarded w off false f = s := by
  simp [State.guarded, hr, ha, hu]

theorem State.guarded_refused (s : State) (w : Who) (off : Nat) (ok : Bool) (f : State → State)
    (hr : s.reachable w off = true) (hu : s.unanswered off = false) (ha : s.admitted w off = false) :
    s.guarded w off ok f = s.reject w off := by
  simp [State.guarded, hr, ha, hu]

theorem State.guarded_lost (s : State) (w : Who) (off : Nat) (ok : Bool) (f : State → State)
    (hr : s.reachable w off = false) : s.guarded w off ok f = s := by
  simp [State.guarded, hr]

theorem State.admitted_zero (s : State) (w : Who) (off : Nat) (h : w.fn = 0) : s.admitted w off = true := by
  simp [State.admitted, State.assigned, h]

theorem State.guarded0_lets (s : State) (w : Who) (off : Nat) (f : State → State) (h : s.lets w off) :
    s.guarded0 w off f = f s := by
  obtain ⟨hr, hu, hf⟩ := h
  simp [State.guarded0, State.guarded, hr, hu, hf, State.admitted, State.assigned]

theorem State.lets_reset {s : State} {w : Who} {off : Nat} (h : s.lets w off) : s.power.inReset = false := by
  have := h.1
  simp only [State.reachable, Bool.and_eq_true, Bool.not_eq_true'] at this
  exact this.1.1.1

theorem State.reachable_reset {s : State} {w : Who} {off : Nat} (h : s.reachable w off = true) :
    s.power.inReset = false := by
  simp only [State.reachable, Bool.and_eq_true, Bool.not_eq_true'] at h
  exact h.1.1.1

theorem rejectEvent_listed (f : Fin 4) : evtListed (48 + f.val) = true := by
  fin_cases f <;> rfl

/-- The offsets a rejected write may change: the event unit's, and the capture register. -/
def rejectReg (k : Nat) : Bool := eventReg k || (List.range 4).any fun f => k = evtReject.key f 0

theorem rejectReg_of (k : Nat) (f : Nat) (hf : f < 4) (hk : k = evtReject.key f 0) : rejectReg k = true := by
  have h : ((List.range 4).any fun f => decide (k = evtReject.key f 0)) = true :=
    List.any_eq_true.mpr ⟨f, List.mem_range.mpr hf, decide_eq_true hk⟩
  unfold rejectReg
  rw [h, Bool.or_true]

theorem rejectReg_key (f : Fin 4) : rejectReg (evtReject.key f 0) = true := rejectReg_of _ f.val f.isLt rfl

theorem State.regsKept_mono {s t : State} {p q : Nat → Bool} (h : s.regsKept t p) (hq : ∀ k, p k = true → q k = true) :
    s.regsKept t q := fun k d hk => h k d (by
  cases hp : p k with
  | false => rfl
  | true => rw [hq k hp] at hk; cases hk)

theorem State.sameBut_set (s : State) (f : RField) (v i j : Nat) : s.sameBut (s.set f v i j) := rfl

theorem State.sameBut_setW1c (s : State) (f : RField) (i j : Nat) : s.sameBut (s.setW1c f i j) := rfl

/-- Everything a rejected write may do (R366). -/
theorem State.reject_spec (s : State) (w : Who) (a : Nat) :
    s.sameBut (s.reject w a) ∧ s.regsKept (s.reject w a) rejectReg ∧
      (Sparse.rising s.regs = true → Sparse.rising (s.reject w a).regs = true) := by
  have h := s.raised (48 + w.fn.val)
  have hk : s.regsKept (s.raise (48 + w.fn.val)) rejectReg :=
    State.regsKept_mono h.kept fun k hk => by simp [rejectReg, hk]
  unfold State.reject
  dsimp only
  split
  · exact ⟨h.same, hk, h.rising⟩
  · refine ⟨State.sameBut_trans h.same (State.sameBut_trans (State.sameBut_trans (State.sameBut_setW1c _ _ _ _)
      (State.sameBut_set _ _ _ _ _)) (State.sameBut_set _ _ _ _ _)), State.regsKept_trans hk ?_, fun hr => ?_⟩
    · exact State.regsKept_trans (State.regsKept_trans (State.regsKept_setReg _ _ _ _ _ _ (rejectReg_key _))
        (State.regsKept_setReg _ _ _ _ _ _ (rejectReg_key _))) (State.regsKept_setReg _ _ _ _ _ _ (rejectReg_key _))
    · exact State.set_rising _ _ _ _ _ (State.set_rising _ _ _ _ _ (State.setReg_rising _ _ _ _ _ (h.rising hr)))

theorem State.evtOn_set (s : State) (f : RField) (v i j n : Nat) (h : ∀ w < 16, evtStat.key w 0 ≠ f.reg.key i j)
    (hn : n < 512) : (s.set f v i j).evtOn n = s.evtOn n := by
  unfold State.evtOn
  rw [State.get_set_other]
  exact h _ (by omega)

theorem State.evtOn_setW1c (s : State) (f : RField) (i j n : Nat) (h : ∀ w < 16, evtStat.key w 0 ≠ f.reg.key i j)
    (hn : n < 512) : (s.setW1c f i j).evtOn n = s.evtOn n := by
  rw [State.evtOn_reg, State.evtOn_reg, State.setW1c, State.setStatus, State.reg_setReg_other]
  exact h _ (by omega)

/-- A rejected write raises the event of its function. -/
theorem State.reject_on (s : State) (w : Who) (a : Nat) (hp : s.power.inReset = false)
    (hr : Sparse.rising s.regs = true) : (s.reject w a).evtOn (48 + w.fn.val) = true := by
  have h := s.raise_on (48 + w.fn.val) (rejectEvent_listed w.fn) hp hr
  have hn : 48 + w.fn.val < 512 := by omega
  have hk : ∀ v < 16, evtStat.key v 0 ≠ evtReject.key w.fn 0 := by
    intro v hv
    simp [RegDef.key, evtStat, evtReject]
    omega
  unfold State.reject
  dsimp only
  split
  · exact h
  · rw [State.evtOn_set _ _ _ _ _ _ hk hn, State.evtOn_set _ _ _ _ _ _ hk hn, State.evtOn_setW1c _ _ _ _ _ hk hn]
    exact h

theorem State.sound_rising {s : State} (h : s.sound = true) : Sparse.rising s.regs = true := by
  simp only [State.sound, Bool.and_eq_true] at h
  exact h.2

end Sys2Proof.Machine
end

