-- ==== Sys2Proof/Laws/Arith.lean ====
section
/-! SUPPORT. Byte strings and the CRC: how long they are and how large. -/

namespace Sys2Proof

theorem crcBits_lt (poly n c : Nat) (hp : poly < 2 ^ 32) (h : c < 2 ^ 32) : crcBits poly n c < 2 ^ 32 := by
  induction n generalizing c with
  | zero => exact h
  | succ n ih =>
    unfold crcBits
    refine ih _ ?_
    have h2 : c / 2 < 2 ^ 32 := by omega
    split
    · exact Nat.xor_lt_two_pow h2 hp
    · exact h2

theorem crcFold_lt (poly : Nat) (l : List Byte) (c : Nat) (hp : poly < 2 ^ 32) (h : c < 2 ^ 32) : crcFold poly l c < 2 ^ 32 := by
  induction l generalizing c with
  | nil => exact h
  | cons b r ih =>
    refine ih _ (crcBits_lt poly 8 _ hp (Nat.xor_lt_two_pow h ?_))
    have := b.isLt
    omega

/-- A CRC-32C is a 32-bit number. -/
theorem crc32c_lt (l : List Byte) : crc32c l < 2 ^ 32 :=
  Nat.xor_lt_two_pow (crcFold_lt _ l _ (by decide) (by decide)) (by decide)

theorem leBytes_length (n v : Nat) : (leBytes n v).length = n := by
  induction n generalizing v with
  | zero => rfl
  | succ n ih => simp [leBytes, ih]

theorem leVal_lt (l : List Byte) : leVal l < 256 ^ l.length := by
  induction l with
  | nil => simp [leVal]
  | cons b r ih =>
    have hb := b.isLt
    simp only [leVal, List.length_cons, Nat.pow_succ]
    omega

/-- The bytes of a number read back as its low bits (R6). -/
theorem leVal_leBytes (n v : Nat) : leVal (leBytes n v) = v % 256 ^ n := by
  induction n generalizing v with
  | zero => simp [leBytes, leVal, Nat.mod_one]
  | succ n ih =>
    have h : 256 ^ (n + 1) = 256 * 256 ^ n := Nat.pow_succ'
    simp only [leBytes, leVal, ih, BitVec.toNat_ofNat]
    rw [h, Nat.mod_mul]

end Sys2Proof
end

