-- ==== Sys2Proof/Laws/Memory.lean ====
section
/-! SUPPORT. The laws of the memory: every operation that writes it keeps its canonical form, and what a byte and a
mark read afterwards. -/

namespace Sys2Proof.Machine

/-- The reset state's stores are in canonical form. -/
theorem State.sound_reset : State.reset.sound = true := rfl

/-- A state whose three stores are canonical is sound. -/
theorem State.sound_of {s : State} (hm : Sparse.wf s.mem 0 = true) (hk : Sparse.wf s.marks none = true)
    (hr : Sparse.rising s.regs = true) : s.sound = true := by
  simp only [State.sound, Memory.wf, Bool.and_eq_true]
  exact ⟨⟨hm, hk⟩, hr⟩

theorem State.sound_mem {s : State} (h : s.sound = true) : Sparse.wf s.mem 0 = true := by
  simp only [State.sound, Memory.wf, Bool.and_eq_true] at h
  exact h.1.1

theorem State.sound_marks {s : State} (h : s.sound = true) : Sparse.wf s.marks none = true := by
  simp only [State.sound, Bool.and_eq_true] at h
  exact h.1.2

/-- A state with the stores of a sound one is sound. -/
theorem State.sound_same {s t : State} (h : s.sound = true) (hm : t.mem = s.mem) (hk : t.marks = s.marks)
    (hr : t.regs = s.regs) : t.sound = true :=
  State.sound_of (hm ▸ State.sound_mem h) (hk ▸ State.sound_marks h) (hr ▸ State.sound_rising h)

/-- A register write keeps the stores canonical. -/
theorem State.sound_setReg {s : State} (r : RegDef) (v i j : Nat) (h : s.sound = true) :
    (s.setReg r i j v).sound = true := by
  have hm := State.sound_mem h
  have hk := State.sound_marks h
  exact State.sound_of hm hk (Sparse.rising_put (State.sound_rising h))

/-- A field write keeps the stores canonical. -/
theorem State.sound_set {s : State} (f : RField) (v i j : Nat) (h : s.sound = true) : (s.set f v i j).sound = true :=
  State.sound_setReg _ _ _ _ h

/-- Storing bytes changes the memory alone. -/
theorem State.putBytes_same (s : State) (a : Nat) (d : List Byte) :
    s.putBytes a d = { s with mem := (s.putBytes a d).mem } := by
  induction d generalizing s a with
  | nil => rfl
  | cons b r ih =>
    rw [State.putBytes, ih { s with mem := Sparse.put s.mem a b 0 } (a + 1)]

/-- Storing bytes keeps the memory canonical. -/
theorem State.putBytes_wf {s : State} (a : Nat) (d : List Byte) (h : Sparse.wf s.mem 0 = true) :
    Sparse.wf (s.putBytes a d).mem 0 = true := by
  induction d generalizing s a with
  | nil => exact h
  | cons b r ih => exact ih (s := { s with mem := Sparse.put s.mem a b 0 }) (a + 1) (Sparse.wf_put h)

/-- Outside the stored bytes the memory reads as before. -/
theorem State.putBytes_other (s : State) (a : Nat) (d : List Byte) (x : Nat) (h : x < a ∨ a + d.length ≤ x) :
    (s.putBytes a d).byte x = s.byte x := by
  induction d generalizing s a with
  | nil => rfl
  | cons b r ih =>
    have hl : (b :: r).length = r.length + 1 := rfl
    rw [State.putBytes, ih _ _ (by omega)]
    exact Sparse.at_put_other (by omega)

/-- The `i`-th stored byte reads back. -/
theorem State.putBytes_at {s : State} (a : Nat) (d : List Byte) (i : Nat) (hi : i < d.length)
    (h : Sparse.rising s.mem = true) : (s.putBytes a d).byte (a + i) = d[i] := by
  induction d generalizing s a i with
  | nil => simp at hi
  | cons b r ih =>
    have hput : Sparse.rising (Sparse.put s.mem a b 0) = true := Sparse.rising_put h
    rw [State.putBytes]
    cases i with
    | zero =>
      rw [State.putBytes_other _ _ _ _ (by omega)]
      exact Sparse.at_put_same h
    | succ i =>
      have := ih (s := { s with mem := Sparse.put s.mem a b 0 }) (a + 1) i (by simpa using hi) hput
      rw [show a + (i + 1) = a + 1 + i by omega, this]
      rfl

/-- Setting a mark changes the marks and the written bits alone. -/
theorem State.setMark_same (s : State) (w : Nat) (m : Mark) :
    s.setMark w m = { s with marks := (s.setMark w m).marks, lines := (s.setMark w m).lines } := by
  unfold State.setMark
  split <;> rfl

/-- Setting a mark keeps the stores canonical. -/
theorem State.sound_setMark {s : State} (w : Nat) (m : Mark) (h : s.sound = true) : (s.setMark w m).sound = true := by
  unfold State.setMark
  split
  · exact h
  · have hm := State.sound_mem h
    have hk := State.sound_marks h
    have hr := State.sound_rising h
    exact State.sound_of hm (Sparse.wf_put hk) hr

/-- Setting any number of marks keeps the stores canonical. -/
theorem State.sound_setMarks {α : Type} (l : List α) (f : α → Nat) (g : α → Mark) {s : State} (h : s.sound = true) :
    (l.foldl (fun t w => t.setMark (f w) (g w)) s).sound = true := by
  induction l generalizing s with
  | nil => exact h
  | cons x r ih => exact ih (State.sound_setMark _ _ h)

/-- Setting any number of marks changes no byte. -/
theorem State.setMarks_mem {α : Type} (l : List α) (f : α → Nat) (g : α → Mark) (s : State) :
    (l.foldl (fun t w => t.setMark (f w) (g w)) s).mem = s.mem := by
  induction l generalizing s with
  | nil => rfl
  | cons x r ih =>
    rw [List.foldl_cons, ih, State.setMark_same]

/-- A store of bytes keeps the stores canonical. -/
theorem State.sound_store {s : State} (a : Nat) (d : List Byte) (h : s.sound = true) : (s.store a d).sound = true := by
  unfold State.store
  refine State.sound_setMarks _ _ _ ?_
  rw [State.putBytes_same]
  have hk := State.sound_marks h
  have hr := State.sound_rising h
  exact State.sound_of (State.putBytes_wf a d (State.sound_mem h)) hk hr

/-- The bytes after a store are those of the plain write. -/
theorem State.store_byte (s : State) (a : Nat) (d : List Byte) (x : Nat) :
    (s.store a d).byte x = (s.putBytes a d).byte x := by
  unfold State.byte State.store
  rw [State.setMarks_mem]

/-- Outside the stored bytes the memory reads as before a store. -/
theorem State.store_other (s : State) (a : Nat) (d : List Byte) (x : Nat) (h : x < a ∨ a + d.length ≤ x) :
    (s.store a d).byte x = s.byte x := by
  rw [State.store_byte, State.putBytes_other _ _ _ _ h]

/-- The `i`-th byte of a store reads back. -/
theorem State.store_at {s : State} (a : Nat) (d : List Byte) (i : Nat) (hi : i < d.length) (h : s.sound = true) :
    (s.store a d).byte (a + i) = d[i] := by
  rw [State.store_byte]
  exact State.putBytes_at a d i hi (Sparse.wf_rising (State.sound_mem h))

/-- Poisoning keeps the stores canonical. -/
theorem State.sound_poison {s : State} (a n : Nat) (h : s.sound = true) : (s.poison a n).sound = true :=
  State.sound_setMarks _ _ _ h

/-- Losing contents keeps the stores canonical. -/
theorem State.sound_lose {s : State} (p : Nat → Bool) (h : s.sound = true) : (s.lose p).sound = true := by
  have hm := State.sound_mem h
  have hk := State.sound_marks h
  have hr := State.sound_rising h
  exact State.sound_of (Sparse.wf_drop p hm) (Sparse.wf_drop (fun w => p (8 * w)) hk) hr

/-- A lost byte reads 0; another reads as before. -/
theorem State.lose_byte (s : State) (p : Nat → Bool) (x : Nat) :
    (s.lose p).byte x = if p x = true then 0 else s.byte x := by
  split
  · next h => exact Sparse.at_drop_gone p h
  · next h => exact Sparse.at_drop_keep p (by simpa using h)

end Sys2Proof.Machine
end

