-- ==== Sys2Proof/WellFormed.lean ====
section
/-! DEFINITION. Which commands the bus and the lines can form: operands of the sizes the rules give them. The machine's
meanings are total and do not rest on it. -/

namespace Sys2Proof

/-- A request moves 1 to 4,096 bytes (R235). -/
def Access.wf (x : Access) : Bool :=
  match x with
  | .read n => decide (1 ≤ n ∧ n ≤ 4096)
  | .write d => decide (1 ≤ d.length ∧ d.length ≤ 4096)

/-- A training operation reports each of the 36 lanes, and a window's ends in order (R253). -/
def TrainResult.wf (x : TrainResult) : Bool :=
  decide (x.windows.length = 36) && x.windows.all fun w =>
    match w with
    | none => true
    | some (lo, hi) => decide (lo ≤ hi)

/-- A command whose operands have the sizes the rules give them: register offsets on 32-bit boundaries (R7), packets of
at most 1,034 blocks (R55), table writes within the 48-bit space (R35, R389), differences named once (R264), context writes
within 16 bytes (R281), a frame with an Ethernet header (R277), 16 die and 4 tower readings (R336), and a link width and
speed that HOST.LINK can show (R366). -/
def Instr.wf (i : Instr) : Bool :=
  match i with
  | .registerWrite _ off _ => decide (off.toNat % 4 = 0)
  | .peakRead _ off => decide (off.toNat % 4 = 0)
  | .shadowTableWrite _ addr data => decide (data ≠ [] ∧ addr.toNat + data.length ≤ 2 ^ 48)
  | .ingestPacket _ p => decide (1 ≤ p.blocks.length ∧ p.blocks.length ≤ 1034)
  | .fineSampleFormed _ _ _ _ _ differs => decide (differs.Nodup)
  | .fabricRequest _ _ _ _ _ acc => acc.wf
  | .memtrOpDone res => res.wf
  | .flowContextWrite _ _ start data => decide (data ≠ [] ∧ start.val + data.length ≤ 16)
  | .ethernetRxFrame _ frame _ => decide (14 ≤ frame.length)
  | .thermalPoll die towers => decide (die.length = 16 ∧ towers.length = 4)
  | .bar2Access _ _ acc => acc.wf
  | .hostLinkUp width speed => decide ((width = 1 ∨ width = 2 ∨ width = 4 ∨ width = 8) ∧ 1 ≤ speed.toNat ∧ speed.toNat ≤ 5)
  | .frameTick | .skewForcedTick | .coastTick | .sealPoint | .tickCtrlWrite _ _ | .commitEq _ | .commitDly _
  | .commitBw _ | .commitWt _ | .tenReserveWrite _ _ _ | .outOfPacketBlock _ _ | .laneBlockLock _ _ _
  | .laneLoss _ _ _ | .markerLock _ _ _ _ | .markerLockLoss _ _ | .presentChange _ _ | .fwdClockQualified _
  | .fwdClockFault _ | .trainTimeout _ | .markerTimeout _ | .receiversOff _ | .buttonPress _ | .ingestCtrlWrite _ _ _
  | .ingestSlip _ _ _ | .ingestClrcnt _ _ | .ingestRejoin _ _ | .ingestDrain _ _ | .prbsCtrlWrite _ _ _
  | .prbsCheckerLock _ _ _ _ | .feCfgWrite _ _ | .feCtrlWrite _ _ _ _ | .feCtrlEffect _ | .dcClr _ _ | .feClrcnt _ _
  | .holdRelease _ | .feInitDone | .mvDoorbell _ _ _ | .mvRingCfgWrite _ _ _ | .descriptorFetch _
  | .descriptorComplete _ _ | .mireCmdFreeze _ | .mireCmdThaw _ | .mireMarkWrite _ _ | .seqStart _ _ _
  | .seqStop _ _ _ | .cndStart _ _ | .cndStop _ _ | .cndMemWrite _ _ _ | .nop _ | .add _ | .sub _ | .and _ | .or _
  | .xor _ | .shl _ | .shr _ | .sra _ | .li _ | .lui _ | .cmp _ | .br _ | .brp _ | .loop _ | .waitTick _ | .waitEvt _
  | .sig _ | .csrr _ | .csrw _ | .fence _ | .frameEnd _ | .frameEndRetire _ | .halt _ | .stallResolved _ | .mvLd _ _
  | .mvSt _ _ | .mvDesc _ _ | .mvWaitb _ _ | .mvSpill _ _ | .condMvLd _ | .condMvSt _ | .condCsrr _ | .condCsrw _
  | .writeBufferDrain | .sysTick _ | .sysSeal _ | .sysCommit _ | .sysFlow _ | .sysMire _ | .sysTen _ | .sysEvt _
  | .vadd _ _ | .vsub _ _ | .vmul _ _ | .vmac _ _ | .vmovs _ _ | .vrndc _ _ | .vcmp _ _ | .vsel _ _ | .vpack _ _
  | .vmaxi _ _ | .vmini _ _ | .vrowmax _ _ | .vrowsum _ _ | .cxStart _ _ | .cxPreload _ _ | .cxDumpWriteback _ _
  | .cxDumpClose _ _ | .cxSave _ _ | .cxRestore _ _ | .cxClear _ _ | .cxWait _ _ | .cbStart _ _ | .cellSpare _ _
  | .cellRunEnd _ _ _ | .x2ForcedSpill _ _ _ | .cellDumpDone _ _ _ | .redoStart _ _ | .redoEnd _ _
  | .gateRelease _ _ _ | .gateReleaseEffect _ _ _ | .gateFill _ _ _ | .beamCfgWrite _ _ _ _ | .blockBeamWrite _ _ _ _
  | .beamClrcnt _ | .voltagePacket _ _ _ _ | .powerPeriodClose _ _ | .watchRelease | .segmentGrant _
  | .fabricResponse _ | .starvePromotion _ | .peripheralTimeout | .dramCommand _ | .refreshDue _ | .towerInit _
  | .selfRefreshEnter _ | .selfRefreshResidency _ | .selfRefreshExit _ | .memtrPatw _ _ | .memtrPatr _ _
  | .memtrSweepr _ _ | .memtrSweepw _ _ | .memtrApply _ _ | .memtrDone _ | .memtrTrain _ | .memRetrain _ _
  | .memPllLock _ | .pageRetire _ _ _ _ | .pageRetireDone _ | .correctionWriteback _ | .scrubWord _ | .scrubSlow _
  | .twinRearm _ _ | .logClr _ _ | .sramBankRetire _ _ _ | .sramBankRetireDone _ | .keyLoad _ _ _ _ | .keyErase _ _
  | .productStage | .sluiceSelect _ | .egressLinkChange _ _ _ _ _ | .tsqHiRead _ _ | .ptprxPop _ _ | .ptprxClr _ _
  | .todSecRead _ | .todSetsec _ _ | .todSecondCarry | .noteNextRead _ _ | .noteWordRead _ _ | .noteDrop _ _
  | .noteClr _ _ | .refActivityChange _ _ _ | .frequencyGateEnd _ _ | .referenceBoundary _ _ | .referenceSwitchDone
  | .wtrExpiry | .holdmaxExpiry _ | .tbCfgWrite _ _ | .tbQualWrite _ _ | .tbPstepWrite _ _ | .pstepDone
  | .ptpMeasurement _ _ | .ptpsMeasTimeout | .ptpsCfgWrite _ _ | .rootPllLock | .clockMonitorFail _ _
  | .clockRestore _ | .clockGate _ _ | .clockUngate _ _ | .clockForcedGate _ _ | .gateIdleStop | .gateRefused
  | .feedLoss _ | .feedBack _ | .leaseRenewal | .leaseExpiry | .take _ | .savedStateWrite _ | .resync _ _ _
  | .handover _ | .railFault _ _ | .thermCfgWrite _ _ | .thermalTrip | .peatGet _ | .peatSet _ | .peatDelete _
  | .peatCompact _ | .peatCommandDone _ | .calUserWrite _ _ _ | .por _ _ | .resetPin _ | .perst _ | .rstChip _
  | .rstRegion _ _ | .rstProgram _ _ _ _ | .programResetDone _ | .chipResetRelease | .pwrRun _ | .pwrIdle _
  | .pwrStandby _ | .pwrDormant _ | .wakeTimer | .linkDown | .functionLevelReset _ | .tenCmd _ _ | .evtRaise _ _
  | .evtEnableWrite _ _ _ | .msixUnmask _ _ | .msixEnable _ _ | .cellOperationEnd _ _ _ | .packetEligible _
  | .clockSourceGood _ | .holdValid _ | .holdoverHistory | .selfRefreshExitDone _ | .d3hotEntry _ | .weightInitDone => true

end Sys2Proof
end

