-- ==== Sys2Proof/Tests/Slice0.lean ====
section
/-! SUPPORT. Tests: the well-formedness checks refuse what they should; decoded words; concrete states and operands that
meet the hypotheses of each statement together; and single steps whose results the spec gives. -/

namespace Sys2Proof

set_option Elab.async false
open Machine

/-! ## Helpers -/

/-- Function 0 through BAR0. -/
def Tests.h0 : Who := ⟨.bar0, 0⟩

/-- Function 1 through BAR0. -/
def Tests.h1 : Who := ⟨.bar0, 1⟩

/-- Ticking in frame 5, whose FT came at cycle 1,000,000, with ports 0 and 3 UP; a little over a nominal frame has passed. -/
def Tests.run : State :=
  { (((State.reset.set tickCtrlRun 1).set ingPstateState 4 0).set ingPstateState 4 3).set tickFrameFrame 5 with
    cycle := 42943140, tick := { seen := true, ftCycle := 1000000, passed := 41943140 * 800000000000000 } }

/-- The same, after the seal point. -/
def Tests.sealed : State := Tests.run.set tickStatusSealed 1

/-- The same, with tenancy 1 assigned. -/
def Tests.two : State := Tests.run.set tenStateAssigned 1 1

/-- Block (0, 0) about to issue the bundle of these four slot words. -/
def Tests.bundle (c m v w : Nat) : State :=
  { State.reset.store (blockBase 0 0 + 0xE00000) (leBytes 4 c ++ leBytes 4 m ++ leBytes 4 v ++ leBytes 4 w) with
    seqs := [(0, { st := .run })] }

/-- Conductor context 0 about to issue this word, its windows one unit each. -/
def Tests.inst (w : Nat) : State :=
  { (State.reset.store 0x01A000000000 (leBytes 8 w)).setReg cndMem 0 0 0x01000100 with
    seqs := [(48, { st := .run })] }

/-! ## Well-formedness: each check refuses an ill-formed term -/

/-- A packet has at least a block and at most 1,034. -/
theorem Tests.test_wf_packet :
    (Instr.ingestPacket 0 ⟨List.replicate 1034 ⟨1, 0⟩⟩).wf = true ∧ (Instr.ingestPacket 0 ⟨[]⟩).wf = false ∧
    (Instr.ingestPacket 0 ⟨List.replicate 1035 ⟨1, 0⟩⟩).wf = false := by decide +kernel

/-- Offsets of registers lie on 32-bit boundaries. -/
theorem Tests.test_wf_offsets :
    (Instr.registerWrite Tests.h0 4 0).wf = true ∧ (Instr.registerWrite Tests.h0 6 0).wf = false ∧
    (Instr.peakRead Tests.h0 5).wf = false := by decide

/-- Table and context writes stay within their spaces and write something. -/
theorem Tests.test_wf_tables :
    (Instr.shadowTableWrite Tests.h0 0 []).wf = false ∧ (Instr.shadowTableWrite Tests.h0 0xFFFFFFFFFFFF [1, 2]).wf = false ∧
    (Instr.flowContextWrite Tests.h0 0 15 [1]).wf = true ∧ (Instr.flowContextWrite Tests.h0 0 15 [1, 2]).wf = false ∧
    (Instr.fineSampleFormed 0 0 0 0 0 [(1, 2), (1, 2)]).wf = false := by decide

/-- Requests move 1 to 4,096 bytes. -/
theorem Tests.test_wf_requests :
    (Instr.fabricRequest 1 0 0 0 0 (.read 0)).wf = false ∧ (Instr.fabricRequest 1 0 0 0 0 (.read 4097)).wf = false ∧
    (Instr.bar2Access 0 0 (.write [])).wf = false ∧ (Instr.bar2Access 0 0 (.read 64)).wf = true := by decide

/-- Training results, received frames, polls and link reports have their sizes. -/
theorem Tests.test_wf_reports :
    (Instr.memtrOpDone ⟨0, []⟩).wf = false ∧ (Instr.memtrOpDone ⟨0, List.replicate 36 (some (9, 3))⟩).wf = false ∧
    (Instr.ethernetRxFrame 0 [1, 2] 0).wf = false ∧ (Instr.thermalPoll [] [1, 2, 3, 4]).wf = false ∧
    (Instr.hostLinkUp 3 1).wf = false ∧ (Instr.hostLinkUp 4 6).wf = false ∧ (Instr.hostLinkUp 8 5).wf = true := by decide

/-! ## Witnesses: the queue and the tick unit -/

theorem Tests.witness_StepRunsFront :
    ({ State.reset with pending := [.sealPoint, .frameTick] } : State).pending = .sealPoint :: [.frameTick] := rfl

theorem Tests.witness_EveryCommandAnswers : State.reset.pending = [] := rfl

/-- Both UP ports have delivered the boundary of frame 5, 100 cycles apart. -/
def Tests.placed : State := { Tests.run with ports := [(0, { bounds := [(5, 42943040)] }), (3, { bounds := [(5, 42943140)] })] }

theorem Tests.witness_TicksArePlaced_1 :
    let s := Tests.placed
    let arr := fun n => if n = 0 then 42943040 else 42943140
    s.on tickCtrlRun = true ∧ s.tick.seen = true ∧ s.on tickStatusCoasting = false ∧
    (∀ n ∈ s.upPorts, s.arrived n s.frame = some (arr n) ∧ 42943040 ≤ arr n ∧ arr n ≤ 42943140) ∧
    (∃ n ∈ s.upPorts, arr n = 42943040) ∧ (∃ n ∈ s.upPorts, arr n = 42943140) ∧ 42943040 ≤ s.coastAt ∧
    42943140 ≤ 42943040 + s.skewMax := by decide +kernel

theorem Tests.witness_TicksArePlaced_inTime : Tests.placed.inTime 42943040 := by
  unfold State.inTime; decide +kernel

/-- RUN has just been set; the boundary of frame 4 has placed the first FT, and port 3 is the later one. -/
def Tests.first : State :=
  { Tests.run with tick := { first := some (4, 700000) }
                   ports := [(0, { bounds := [(4, 700000)] }), (3, { bounds := [(4, 700100)] })] }

theorem Tests.witness_TicksArePlaced_2 :
    let s := Tests.first
    s.on tickCtrlRun = true ∧ s.tick.seen = false ∧ s.tick.first = some (4, 700000) ∧ s.upPorts = [0, 3] ∧
    s.arrived 0 4 = some 700000 ∧ s.arrived 3 4 = some 700100 ∧ 700100 ≤ 700000 + s.skewMax := by decide +kernel

/-- Port 0 has delivered the boundary of frame 5, port 3 has not. -/
def Tests.skewed : State := { Tests.run with ports := [(0, { bounds := [(5, 42943040)] })] }

theorem Tests.witness_ForcedTicksArePlaced_1 :
    let s := Tests.skewed
    s.on tickCtrlRun = true ∧ s.tick.seen = true ∧ s.on tickStatusCoasting = false ∧ 42943040 ≤ s.coastAt ∧
    s.upPorts = [0, 3] ∧ s.arrived 0 s.frame = some 42943040 ∧ s.arrived 3 s.frame = none := by decide +kernel

theorem Tests.witness_ForcedTicksArePlaced_2 :
    (let s := Tests.run
     s.sound = true ∧ s.on tickCtrlRun = true ∧ s.tick.seen = true ∧ (∀ n ∈ s.upPorts, s.arrived n s.frame = none) ∧
     s.tick.held = [] ∧ s.on tickCtrlCoastEn = true) ∧
    (let s := Tests.run.set tickCtrlCoastEn 0
     s.sound = true ∧ s.on tickCtrlRun = true ∧ s.tick.seen = true ∧ s.on tickCtrlCoastEn = false ∧
     s.on tickStatusSealed = false ∧ (∀ n ∈ s.upPorts, s.arrived n s.frame = none ∧ s.on ingPstateDrainPend n = false)) := by
  decide +kernel

theorem Tests.witness_TicksAreShown : Tests.run.sound = true ∧ 2 ^ 34 - 1 < 2 ^ 34 ∧ 255 < 256 := by decide +kernel

theorem Tests.witness_CommitsPend :
    Tests.run.sound = true ∧ Tests.run.reachable Tests.h0 (tickCommit.key 0 0) = true ∧
    Tests.run.admitted Tests.h0 (tickCommit.key 0 0) = true ∧ Tests.h0.fn = 0 ∧
    Tests.run.on tickStatusSealed = false ∧ Tests.sealed.on tickStatusSealed = true ∧ Tests.sealed.sound = true ∧
    Tests.h1.fn ≠ 0 ∧ Tests.two.reachable Tests.h1 (tickCommit.key 0 0) = true ∧
    Tests.two.admitted Tests.h1 (tickCommit.key 0 0) = true := by decide +kernel

theorem Tests.witness_SealPointAndTickUnit :
    (Tests.run.sound = true ∧ Tests.run.power.inReset = false ∧ Tests.run.on tickCtrlRun = true ∧ Tests.run.tick.seen = true ∧
      Tests.run.on tickStatusSealed = false ∧ Tests.run.on tickCtrlCoastEn = true ∧
      ∀ n ∈ Tests.run.upPorts, Tests.run.arrived n Tests.run.frame = none) ∧
    (Tests.placed.sound = true ∧ Tests.placed.upPorts = [0, 3] ∧ Tests.placed.on tickStatusSealed = false ∧
      Tests.placed.arrived 0 Tests.placed.frame = some 42943040 ∧ Tests.placed.arrived 3 Tests.placed.frame = some 42943140) ∧
    (State.reset.sound = true ∧ State.reset.lets Tests.h0 (tickCtrl.key 0 0) ∧ State.reset.on tickCtrlRun = false ∧
      State.reset.tick.held = [] ∧ (∀ n ∈ State.reset.upPorts, State.reset.on ingPstateDrainPend n = false)) ∧
    (Tests.run.lets Tests.h0 (tickCtrl.key 0 0) ∧ Tests.run.tick.held = [] ∧
      bits (0x120#32).toNat 5 4 = Tests.run.get tickCtrlLSel ∧ bits (0x110#32).toNat 5 4 ≠ Tests.run.get tickCtrlLSel) ∧
    (State.reset.lets Tests.h0 (tenReserve.key 0 0) ∧
      State.reset.reserved tenReserveEgr 0 (bits (0x04020010#32).toNat 25 15) ≤ 1024 ∧
      State.reset.reserved tenReserveDram 0 (bits (0x04020010#32).toNat 7 0) ≤ 128 ∧
      bits (0x04020010#32).toNat 31 26 ≤ bits (0x04020010#32).toNat 25 15 ∧
      bits (0x08008010#32).toNat 25 15 < bits (0x08008010#32).toNat 31 26) := by decide +kernel

/-! ## Witnesses: registers -/

theorem Tests.witness_FieldsFollowTheirCodes : tbPair ∈ allRegs ∧ 2 ^ 32 - 1 < 2 ^ tbPair.width :=
  ⟨List.mem_of_getElem? (i := 33) rfl, by decide⟩

theorem Tests.witness_RegisterWrites :
    (State.reset.sound = true ∧ Tests.h0.path ≠ .config ∧ beyondBar Tests.h0 (0x200014#32).toNat = false ∧
      (findReg (State.reset.regKey Tests.h0 (0x200014#32).toNat)).map (fun h => (h.reg.base, h.i, h.j, h.high)) =
        some (tbPair.base, 0, 0, false) ∧
      State.reset.regKey Tests.h0 (0x200014#32).toNat = tbPair.key 0 0 ∧ tbPair.width = 32 ∧
      (∀ e ∈ writers, e.1.base ≠ tbPair.base) ∧ State.reset.unanswered (tbPair.key 0 0) = false ∧
      State.reset.reachable Tests.h0 (tbPair.key 0 0) = true ∧ State.reset.admitted Tests.h0 (tbPair.key 0 0) = true ∧
      State.reset.mayWriteReg Tests.h0 ⟨tbPair, 0, 0, false⟩ = true) ∧
    (Tests.h1.path ≠ .config ∧ beyondBar Tests.h1 (0x200014#32).toNat = false ∧
      State.reset.regKey Tests.h1 (0x200014#32).toNat = tbPair.key 0 0 ∧
      State.reset.reachable Tests.h1 (tbPair.key 0 0) = true ∧ State.reset.admitted Tests.h1 (tbPair.key 0 0) = false ∧
      Tests.two.admitted Tests.h1 (tbPair.key 0 0) = true ∧ Tests.two.reachable Tests.h1 (tbPair.key 0 0) = true ∧
      Tests.two.mayWriteReg Tests.h1 ⟨tbPair, 0, 0, false⟩ = false) ∧
    beyondBar Tests.h0 (0x4000000#32).toNat = true := by decide +kernel

/-- A transmit stamp, a note of each priority, the second of them being opened. -/
def Tests.notes : State :=
  { State.reset with
    egress := [(1, { stamps := [⟨5, 6, 7⟩, ⟨8, 9, 10⟩] })],
    notes := [(0, { notes := [⟨1, 3, [1]⟩, ⟨2, 3, [2, 3]⟩] })] }

theorem Tests.witness_ReadsThatTake :
    (State.reset.sound = true ∧ beyondBar Tests.h0 (BitVec.ofNat 32 (mvPeak.key 15 0)).toNat = false ∧
      State.reset.regKey Tests.h0 (BitVec.ofNat 32 (mvPeak.key 15 0)).toNat = mvPeak.key 15 0 ∧
      State.reset.reads Tests.h0 (mvPeak.key 15 0) ∧ State.reset.reg mvPeak 15 0 < 2 ^ 32) ∧
    (Tests.notes.sound = true ∧ Tests.notes.reads Tests.h0 (egrpTsqHi.key 1 0) ∧
      (Tests.notes.egr 1).stamps = ⟨5, 6, 7⟩ :: [⟨8, 9, 10⟩]) ∧
    Tests.notes.reads Tests.h0 (todSec.key 0 0) ∧
    (Tests.notes.reads Tests.h0 (noteNext.key 0 0) ∧ Tests.h0.fn = 0 ∧ (Tests.notes.noteQ 0).opened = none ∧
      (Tests.notes.noteQ 0).notes = [⟨1, 3, [1]⟩] ++ ⟨2, 3, [2, 3]⟩ :: [] ∧ ∀ y ∈ [(⟨1, 3, [1]⟩ : Note)], y.pri < 2) ∧
    (let s := { Tests.notes with notes := [(0, { opened := some (⟨2, 3, [2, 3]⟩, 1) })] }
     s.reads Tests.h0 (noteWord.key 0 0) ∧ (s.noteQ 0).opened = some (⟨2, 3, [2, 3]⟩, 1)) := by decide +kernel

/-! ## Witnesses: ingest -/

/-- Function 0 has enabled port 7, which is in state `v`; its partner is present. -/
def Tests.port (v : Nat) : State :=
  (((State.reset.set ingCtrlEnable 1 7).set ingPstateState v 7).set ingPstatePrsnt 1 7).set ingCtrlMarkerless 0 7

theorem Tests.witness_PortStatesMove :
    (∀ v < 6, (Tests.port v).sound = true ∧ (Tests.port v).ordered = true ∧ (Tests.port v).power.inReset = false ∧
      (Tests.port v).pstate 7 = v ∧ (Tests.port v).on ingCtrlEnable 7 = true ∧ (Tests.port v).on ingCtrlTest 7 = false ∧
      (Tests.port v).on ingPstatePrsnt 7 = true ∧
      (Tests.port v).on ingCtrlMarkerless 7 = false ∧ (Tests.port v).get ingLanestatAmlock 7 ≠ 255) ∧
    (let s := (Tests.port 2).set ingLanestatBlocklock 0x7F 7
     s.sound = true ∧ s.ordered = true ∧ s.pstate 7 = 2 ∧ setBits (s.get ingLanestatBlocklock 7) 7 7 1 = 255) ∧
    (let s := (Tests.port 5).set ingCtrlEnable 0 7
     s.sound = true ∧ s.ordered = true ∧ s.pstate 7 = 5 ∧ s.on ingCtrlEnable 7 = false) := by decide +kernel

theorem Tests.witness_DrainsAndRejoins :
    (let s := { ((Tests.port 4).set ingCtrlBtnEn 1 7).set tickCtrlRun 1 with tick := { seen := true, ftCycle := 1 } }
     s.sound = true ∧ s.lets Tests.h0 (ingCmd.key 7 0) ∧ s.on ingCtrlBtnEn 7 = true ∧ s.pstate 7 = 4 ∧
     s.on ingPstateDrainPend 7 = false ∧ s.ticking = true) ∧
    (∀ v ∈ [1, 2, 3, 4, 5], let s := (Tests.port v).set ingCtrlBtnEn 1 7
     s.sound = true ∧ s.ordered = true ∧ s.lets Tests.h0 (ingCmd.key 7 0) ∧ s.on ingCtrlEnable 7 = true ∧
     s.on ingCtrlTest 7 = false ∧ s.on ingCtrlBtnEn 7 = true ∧ s.on ingPstateDrainPend 7 = false ∧ s.pstate 7 = v ∧
     s.on ingPstatePrsnt 7 = true ∧ s.ticking = false) ∧
    (Tests.port 0).pstate 7 = 0 := by decide +kernel

/-- A header for PORTID 7, group 3, stream 15, with the highest COUNTER. -/
def Tests.header : List Byte :=
  [0xB6, 0xF2, 1, 7, 3, 15, 0, 0, 0xFF, 0xFF, 0xFF, 0xFF, 0xFF, 0x80, 0x12, 0x34, 1, 2, 3, 4] ++ List.replicate 44 0

/-- Blocks as a transmitter scrambles them (R47). -/
def Tests.scramble (line : BitVec 58) (l : List (BitVec 2 × BitVec 64)) : List Block :=
  match l with
  | [] => []
  | d :: r =>
    let pass := fun (x : BitVec 64) => d.2 ^^^ ((x ++ line) >>> 19).setWidth 64 ^^^ (x ++ line).setWidth 64
    let x := pass (pass 0)
    ⟨d.1, x⟩ :: Tests.scramble ((x ++ line) >>> 64 |>.setWidth 58) r

/-- A packet with a header and a payload of zeros, its CRC 0. -/
def Tests.packet (h : List Byte) : Packet :=
  ⟨Tests.scramble 0 ([(2#2, 0x3C#64)]
    ++ ((List.range 8).map fun i => (1#2, BitVec.ofNat 64 (leVal (slice h (8 * i) 8))))
    ++ List.replicate 1024 (1#2, 0#64) ++ [(2#2, 0xC3#64)])⟩

/-- The packet keeps the framing, and its header arrives as it was sent (R55, R62). -/
theorem Tests.witness_PacketsAccepted_framed :
    let s := Tests.port 3
    (deframe (s.descrambled 7 (Tests.packet Tests.header).blocks).1).map (fun x => (x.1, x.2.2)) = some (Tests.header, 0) ∧
    deframe (s.descrambled 7 ((Tests.packet Tests.header).blocks.take 1033)).1 = none := by decide +kernel

theorem Tests.witness_PacketsAccepted :
    (∀ v ∈ [3, 4], (Tests.port v).sound = true ∧ (Tests.port v).ordered = true ∧ (Tests.port v).power.inReset = false ∧
      (Tests.port v).pstate 7 = v ∧ (Tests.port v).nearLoop 7 = false) ∧
    (Tests.port 3).headerOk 7 (parseHeader (List.replicate 64 0)) = false ∧
    (Tests.port 3).headerOk 7 (parseHeader Tests.header) = true ∧
    ((Tests.port 3).stream (streamKey 7 (parseHeader Tests.header).group (parseHeader Tests.header).chan)).expected = none ∧
    (Tests.port 3).timely (parseHeader Tests.header).counter = true ∧
    (let s := { Tests.port 3 with streams := [(streamKey 7 3 15, { expected := some 128 })] }
     s.sound = true ∧ s.ordered = true ∧ (s.stream (streamKey 7 3 15)).expected = some 128 ∧
     ahead48 (parseHeader Tests.header).counter 128 < 0) ∧
    (∀ k < 4, (Tests.port 3).marks.at (chainPlace k / 8) none = none) ∧
    (((Tests.port 0).set ingCtrlTest 1 7).set ingCtrlLoop 1 7).nearLoop 7 = true := by decide +kernel

theorem Tests.witness_PortsAndLanesReport :
    (∀ v ∈ [3, 4], (Tests.port v).sound = true ∧ (Tests.port v).ordered = true ∧ (Tests.port v).pstate 7 = v ∧
      (Tests.port v).on ingCtrlMarkerless 7 = false ∧ (Tests.port v).nearLoop 7 = false) ∧
    (let l := ((Tests.port 3).descrambled 7 [⟨2, 0x4B⟩]).1
     (l.all fun y => y.1 = 2#2 && !(isControl 0x1E y || isControl 0x3C y || isControl 0xC3 y)) = true) ∧
    (let l := ((Tests.port 3).descrambled 7 [⟨2, 0x1E⟩]).1
     (l.all fun y => y.1 = 2#2 && !(isControl 0x1E y || isControl 0x3C y || isControl 0xC3 y)) = false) ∧
    (let s := { (Tests.port 3).set ingLanestatAmlock 0x7F 7 with ports := [(7, { lates := [(0, 64)] })] }
     s.sound = true ∧ s.ordered = true ∧ s.pstate 7 = 3) ∧
    (Tests.port 2).pstate 7 = 2 ∧
    (let s := (Tests.port 3).set ingCtrlMarkerless 1 7
     s.sound = true ∧ s.on ingCtrlMarkerless 7 = true ∧ s.lets Tests.h0 (ingCmd.key 7 0) ∧ s.pstate 7 = 3) ∧
    (let s := ((Tests.port 0).set ingPrbsChk 0x80 7).set ingCtrlTest 1 7
     s.sound = true ∧ s.ordered = true ∧ bit (s.get ingPrbsChk 7) 7 = true ∧ s.on ingCtrlTest 7 = true ∧
     s.get ingCtrlLoop 7 = 0) ∧
    (Tests.port 3).lets Tests.h0 (ingPrbs.key 7 0) ∧
    ((Tests.port 0).pstate 7 = 0 ∧ (Tests.port 0).lets Tests.h0 (ingCtrl.key 7 0) ∧ bit (0x710A#32).toNat 0 = false) ∧
    ((Tests.port 3).lets Tests.h0 (ingCtrl.key 7 0) ∧ (Tests.port 3).pstate 7 ≠ 0 ∧
      bits (0x7103#32).toNat 9 8 ≠ (Tests.port 3).get ingCtrlFmt 7) := by decide +kernel

/-! ## Witnesses: front end, tables, move engines and the frame ring -/

theorem Tests.witness_FrontEndControls :
    (State.reset.sound = true ∧ State.reset.lets Tests.h0 (feCfg.key 0 0) ∧ State.reset.on tickCtrlRun = false ∧
      bits (4#32).toNat 2 0 < 5 ∧ bits (4#32).toNat 2 0 ≠ State.reset.get feCfgPSel ∧ State.reset.get feCfgPSel < 5 ∧
      5 ≤ bits (5#32).toNat 2 0) ∧
    (Tests.run.sound = true ∧ Tests.run.lets Tests.h0 (feCfg.key 0 0) ∧ Tests.run.on tickCtrlRun = true) ∧
    (State.reset.lets Tests.h0 (feCtrl.key 7 0) ∧ State.reset.lets Tests.h0 (feSpike.key 7 0) ∧
      State.reset.lets Tests.h0 (feCmd.key 7 0)) ∧
    farthest true (State.reset.nextSamples 7) = none := by decide +kernel

theorem Tests.witness_ShadowWrites :
    (let a := BitVec.ofNat 48 (blockBase 3 11 + 0xC00000)
     memKind a.toNat = .weights false 3 11 0 ∧ isView a.toNat = true ∧ Tests.sealed.sound = true ∧
     Tests.sealed.reachable Tests.h0 0x1000000 = true ∧ Tests.sealed.tableRefused Tests.h0 a.toNat = false ∧
     Tests.sealed.blocked a.toNat = true ∧ Tests.sealed.reachable Tests.h1 0x1000000 = true ∧
     Tests.sealed.tableRefused Tests.h1 a.toNat = true) ∧
    (let a := BitVec.ofNat 48 (regionBase 3 + 0x80FFFFF)
     memKind a.toNat = .thresholds false 3 3 0x3FFFF ∧ Tests.run.sound = true ∧ Tests.run.ordered = true ∧
     Tests.run.reachable ⟨.bar0, 3⟩ 0x1000000 = true ∧ Tests.run.tableRefused ⟨.bar0, 3⟩ a.toNat = false ∧
     Tests.run.blocked a.toNat = false) ∧
    (let s := { (Tests.run.set blkBeamEn 1 3 11) with filling := false }
     let a := BitVec.ofNat 48 (blockBase 3 11 + 0xC00000)
     s.sound = true ∧ s.ordered = true ∧ s.reachable Tests.h0 0x1000000 = true ∧ 0 < s.weightBytes 3 11 ∧
     s.tableRefused Tests.h0 a.toNat = false ∧ s.blocked a.toNat = false) ∧
    (let s := Tests.run.set feStatusInitDone 1
     let a := 0x018001000000
     s.sound = true ∧ s.ordered = true ∧ s.tableRefused Tests.h0 a = false ∧ s.blocked a = false ∧
     memKind a = .table 0 0x1000000 ∧ (s.tableWord 0 0x1000000).map TableWord.badKey = some (some 8388608)) ∧
    (let s := { State.reset with tick := { held := [⟨Tests.h0, 0x018001000000, [1], []⟩] } }
     let u := s.set feStatusInitDone 1
     s.sound = true ∧ s.power.inReset = false ∧ s.filling = true ∧ u.blocked 0x018001000000 = false) ∧
    (let s := { State.reset with tick := { held := [⟨Tests.h0, blockBase 3 11 + 0xC00000, [1], []⟩] } }
     ∀ h ∈ s.tick.held, (s.set feStatusInitDone 1).blocked h.addr = true) ∧
    ((inBanks (blockBase 3 11 + 0x100000)).isSome = true ∧ inBanks 0 = none) := by decide +kernel

theorem Tests.witness_FineSamplesFormAndWait :
    (Tests.run.fineFrame (6#34).toNat = true ∧ (0#13).toNat < Tests.run.lenL ∧
      (0#13).toNat = Tests.run.nextFine (streamKey 3 3 15) (6#34).toNat ∧ Tests.run.sound = true ∧
      Tests.run.on feCfgCoefSrc = false ∧ Tests.run.marks = [] ∧
      (let s := { Tests.run with
                  ports := [(3, { useFrom := some 0 })], streams := [(streamKey 3 3 15, { zNext := 2000000 })] }
       s.windowIn 3 3 15 (6#34).toNat (0#13).toNat = true ∧ s.fineInFlow 3 (6#34).toNat = true ∧ s.tick.seen = true ∧
       (6#34).toNat = s.nextFrame s.frame ∧ (6#34).toNat ≠ s.frame ∧ s.nextFrame (6#34).toNat ≠ s.frame ∧
       bit s.released.toNat 3 = false ∧ (s.hold.at 3 []).length < s.holdMax)) ∧
    (Tests.run.windowIn 3 3 15 (5#34).toNat (0#13).toNat = true ∧ Tests.run.fineFrame (5#34).toNat = true ∧
      Tests.run.fineInFlow 3 (5#34).toNat = false) ∧
    (Tests.sealed.on tickStatusSealed = true ∧ bit Tests.sealed.released.toNat 7 = false ∧
      Tests.sealed.ordered = true) := by decide +kernel

/-- Every controller READY, the first `n` words of the DRAM written and clean. -/
def Tests.dram (n : Nat) : State :=
  { State.reset with
    regs := (List.range 128).map fun p => (mcStat.key p 0, 2)
    marks := (List.range n).map fun w => (w, some .clean) }

/-- Engine 15 with the ring of tenancy 0 enabled, its next descriptor at address 0 with these bytes 56 to 63. -/
def Tests.ring (own : Byte) : State :=
  { ((Tests.dram 64).set mvRingCfgEnable 1 15).set mvRingCfgSize 1 15 with
    mem := if own = 0 then [] else [⟨63, own⟩]
    engines := [(15, { waiting := [.ring] })] }

/-- A job of engine 15 whose completion code is settled. -/
def Tests.job : Job := ⟨.ring, 64, [], 0, 0, some 4, false, none, 0, 0, 0, false, 0, false, 0, none⟩

/-- A descriptor of one element of 64 bytes from address 256 to address 512. -/
def Tests.desc : List Byte :=
  [0, 1, 0, 0, 0, 0, 0, 0, 0, 2, 0, 0, 0, 0, 64, 0, 0, 0, 1, 0, 1, 0, 1, 0] ++ List.replicate 40 0

theorem Tests.witness_RingRegisters :
    (let s := Tests.ring 0x80
     s.sound = true ∧ s.ordered = true ∧ s.reachable Tests.h0 (mvTail.key 15 0) = true ∧
     s.admitted Tests.h0 (mvTail.key 15 0) = true ∧ Tests.h0.fn.val = s.get mvRingCfgTen 15 ∧ s.on mvRingCfgEnable 15 = true ∧
     s.lets Tests.h0 (mvRingCfg.key 15 0) ∧ (s.engine 15).jobs = []) ∧
    (let s := { Tests.ring 0x80 with engines := [(15, { jobs := [Tests.job] })] }
     s.sound = true ∧ s.lets Tests.h0 (mvRingCfg.key 15 0) ∧ (s.engine 15).jobs ≠ []) := by decide +kernel

theorem Tests.witness_DescriptorsRun_fetch (b : Byte) (hb : b = 0 ∨ b = 0x80) :
    let s := Tests.ring b
    s.sound = true ∧ s.ordered = true ∧ s.power.inReset = false ∧ s.nextSubmission 15 = some .ring ∧
    s.descAddr 15 .ring = 0 ∧ engineReaches 15 0 = true ∧ s.cleanRange 0 64 ∧ s.servedRange 0 64 ∧
    s.fetchHeld 15 0 = false ∧ (parseDesc (s.bytes 0 64)).own = decide (b = 0x80) := by
  rcases hb with rfl | rfl <;> decide +kernel

/-- Engine 15 with a job in progress. -/
def Tests.busy (j : Job) : State := { Tests.ring 0x80 with engines := [(15, { jobs := [j] })] }

theorem Tests.witness_DescriptorsRun_settled :
    let s := Tests.busy Tests.job
    s.sound = true ∧ s.ordered = true ∧ s.power.inReset = false ∧ s.hostCut = false ∧
    (s.engine 15).jobs = Tests.job :: [] ∧ Tests.job.code = some 4 ∧ Tests.job.cut = false ∧ Tests.job.addr % 64 = 0 ∧
    engineReaches 15 Tests.job.addr = true ∧ s.servedRange Tests.job.addr 64 ∧ s.on mvRingCfgNote 15 = false := by
  decide +kernel

/-- The same engine moving 64 bytes. -/
def Tests.moving : Job := { Tests.job with code := none, desc := Tests.desc }

theorem Tests.witness_DescriptorsRun_moving :
    let s := Tests.busy Tests.moving
    let d := parseDesc Tests.desc
    s.sound = true ∧ s.ordered = true ∧ (s.engine 15).jobs = Tests.moving :: [] ∧ d.c0 = 1 ∧ d.c1 = 1 ∧ d.c2 = 1 ∧
    d.smode = 0 ∧ d.dmode = 0 ∧ d.mcast = 0 ∧ d.shuf = 0 ∧ d.elem = 64 ∧ s.jobReady 15 Tests.moving = true ∧
    s.cleanRange d.src d.elem ∧ s.servedRange d.src d.elem ∧ s.servedRange d.dst d.elem ∧ 64 + 64 ≤ d.dst := by
  decide +kernel

theorem Tests.witness_MireRequests :
    (State.reset.sound = true ∧ State.reset.reachable Tests.h0 (mireCmd.key 0 0) = true ∧
      State.reset.admitted Tests.h0 (mireCmd.key 0 0) = true ∧ State.reset.mireAllowed 0 = true ∧
      State.reset.lets Tests.h0 (mireMark.key 0 0) ∧ bit (0x8000000000000005#64).toNat 63 = true ∧
      State.reset.ringSlotOf (bits (0x8000000000000005#64).toNat 33 0) = none) ∧
    (∀ p ∈ [Path.bar0, .conductor], Tests.two.sound = true ∧ Tests.two.reachable ⟨p, 1⟩ (mireCmd.key 0 0) = true ∧
      Tests.two.admitted ⟨p, 1⟩ (mireCmd.key 0 0) = true ∧ Tests.two.mireAllowed 1 = false) ∧
    (let s := (State.reset.set mireDirValid 1 0).set mireDirFrame 5 0
     s.sound = true ∧ s.lets Tests.h0 (mireMark.key 0 0) ∧
     (s.ringSlotOf (bits (0x8000000000000005#64).toNat 33 0)).isSome = true) := by decide +kernel

/-! ## Witnesses: sequencers and the S slot -/

/-- Block (0, 0), or context 0, is about to issue `y` alone, in its S slot, M slot, V slot or C slot. -/
def Tests.blkS (s : State) (y : SInst) : Bool := decide (s.blockHoldsS 0 y)
def Tests.blkM (s : State) (y : MInst) : Bool := decide (s.holdsM 0 y)
def Tests.blkV (s : State) (y : VInst) : Bool := decide (s.holdsV 0 y)
def Tests.blkC (s : State) (y : CInst) : Bool := decide (s.holdsC 0 y)
def Tests.ctxS (s : State) (y : SInst) : Bool := decide (s.atInst 0 y)

/-- The helpers say what the statements' hypotheses say. -/
theorem Tests.helpers_mean (s : State) :
    (∀ y, Tests.blkS s y = true ↔ s.holdsS (.blk 0 0) y) ∧ (∀ y, Tests.blkM s y = true ↔ s.holdsM 0 y) ∧
    (∀ y, Tests.blkV s y = true ↔ s.holdsV 0 y) ∧ (∀ y, Tests.blkC s y = true ↔ s.holdsC 0 y) ∧
    (∀ y, Tests.ctxS s y = true ↔ s.holdsS (.ctx 0) y) := by
  refine ⟨?_, ?_, ?_, ?_, ?_⟩ <;> intro y <;>
    simp only [Tests.blkS, Tests.blkM, Tests.blkV, Tests.blkC, Tests.ctxS, decide_eq_true_eq] <;> exact Iff.rfl

/-- Sequencer `i` in a state. -/
def Tests.seq (i : Nat) (x : SeqState) : State := { State.reset with seqs := [(i, { st := x })] }

theorem Tests.witness_StartsAndStops :
    (∀ x ∈ [SeqState.off, .init, .wait, .run, .ended, .halted, .fault],
      (Tests.seq 47 x).ordered = true ∧ (Tests.seq 47 x).reachable Tests.h0 (blkSeqcmd.key 3 11) = true ∧
      (Tests.seq 47 x).admitted Tests.h0 (blkSeqcmd.key 3 11) = true ∧ ((Tests.seq 47 x).seq 47).st = x ∧
      (Tests.seq 48 x).sound = true ∧ (Tests.seq 48 x).ordered = true ∧
      (Tests.seq 48 x).reachable Tests.h0 (cndCtrl.key 0 0) = true ∧
      (Tests.seq 48 x).admitted Tests.h0 (cndCtrl.key 0 0) = true ∧
      (Tests.seq 48 x).assigned 0 = true ∧ ((Tests.seq 48 x).seq 48).st = x) ∧
    (let s := State.reset.setReg cndMem 1 0 0x01010101
     s.sound = true ∧ s.lets Tests.h0 (cndMem.key 0 0) ∧ (s.seq 48).st = .off ∧
     (∀ u : Fin 4, u ≠ 0 →
       overlaps (bits (0x01000100#32).toNat 23 16) (bits (0x01000100#32).toNat 31 24) (s.get cndMemDbase u) (s.get cndMemDsize u) = false ∧
       overlaps (bits (0x01000100#32).toNat 7 0) (bits (0x01000100#32).toNat 15 8) (s.get cndMemIbase u) (s.get cndMemIsize u) = false) ∧
     overlaps (bits (0x01010100#32).toNat 23 16) (bits (0x01010100#32).toNat 31 24) (s.get cndMemDbase 1) (s.get cndMemDsize 1) = true) ∧
    ((Tests.seq 48 .run).sound = true ∧ (Tests.seq 48 .run).lets Tests.h0 (cndMem.key 0 0) ∧
      ((Tests.seq 48 .run).seq 48).st ≠ .off) := by decide +kernel

theorem Tests.witness_ScalarResults :
    Tests.blkS (Tests.bundle 0 0 0 0x01046001) (.alu .add (.s 1) 3 (.reg 1)) = true ∧
    Tests.blkS (Tests.bundle 0 0 0 0x09140005) (.const .li (.s 5) 5) = true ∧
    Tests.blkS (Tests.bundle 0 0 0 0x0B207005) (.cmp 1 0 3 (.imm 5)) = true ∧
    Tests.blkS (Tests.bundle 0 0 0 0) .nop = true ∧ Tests.blkS (Tests.bundle 0 0 0 0x14000000) .fence = true ∧
    Tests.ctxS (Tests.inst 0x01046001) (.alu .add (.s 1) 3 (.reg 1)) = true ∧
    Tests.ctxS (Tests.inst 0x0B207005) (.cmp 1 0 3 (.imm 5)) = true ∧ Tests.ctxS (Tests.inst 0) .nop = true ∧
    (let s := { Tests.bundle 0 0 0 0x14000000 with
                seqs := [(0, { st := .run, ports := [⟨0, 100, 0, [0]⟩] })] }
     Tests.blkS s .fence = true) := by decide +kernel

/-- An instruction predicated by p1, which is false. -/
theorem Tests.witness_ScalarResults_skipped :
    (Tests.bundle 0 0 0 0x21046001).skipsS (.blk 0 0) (.alu .add (.s 1) 3 (.reg 1)) ∧
    (Tests.inst 0x36000000).skipsS (.ctx 0) .halt := by
  simp only [State.skipsS]; decide +kernel

theorem Tests.witness_ControlFlow :
    (({ st := .run } : Seq).misplaced (.br none 0x123) = false ∧ ({ st := .run } : Seq).misplaced (.loop (.imm 3) 2) = false ∧
      ({ st := .run } : Seq).loopsFull (.loop (.imm 3) 2) = false) ∧
    Tests.blkS (Tests.bundle 0 0 0 0x0C000123) (.br none 0x123) = true ∧
    Tests.blkS (Tests.bundle 0 0 0 0x0D200020) (.brp 1 false 0x20) = true ∧
    Tests.blkS (Tests.bundle 0 0 0 0x0E800182) (.loop (.imm 3) 2) = true ∧
    Tests.blkS (Tests.bundle 0 0 0 0x0E800002) (.loop (.imm 0) 2) = true ∧
    Tests.ctxS (Tests.inst 0x0C00FFFF) (.br none 0xFFFF) = true ∧
    Tests.ctxS (Tests.inst 0x0E800182) (.loop (.imm 3) 2) = true := by decide +kernel

theorem Tests.witness_Waits :
    Tests.blkS (Tests.bundle 0 0 0 0x0F800064) (.waitTick (.imm 100)) = true ∧
    Tests.blkS (Tests.bundle 0 0 0 0x0F800000) (.waitTick (.imm 0)) = true ∧
    Tests.blkS (Tests.bundle 0 0 0 0x1080001F) (.waitEvt 31) = true ∧
    (let s := { Tests.bundle 0 0 0 0x1080001F with seqs := [(0, { st := .run, evt := 0x80000000, stalled := true })] }
     Tests.blkS s (.waitEvt 31) = true ∧ bit (s.seq 0).evt.toNat 31 = true ∧ (s.seq 0).stalled = true) ∧
    (let s := { Tests.bundle 0 0 0 0x0F800064 with seqs := [(0, { st := .run, stalled := true })], cycle := 100 }
     Tests.blkS s (.waitTick (.imm 100)) = true ∧ (s.seq 0).stalled = true) ∧
    (let s := { Tests.bundle 0 0 0 0x0F800004 with seqs := [(0, { st := .run, first := true })] }
     s.sound = true ∧ Tests.blkS s (.waitTick (.imm 4)) = true ∧ (s.seq 0).first = true) := by decide +kernel

theorem Tests.witness_SignalsAndEnds :
    (let s := Tests.bundle 0 0 0 0x1180003F
     s.sound = true ∧ s.power.inReset = false ∧ Tests.blkS s (.sig 63) = true) ∧
    Tests.blkS (Tests.bundle 0 0 0 0x16000000) .halt = true ∧
    (let s := Tests.bundle 0 0 0 0x15000000
     s.ordered = true ∧ Tests.blkS s .frameEnd = true ∧ (s.seq 0).misplaced .frameEnd = false) ∧
    (∀ x ∈ [SeqState.run, .init], let s := { State.reset with seqs := [(47, { st := x, ending := true })] }
     (s.seq 47).st = x ∧ (s.seq 47).ending = true ∧ s.blockQuiet 47 = true) ∧
    (∀ n < 7, Tests.blkS (Tests.bundle 0 0 0 (0x12081000 + n)) (.csrr (.s 2) n) = true ∧ csrReadable (12 * 0 + 0) n = true) ∧
    (let s := Tests.bundle 0 0 0 0x13007006
     s.sound = true ∧ s.ordered = true ∧ Tests.blkS s (.csrw 6 3) = true ∧ s.csrWritable 0 6 = true) ∧
    (let s := Tests.bundle 0 0 0 0x13007406
     s.sound = true ∧ s.ordered = true ∧ Tests.blkS s (.csrw 0x406 3) = true ∧ s.csrWritable 0 0x406 = true ∧
     (ownReg 0 0x406).map (fun h => (h.reg.base, h.i, h.j, h.high)) = some (blkRedoBudget.base, 0, 0, false) ∧
     s.reachable (s.seqWho 0) (blkRedoBudget.key 0 0) = true) := by decide +kernel

theorem Tests.witness_IllegalFaults :
    (let s := Tests.bundle 0 0 0 0x1F000000
     s.sound = true ∧ s.power.inReset = false ∧ s.ordered = true ∧ s.atBundle 0 ∧
     (s.bundleAt 0).c.inst = some .nop ∧ (s.bundleAt 0).m.inst = some .nop ∧ (s.bundleAt 0).v.inst = some .nop ∧
     (s.bundleAt 0).s = ⟨true, none⟩) ∧
    (let s := Tests.inst 0x1F000000
     s.sound = true ∧ s.ordered = true ∧ (s.seq 48).ready = true ∧ (s.seq 48).pc < s.get cndMemIsize 0 * 1024 ∧
     s.cleanRange (s.cndFetch 0) 4 ∧
     decodeSlot (s.seq 48) (leVal (s.bytes (s.cndFetch 0) 4)) (decodeS true) = ⟨true, none⟩) ∧
    (let s := { Tests.bundle 0 0 0 0x0C000123 with seqs := [(0, { st := .run, delay := true })] }
     s.sound = true ∧ s.ordered = true ∧ Tests.blkS s (.br none 0x123) = true ∧ (s.seq 0).misplaced (.br none 0x123) = true) ∧
    (let s := { Tests.bundle 0 0 0 0x0E800182 with
                seqs := [(0, { st := .run, loops := List.replicate 4 ⟨9, 10, 1⟩ })] }
     s.sound = true ∧ s.ordered = true ∧ Tests.blkS s (.loop (.imm 3) 2) = true ∧
     (s.seq 0).misplaced (.loop (.imm 3) 2) = false ∧ (s.seq 0).loopsFull (.loop (.imm 3) 2) = true) ∧
    (let s := Tests.bundle 0 0 0 0x120813FF
     s.sound = true ∧ s.ordered = true ∧ Tests.blkS s (.csrr (.s 2) 0x3FF) = true ∧ csrReadable 0 0x3FF = false) ∧
    (let s := { State.reset with seqs := [(47, { st := .run, pc := 4096 }), (51, { st := .run, pc := 65536 })] }
     s.sound = true ∧ s.ordered = true ∧ (s.seq 47).ready = true ∧ 4096 ≤ (s.seq 47).pc ∧ (s.seq 51).ready = true ∧
     s.get cndMemIsize 3 * 1024 ≤ (s.seq 51).pc) := by decide +kernel

/-! ## Witnesses: the M, V and C slots -/

/-- Block (0, 0), without a cell retired by the factory, about to issue these slot words, its first 128 bytes of SRAM
written. -/
def Tests.loaded (c m v w : Nat) : State :=
  { (Tests.bundle c m v w).store (blockBase 0 0) (List.replicate 128 0) with
    seqs := [(0, { st := .run })], regs := [(blkFused.key 0 0, 0)] }

theorem Tests.witness_BlockMoves_data :
    (let s := Tests.loaded 0 0x01088400 0 0
     s.ordered = true ∧ Tests.blkM s (.ld false 2 4 1 0) = true ∧ (s.seq 0).moves.length + (s.portsOpen (s.seq 0)).length < 16 ∧
     s.progAddr 0 ((s.seq 0).moveAddr 4 0 4) 4 = some (blockBase 0 0) ∧ s.cleanRange (blockBase 0 0) 4 ∧
     s.portsOpen (s.seq 0) = []) ∧
    (let s := Tests.loaded 0 0x01888400 0 0
     s.ordered = true ∧ Tests.blkM s (.ld true 2 4 1 0) = true ∧
     s.progAddr 0 ((s.seq 0).moveAddr 4 0 128) 128 = some (blockBase 0 0) ∧ s.cleanRange (blockBase 0 0) 128) ∧
    (let s := Tests.loaded 0 0x02088400 0 0
     s.sound = true ∧ s.ordered = true ∧ Tests.blkM s (.st false 2 4 1 0) = true ∧
     s.progAddr 0 ((s.seq 0).moveAddr 4 0 4) 4 = some (blockBase 0 0)) ∧
    (let s := Tests.loaded 0 0x02888400 0 0
     s.sound = true ∧ s.ordered = true ∧ Tests.blkM s (.st true 2 4 1 0) = true ∧
     s.progAddr 0 ((s.seq 0).moveAddr 4 0 128) 128 = some (blockBase 0 0)) := by decide +kernel

theorem Tests.witness_BlockMoves_others :
    (let s := Tests.loaded 0 0x03088000 0 0
     s.ordered = true ∧ Tests.blkM s (.desc 0 1 none 4) = true ∧ ((s.seq 0).sr 4).toNat % 64 = 0 ∧
     ((s.seq 0).sr 4).toNat < 0x200000) ∧
    Tests.blkM (Tests.loaded 0 0x04000001 0 0) (.waitb 1) = true ∧
    (let s := { Tests.loaded 0 0x05200000 0 0 with seqs := [(0, { st := .run, masks := [(1, 0x80000001)] })] }
     s.ordered = true ∧ Tests.blkM s (.spill 1) = true ∧ (s.placed 0 ((s.seq 0).masks.at 1 0)).length = 2 ∧
     ∀ rc ∈ s.placed 0 ((s.seq 0).masks.at 1 0), (s.cell (32 * 0 + rc.2)).queue.length < 4) ∧
    (let s := { Tests.loaded 0 0x01088400 0 0 with seqs := [(0, { st := .run, moves := List.replicate 16 1 })] }
     Tests.blkM s (.ld false 2 4 1 0) = true ∧ 16 ≤ (s.seq 0).moves.length + (s.portsOpen (s.seq 0)).length) ∧
    (let s := { Tests.loaded 0 0x01088400 0 0 with seqs := [(0, { st := .run, s := [(4, 1)] })] }
     s.sound = true ∧ s.ordered = true ∧ Tests.blkM s (.ld false 2 4 1 0) = true ∧
     s.progAddr 0 ((s.seq 0).moveAddr 4 0 4) 4 = none) ∧
    (let s := { Tests.loaded 0 0x03088000 0 0 with seqs := [(0, { st := .run, s := [(4, 1)] })] }
     s.ordered = true ∧ Tests.blkM s (.desc 0 1 none 4) = true ∧ ((s.seq 0).sr 4).toNat % 64 ≠ 0) ∧
    (let s := { Tests.loaded 0 0x01088400 0 0 with seqs := [(0, { st := .run, s := [(4, 128)] })] }
     s.ordered = true ∧ Tests.blkM s (.ld false 2 4 1 0) = true ∧
     s.progAddr 0 ((s.seq 0).moveAddr 4 0 4) 4 = some (blockBase 0 0 + 128) ∧ s.badRange (blockBase 0 0 + 128) 4 = true) := by
  decide +kernel

/-- The words of R212 with VD 1, VA 2 and VB 3: every arithmetic instruction is held alone. -/
theorem Tests.witness_VectorResults :
    (∀ o ∈ [(0x01123000, Op.vadd, 0), (0x02123000, .vsub, 0), (0x03123000, .vmul, 0), (0x04123000, .vmac, 0),
        (0x05123008, .vmovs, 8), (0x06123020, .vrndc, 32), (0x07123005, .vcmp, 5), (0x08123000, .vsel, 0),
        (0x09123010, .vpack, 16), (0x0A123001, .vmaxi, 1), (0x0B123001, .vmini, 1), (0x0C123001, .vrowmax, 1),
        (0x0D123000, .vrowsum, 0)],
      Tests.blkV (Tests.loaded 0 0 o.1 0) (.op o.2.1 1 2 3 false 0 o.2.2) = true) ∧
    (({} : Seq).v.at 2 {}).lanes.length = 32 := by decide +kernel

/-- Block (0, 0) about to issue a C-slot word on cells 0 and 1; sequencer register 5 says one frame less 16 samples; the
first 64 bytes of its SRAM are a record with 256 samples to an integration. -/
def Tests.cells (c : Nat) : State :=
  { (Tests.bundle c 0 0 0).store (blockBase 0 0) (List.replicate 14 0 ++ [0, 1] ++ List.replicate 48 0) with
    regs := [(blkFused.key 0 0, 0), (blkBeam.key 0 0, 0x1F00)],
    seqs := [(0, { st := .run, s := [(5, 0x00FF0000)], masks := [(1, 3)], seen := [(1, 3)] })] }

/-- Everything but the instruction itself that CellOperationsQueue asks for. -/
def Tests.cellOk (c : Nat) (x : CInst) : Bool :=
  let s := Tests.cells c
  Tests.blkC s x && s.ordered && decide (s.cellFault? 0 (s.seq 0) x = none) &&
    !s.cellStalls 0 (s.seq 0) x && decide (x.mask (s.seq 0) ≠ 0) && decide (s.cleanRange (blockBase 0 0) 64) &&
    decide (s.servedRange (blockBase 0 0) 64) && decide ((s.seq 0).sr 4 = 0) && decide (s.portsOpen (s.seq 0) = [])

theorem Tests.witness_CellOperationsQueue :
    Tests.cellOk 0x01203280 (.start 1 false false 0 3 5) = true ∧ Tests.cellOk 0x08203280 (.beam 1 3 5) = true ∧
    Tests.cellOk 0x02203200 (.preload 1 .zero 3 4) = true ∧ Tests.cellOk 0x02283200 (.preload 1 .run 3 4) = true ∧
    Tests.cellOk 0x02303200 (.preload 1 .abs 3 4) = true ∧ Tests.cellOk 0x03203200 (.dump 1 false 3 4) = true ∧
    Tests.cellOk 0x03303200 (.dump 1 true 3 4) = true ∧ Tests.cellOk 0x04201800 (.save 1 false 0 3) = true ∧
    Tests.cellOk 0x05201800 (.restore 1 0 3) = true ∧ Tests.cellOk 0x06200000 (.clear 1 false) = true := by decide +kernel

theorem Tests.witness_CellOperationsQueue_others :
    Tests.blkC (Tests.cells 0x07200000) (.wait 1) = true ∧
    (let s := Tests.cells 0x09203000
     Tests.blkC s (.spare 1 3) = true ∧ s.sound = true ∧ s.cellStalls 0 (s.seq 0) (.spare 1 3) = false) ∧
    (let s := { Tests.cells 0x01203280 with
                seqs := [(0, { st := .run, s := [(5, 0x0FFF0002)], masks := [(1, 3)], seen := [(1, 3)] })] }
     Tests.blkC s (.start 1 false false 0 3 5) = true ∧ s.sound = true ∧
     s.cellStalls 0 (s.seq 0) (.start 1 false false 0 3 5) = false ∧ (maskCells ((s.seq 0).seen.at 1 0)).length = 2 ∧
     (s.issued 0).cellFault? 0 (s.seq 0) (.start 1 false false 0 3 5) = some .illegal ∧
     s.lenL < rangeT ((s.seq 0).sr 5) + rangeN ((s.seq 0).sr 5)) ∧
    (let s := { Tests.cells 0x06200000 with cells := [(1, some { queue := List.replicate 4 (.clear true) })] }
     Tests.blkC s (.clear 1 false) = true ∧ s.cellStalls 0 (s.seq 0) (.clear 1 false) = true) := by decide +kernel

/-! ## Witnesses: cells -/

/-- A record of a store at the start of the DRAM: values, then counts at 0x800, then flags at 0xA00. -/
def Tests.record : Record := ⟨0, 0, 0, 0, 0, 0, 0x800, 256, 0xA00, 0, 0, 0, [none, none, none, none]⟩

/-- The last cell with these operations in its queue. -/
def Tests.cell (l : List CellOp) : State := { State.reset with cells := [(1535, some { queue := l })] }

theorem Tests.witness_CellRunsAndMasks_placed :
    (∀ c < 32, ({ State.reset with regs := [(blkFused.key 0 0, 0)] } : State).cellRetired 0 c = false) ∧
    (∀ c < 32, ∀ d < 32, c ≠ d → State.reset.stand.at c 0 ≠ 0 → State.reset.stand.at c 0 ≠ State.reset.stand.at d 0) ∧
    (let s := { State.reset with
                regs := [(blkFused.key 0 0, 1), (blkSpare.key 0 0, 0x80000000)] }
     maskCells 1 = [0] ∧ s.cellRetired 0 0 = true ∧ s.standIn 0 0 = none ∧
     (s.idleSpares 0).filter (fun x => x ≠ 0) = [31]) := by decide +kernel

theorem Tests.witness_CellRunsAndMasks_waits :
    (State.reset.cell 1535).queue = [] ∧ ((Tests.cell [.dump false 0 0 0 Tests.record]).cell 1535).queue.length = 1 ∧
    (let s := { State.reset with cells := [(1535, some {
                  queue := [.start true .x 0 0 0 1 0 0], run := some ⟨.start true .x 0 0 0 1 0 0, 0, 0⟩ })] }
     (s.cell (384 * (3 : Fin 4) + 32 * (11 : Fin 12) + (31 : Fin 32))).queue = .start true .x 0 0 0 1 0 0 :: [] ∧
     (CellOp.start true .x 0 0 0 1 0 0).waits = true ∧ (s.cell 1535).run.isSome = true) := by decide +kernel

theorem Tests.witness_CellRunsAndMasks_ops :
    (∀ o ∈ [CellOp.clear true, .clear false, .preload .zero 0 0 0 none, .start true .x 1 8447 1023 4096 0 0,
        .start false .x 1 8447 1023 4096 0 0, .beam 0 1 0 0 16 0, .save true (blockBase 3 11), .restore (blockBase 3 11),
        .spill true],
      (Tests.cell [o]).sound = true ∧ (Tests.cell [o]).ordered = true ∧ ((Tests.cell [o]).cell 1535).queue = o :: [] ∧
      ((Tests.cell [o]).cell 1535).run = none ∧ (((Tests.cell [o]).cell 1535).get true).mode ≠ .x2 ∧
      (((Tests.cell [o]).cell 1535).get true).mismatches = [] ∧ ((Tests.cell [o]).seq 47).ports = []) ∧
    (let s := { State.reset with cells := [(1535, some {
                  queue := [.start true .x2 0 0 0 256 0 0], fill1 := some (.preload .zero 0 0 0 none) })] }
     s.sound = true ∧ s.ordered = true ∧ ((s.cell 1535).get true).mode ≠ .x2 ∧ (s.cell 1535).active = false ∧
     (s.cell 1535).ran1 = []) ∧
    (let s := { State.reset with cells := [(1535, some { queue := [.clear false], set1 := { mode := .x2 } })] }
     s.sound = true ∧ s.ordered = true ∧ ((s.cell 1535).get ((s.cell 1535).named false)).mode = .x2) := by decide +kernel

/-- The words of a range, written and clean. -/
def Tests.clean (s : State) (a n : Nat) : State :=
  { s with marks := (List.range (n / 8)).map fun w => (a / 8 + w, some .clean) }

/-- A long range, its service checked 64 bytes at a time. -/
theorem Tests.readable_of (s : State) (a n : Nat) (c : s.cleanRange a n)
    (h : ∀ i < 64, ∀ j < 64, 64 * i + j < n →
      plainMem (a + (64 * i + j)) = true ∧ s.service (a + (64 * i + j)) = .served) (hn : n ≤ 4096) : s.readable a n := by
  refine ⟨c, fun k hk => ?_⟩
  have := h (k / 64) (by omega) (k % 64) (by omega)
  rw [Nat.div_add_mod] at this
  exact this hk

theorem Tests.host_kind (a : Nat) (h : 0x800000000000 ≤ a) (h' : a < 0x1000000000000) : memKind a = .host := by
  have : dramEnd ≤ 0x800000000000 := by decide
  rw [memKind, if_neg (by omega), if_neg (by omega), if_neg (by omega), if_neg (by omega), if_neg (by omega),
    if_neg (by omega), if_neg (by omega), if_neg (by omega), if_pos ⟨h, h'⟩]

/-- Host memory is readable after reset. -/
theorem Tests.host_readable (a n : Nat) (h : 0x800000000000 ≤ a) (h' : a + n ≤ 0x1000000000000) :
    State.reset.readable a n := by
  constructor
  · intro w hw
    have hb : 0x800000000000 ≤ 8 * w.1 ∧ 8 * w.1 < 0x1000000000000 := by
      unfold touched at hw
      split at hw
      · cases hw
      · simp only [List.mem_map, List.mem_range] at hw
        obtain ⟨i, hi, rfl⟩ := hw
        simp only
        omega
    have hm : Sparse.at State.reset.marks (8 * w.1 / 8) none = none := rfl
    simp only [State.mark, hm, Tests.host_kind _ hb.1 hb.2]
  · intro k hk
    have hc : State.reset.hostCut = false := by decide +kernel
    simp only [plainMem, State.service, Tests.host_kind (a + k) (by omega) (by omega), hc]
    simp

theorem Tests.witness_CellRunsAndMasks_image :
    State.reset.readable 0x800000000000 2944 ∧ (State.reset.seq (12 * 3 + 11)).ports = [] :=
  ⟨Tests.host_readable _ _ (by decide) (by decide), rfl⟩

/-- `Tests.record` in host memory. -/
def Tests.hostRecord : Record :=
  ⟨0x800000000000, 0, 0, 0, 0, 0, 0x800000000800, 256, 0x800000000A00, 0, 0, 0, [none, none, none, none]⟩

theorem Tests.witness_CellRunsAndMasks_preload :
    let s := State.reset
    s.readable (Tests.hostRecord.vBase + 2048 * 0) 2048 ∧ s.readable (flagAddr Tests.hostRecord 0 0) 4 ∧
    ∀ p ∈ keptPositions Tests.hostRecord.shape 0, s.readable (valueAddr Tests.hostRecord 0 (posIndex 0 p)) 8 ∧
      s.readable (countAddr Tests.hostRecord 0 (posIndex 0 p)) 2 := by
  have h : ∀ p ∈ keptPositions Tests.hostRecord.shape 0,
      0x800000000000 ≤ valueAddr Tests.hostRecord 0 (posIndex 0 p) ∧
      valueAddr Tests.hostRecord 0 (posIndex 0 p) + 8 ≤ 0x1000000000000 ∧
      0x800000000000 ≤ countAddr Tests.hostRecord 0 (posIndex 0 p) ∧
      countAddr Tests.hostRecord 0 (posIndex 0 p) + 2 ≤ 0x1000000000000 := by decide +kernel
  exact ⟨Tests.host_readable _ _ (by decide) (by decide), Tests.host_readable _ _ (by decide +kernel) (by decide +kernel),
    fun p hp => ⟨Tests.host_readable _ _ (h p hp).1 (h p hp).2.1, Tests.host_readable _ _ (h p hp).2.2.1 (h p hp).2.2.2⟩⟩

/-- The last cell in X2, its slot written. -/
def Tests.slotted : State :=
  let s := { State.reset with cells := [(1535, some { set0 := { mode := .x2 }, queue := [.spill false] })] }
  Tests.clean s (s.slotAddr 1535 false) 3392

theorem Tests.witness_CellRunsAndMasks_spill :
    Tests.slotted.sound = true ∧ Tests.slotted.ordered = true ∧ ((Tests.slotted.cell 1535).get false).mode = .x2 ∧
    ((Tests.slotted.cell 1535).get false).mismatches = [] := by decide +kernel

theorem Tests.witness_CellRunsAndMasks_slot : Tests.slotted.readable (Tests.slotted.slotAddr 1535 false) 3392 :=
  Tests.readable_of _ _ _ (by decide +kernel) (by decide +kernel) (by decide)


/-! ## Witnesses: samples, runs, dumps and the gate -/

/-- A set in mode X whose first accumulator is about to saturate, and whose last part has. -/
def Tests.set : CellSet := { acc := [(0, 2147483647)], cnt := [(0, 65535)], res := [(0, 3)], sat := [(511, true)] }

theorem Tests.witness_SampleEnters :
    255 < 256 ∧ Tests.set.mode = .x ∧ Sparse.rising Tests.set.acc = true ∧ Sparse.rising Tests.set.cnt = true ∧
    Sparse.rising Tests.set.res = true ∧ Sparse.rising Tests.set.sat = true ∧
    nth (List.replicate 16 (some ((-8 : Int), (7 : Int)))) (255 / 16) none = some (-8, 7) ∧
    nth (none :: List.replicate 15 (some ((-8 : Int), (7 : Int)))) (0 % 16) none = none ∧
    Tests.set.sat.at (2 * 0) false = false ∧ Tests.set.sat.at (2 * 255 + 1) false = true := by decide

/-- Every controller READY, the counts and flags of `Tests.record` written, and the last cell with this dump at the head of its
queue and this standby set. -/
def Tests.dumping (close : Bool) (x : CellSet) : State :=
  { State.reset with
    regs := (List.range 128).map fun p => (mcStat.key p 0, 2)
    marks := (List.range 65).map fun w => (256 + w, some .clean)
    cells := [(1535, some { queue := [.dump close 0 0 0 Tests.record], set1 := x })] }

/-- The last cell with this run under way, the first fine time of buffer 0 of its region written. -/
def Tests.running (x : CellSet) (o : CellOp) (done : Nat) : State :=
  Tests.clean { State.reset with cells := [(1535, some { set0 := x, run := some ⟨o, 0, done⟩ })] } (regionBase 3) 2048

theorem Tests.witness_RunsAndDumps_run :
    let s := Tests.running {} (.start true .x 0 0 0 4096 0 0) 4095
    s.sound = true ∧ s.ordered = true ∧ (s.cell 1535).run = some ⟨.start true .x 0 0 0 4096 0 0, 0, 4095⟩ ∧ 4095 ≤ 4096 ∧
    ((s.cell 1535).get (s.cell 1535).active).mode ≠ .x2 ∧ s.parity = [] := by decide +kernel

theorem Tests.witness_RunsAndDumps_samples :
    let s := Tests.running {} (.start true .x 0 0 0 1 0 0) 0
    s.sound = true ∧ s.ordered = true ∧ s.readable (s.bufAt 3 0 (0 + 0)) ((1 - 0) * s.chipInputs) :=
  ⟨by decide +kernel, by decide +kernel, Tests.readable_of _ _ _ (by decide +kernel) (by decide +kernel) (by decide +kernel)⟩

theorem Tests.witness_RunsAndDumps_beam :
    (let s := Tests.running {} (.beam 0 1 0 0 16 0) 16
     s.ordered = true ∧ (s.cell 1535).run = some ⟨.beam 0 1 0 0 16 0, 0, 16⟩ ∧ 16 ≤ 16) ∧
    (let s := Tests.running {} (.beam 0 1 0 0 16 0) 0
     s.ordered = true ∧ (s.cell 1535).run = some ⟨.beam 0 1 0 0 16 0, 0, 0⟩ ∧ s.on blkBeamEn 3 11 = false) := by decide +kernel

theorem Tests.witness_RunsAndDumps_spill :
    (let s := Tests.running { mode := .x2, phase := 255 } (.start true .x2 0 0 0 256 0 0) 0
     s.sound = true ∧ s.ordered = true ∧ (s.cell 1535).run = some ⟨.start true .x2 0 0 0 256 0 0, 0, 0⟩ ∧
     ((s.cell 1535).get (s.cell 1535).active).mode = .x2 ∧
     0 + (256 - ((s.cell 1535).get (s.cell 1535).active).phase.toNat) = 1 ∧ 1 ≤ 256) ∧
    (let s := Tests.running { mode := .x2 } (.start true .x2 0 0 0 255 0 0) 0
     (s.cell 1535).run = some ⟨.start true .x2 0 0 0 255 0 0, 0, 0⟩ ∧
     255 < 0 + (256 - ((s.cell 1535).get (s.cell 1535).active).phase.toNat)) := by decide +kernel

theorem Tests.witness_RunsAndDumps_dump (close : Bool) :
    let s := Tests.dumping close {}
    let x := (s.cell 1535).get (!(s.cell 1535).active)
    s.sound = true ∧ s.ordered = true ∧ 0 < 8448 ∧ (s.cell 1535).queue = .dump close 0 0 0 Tests.record :: [] ∧
    x.mode ≠ .x2 ∧ x.mismatches = [] ∧ flagAddr Tests.record 0 0 ∉ s.restarts ∧ (keptPositions Tests.record.shape 0).length = 136 ∧
    (∀ p ∈ keptPositions Tests.record.shape 0, ∀ e < 2,
      clampInt (-2147483648) 2147483647 (x.acc.at (2 * p + e) 0) = x.acc.at (2 * p + e) 0) ∧ Tests.record.qlog2 = 0 := by
  cases close <;> decide +kernel

theorem Tests.witness_RunsAndDumps_places (close : Bool) :
    let s := Tests.dumping close {}
    let inDram := fun (a n : Nat) => s.servedRange a n ∧ a + n ≤ dramEnd
    inDram (flagAddr Tests.record 0 0) 4 ∧ s.cleanRange (flagAddr Tests.record 0 0) 4 ∧
    (∀ p ∈ keptPositions Tests.record.shape 0, inDram (valueAddr Tests.record 0 (posIndex 0 p)) 8 ∧
      inDram (countAddr Tests.record 0 (posIndex 0 p)) 2 ∧ s.cleanRange (countAddr Tests.record 0 (posIndex 0 p)) 2) := by
  cases close <;> decide +kernel

theorem Tests.witness_RunsAndDumps_mismatch :
    let s := Tests.dumping false { acc := [(511, 1)] }
    let x := (s.cell 1535).get (!(s.cell 1535).active)
    s.sound = true ∧ s.ordered = true ∧ s.power.inReset = false ∧ (s.cell 1535).queue = .dump false 0 0 0 Tests.record :: [] ∧
    s.dumpServed false 0 0 Tests.record = true ∧ x.mode ≠ .x2 ∧ x.mismatches = [511] ∧
    511 / 2 ∈ keptPositions Tests.record.shape 0 ∧
    s.redoPossible (12 * (3 : Fin 4) + (11 : Fin 12)) Tests.record = false := by decide +kernel

theorem Tests.witness_RunsAndDumps_withheld :
    let s := { Tests.dumping false { acc := [(511, 1)] } with
               regs := ((List.range 128).map fun p => (mcStat.key p 0, 2)) ++
                 [(blkFused.key 3 11, 0), (blkSpare.key 3 11, 0x40000000), (blkRedoBudget.key 3 11, 0xFFFFFFFF)] }
    s.sound = true ∧ s.ordered = true ∧ s.power.inReset = false ∧ s.dumpServed false 0 0 Tests.record = true ∧
    ((s.cell 1535).get (!(s.cell 1535).active)).mismatches = [511] ∧
    s.redoPossible (12 * (3 : Fin 4) + (11 : Fin 12)) Tests.record = true := by decide +kernel

/-- A withheld dump of cell 4 of block (0, 0). -/
def Tests.redo (spare : Option Nat) : Redo := ⟨0, 4, true, spare, .dump true 0 0 0 Tests.record, none, [], {}⟩

theorem Tests.witness_RunsAndDumps_redo :
    (let s := { State.reset with regs := [(blkFused.key 0 0, 0), (blkSpare.key 0 0, 0x80000000)], redos := [Tests.redo none] }
     s.waitingRedos (12 * (0 : Fin 4) + (0 : Fin 12)) = Tests.redo none :: [] ∧
     s.idleSpares (12 * (0 : Fin 4) + (0 : Fin 12)) = 31 :: []) ∧
    (let s := { Tests.dumping true {} with redos := [Tests.redo (some 31)] }
     s.sound = true ∧
     (s.redos.find? fun x => x.blk = 12 * (0 : Fin 4).val + (0 : Fin 12).val && x.spare.isSome) = some (Tests.redo (some 31)) ∧
     s.dumpServed true 0 0 Tests.record = true) := by decide +kernel

/-- The gate enabled with block 47 as its issuer and blocks 0 and 47 as members. -/
def Tests.gate : State :=
  (((State.reset.set gateIssuerEn 1).set gateIssuerRegion 3).set gateIssuerBlock 11).set gateMembersMask 0x800000000001

theorem Tests.witness_GateTurns :
    (Tests.gate.sound = true ∧ Tests.gate.ordered = true ∧ Tests.gate.power.inReset = false ∧ Tests.gate.gateOn = true ∧
      Tests.gate.gateIssuerBlk = 12 * (3 : Fin 4) + (11 : Fin 12) ∧ Tests.gate.get gatePendMask 1 = 0 ∧
      Tests.gate.gateMember (12 * (3 : Fin 4) + (11 : Fin 12)) = true ∧ Tests.gate.gateMember 46 = false ∧
      State.reset.gateOn = false ∧ Tests.gate.gateIssuerBlk ≠ 12 * (3 : Fin 4) + (10 : Fin 12)) ∧
    (let s := Tests.gate.set gatePendMask 1 1
     s.sound = true ∧ s.ordered = true ∧ s.gateOn = true ∧ s.get gatePendMask 1 ≠ 0) ∧
    (let s := { Tests.gate with releases := [⟨47, 1, 0⟩] }
     s.sound = true ∧ s.ordered = true ∧
     (s.releases.find? fun e => e.blk = 12 * (3 : Fin 4).val + (11 : Fin 12).val && e.x = (1 : Fin 2).val) = some ⟨47, 1, 0⟩ ∧
     s.releaseDue ⟨47, 1, 0⟩ = true ∧ bit (s.get gatePendMask 1) 47 = false) ∧
    (let s := { Tests.gate.set gatePendMask 0x800000000000 1 with releases := [⟨47, 1, 0⟩] }
     s.sound = true ∧ s.ordered = true ∧ s.releaseDue ⟨47, 1, 0⟩ = true ∧ bit (s.get gatePendMask 1) 47 = true) ∧
    (let s := { Tests.gate with releases := [⟨47, 0, 1⟩]
                                cells := [(1535, some { run := some ⟨.start true .x 0 0 0 1 0 0, 0, 0⟩ })] }
     s.sound = true ∧ s.ordered = true ∧ s.releaseDue ⟨47, 0, 1⟩ = false) := by decide +kernel


/-! ## Witnesses: the conductor -/

/-- Context 0 about to issue a word, the first bytes of its data window holding `d`, its registers 4 and 5 holding `v` and `v5`. -/
def Tests.data (w v : Nat) (d : List Byte) (v5 : Nat := 0) : State :=
  { ((State.reset.store 0x01A000000000 (leBytes 8 w)).store 0x01A000100000 d).setReg cndMem 0 0 0x01000100 with
    seqs := [(48, { st := .run, s := [(4, BitVec.ofNat 32 v), (5, BitVec.ofNat 32 v5)] })] }

/-- `s` with the first word of the data window of context 0 in error. -/
def Tests.badData (s : State) : State := { s with marks := s.marks.put (0x01A000100000 / 8) (some .poison) none }

theorem Tests.witness_ConductorMemory :
    (let s := Tests.data 0x18088000 0 (List.replicate 32 7)
     Tests.ctxS s (.cndLd 2 4 0) = true ∧
     s.dataAddr 0 ((s.seq 48).dataOff 4 0) 4 4 = some 0x01A000100000 ∧ s.cleanRange 0x01A000100000 4) ∧
    (let s := Tests.data 0x19088000 8188 []
     Tests.ctxS s (.cndSt 2 4 0) = true ∧ s.ordered = true ∧
     s.dataAddr 0 ((s.seq 48).dataOff 4 0) 4 4 = some 0x01A000101FFC ∧ s.wbuf.length < 16) ∧
    (let s := { Tests.data 0x19088000 8188 [] with wbuf := List.replicate 16 ⟨0xD00008000, [(0, some 1)], [1]⟩ }
     Tests.ctxS s (.cndSt 2 4 0) = true ∧ s.ordered = true ∧
     s.dataAddr 0 ((s.seq 48).dataOff 4 0) 4 4 = some 0x01A000101FFC ∧ 16 ≤ s.wbuf.length) ∧
    (let s := Tests.data 0x19088000 0x100000 []
     s.sound = true ∧ s.ordered = true ∧ s.power.inReset = false ∧ Tests.ctxS s (.cndSt 2 4 0) = true ∧
     s.dataAddr 0 ((s.seq 48).dataOff 4 0) 4 4 = none) ∧
    (let s := Tests.data 0x18088000 2 []
     s.sound = true ∧ s.ordered = true ∧ Tests.ctxS s (.cndLd 2 4 0) = true ∧
     s.dataAddr 0 ((s.seq 48).dataOff 4 0) 4 4 = none) ∧
    (let s := Tests.badData (Tests.data 0x18088000 4 (List.replicate 32 7))
     s.sound = true ∧ s.ordered = true ∧ Tests.ctxS s (.cndLd 2 4 0) = true ∧
     s.dataAddr 0 ((s.seq 48).dataOff 4 0) 4 4 = some 0x01A000100004 ∧ s.cndBad 0x01A000100004 4 = true) := by decide +kernel

theorem Tests.witness_ConductorMemory_fence :
    (let s := { Tests.data 0x14000000 0 [] with wbuf := [⟨0xD00008000, [(31, some 1)], [1]⟩] }
     Tests.ctxS s .fence = true ∧ (s.seq 48).ports = [] ∧ (∀ e ∈ s.wbuf, 0 ∉ e.ctxs) ∧ s.sound = true ∧ s.ordered = true) ∧
    (let s := { Tests.data 0x14000000 0 [] with wbuf := [⟨0xD00008000, [(0, some 1)], [1, 0]⟩] }
     Tests.ctxS s .fence = true ∧ (s.seq 48).ports = [] ∧ ∃ e ∈ s.wbuf, 0 ∈ e.ctxs) ∧
    State.reset.wbuf = [] := by decide +kernel

theorem Tests.witness_ConductorRegisters_read :
    (let s := Tests.data 0x12088000 0x200014 []
     let key := s.regKey (s.seqWho 48) ((s.seq 48).sr 4).toNat
     Tests.ctxS s (.cndCsrr 2 4) = true ∧ key = tbPair.key 0 0 ∧ s.unanswered key = false ∧
     s.cndReadable 0 ((s.seq 48).sr 4).toNat = true ∧
     (findReg key).map (fun h => (h.reg.base, h.i, h.j, h.high)) = some (tbPair.base, 0, 0, false) ∧
     (∀ e ∈ readers, e.1.base ≠ tbPair.base) ∧ key < 0x300000 ∧ hiddenFrom 0 key = false) ∧
    (let s := Tests.data 0x12088000 0x200014 []
     ((s.issued 48).readKey (s.seqWho 48) (tbPair.key 0 0)).1.seqs = s.seqs) ∧
    (let s := Tests.data 0x12088000 0x3FFFFC []
     s.sound = true ∧ s.ordered = true ∧ s.power.inReset = false ∧ Tests.ctxS s (.cndCsrr 2 4) = true ∧
     s.cndReadable 0 ((s.seq 48).sr 4).toNat = false) := by decide +kernel

theorem Tests.witness_ConductorRegisters_silent :
    let s := { Tests.data 0x12088000 (pwrState.key 0 0) [] with silent := true }
    let key := s.regKey (s.seqWho 48) ((s.seq 48).sr 4).toNat
    s.sound = true ∧ s.ordered = true ∧ s.power.inReset = false ∧ Tests.ctxS s (.cndCsrr 2 4) = true ∧
    s.cndReadable 0 ((s.seq 48).sr 4).toNat = true ∧ s.unanswered key = true := by decide +kernel

theorem Tests.witness_ConductorRegisters_write :
    (let s := Tests.data 0x1310A000 0x200014 []
     let key := s.regKey (s.seqWho 48) ((s.seq 48).sr 4).toNat
     s.sound = true ∧ Tests.ctxS s (.cndCsrw 4 5) = true ∧ key = tbPair.key 0 0 ∧ tbPair.width = 32 ∧
     (findReg key).map (fun h => (h.reg.base, h.i, h.j, h.high)) = some (tbPair.base, 0, 0, false) ∧
     s.cndWritable 0 ((s.seq 48).sr 4).toNat = true ∧
     (∀ e ∈ writers, e.1.base ≠ tbPair.base) ∧ s.reachable (s.seqWho 48) key = true ∧ s.unanswered key = false) ∧
    (let s := Tests.data 0x1310A000 0x3FFFFC []
     s.sound = true ∧ s.ordered = true ∧ s.power.inReset = false ∧ Tests.ctxS s (.cndCsrw 4 5) = true ∧
     s.cndWritable 0 ((s.seq 48).sr 4).toNat = false) := by decide +kernel

theorem Tests.witness_SysInstructions :
    (let s := Tests.data 0x17000001 0 []
     s.sound = true ∧ Tests.ctxS s (.sys .sysTick 0 0 1) = true ∧ bit 1 0 = true ∧ (s.issued 48).on tickCtrlRun = false) ∧
    Tests.ctxS (Tests.data 0x17080000 0 []) (.sys .sysSeal 0 0 0) = true ∧
    (let s := (Tests.data 0x17080000 0 []).set tickStatusSealed 1
     Tests.ctxS s (.sys .sysSeal 0 0 0) = true ∧ s.on tickStatusSealed = true) ∧
    Tests.ctxS (Tests.data 0x17100004 0 []) (.sys .sysCommit 0 0 4) = true ∧
    (let s := { Tests.sealed with commits := [⟨0, 15, Tests.sealed.cycle + 8⟩] }
     s.sound = true ∧ s.power.inReset = false ∧ s.commits = [⟨0, 15, s.cycle + 8⟩] ∧ s.cycle + 8 ≤ s.cycle + 8) ∧
    (let s := Tests.data 0x17190A00 0 (List.replicate 32 7)
     s.sound = true ∧ s.ordered = true ∧ Tests.ctxS s (.sys .sysFlow 4 5 0) = true ∧
     s.dataAddr 0 ((s.seq 48).sr 4).toNat 16 16 = some 0x01A000100000 ∧ ((s.seq 48).sr 5).toNat < 2 ^ 18 ∧
     s.flowTen ((s.seq 48).sr 5).toNat = 0 ∧ s.cleanRange 0x01A000100000 16) ∧
    Tests.ctxS (Tests.data 0x17200001 0 []) (.sys .sysMire 0 0 1) = true ∧
    (let s := Tests.data 0x17290001 0 (1 :: List.replicate 19 0 ++ [1] ++ List.replicate 11 0)
     s.sound = true ∧ s.power.inReset = false ∧ Tests.ctxS s (.sys .sysTen 4 0 1) = true ∧
     s.dataAddr 0 ((s.seq 48).sr 4).toNat 32 1 = some 0x01A000100000 ∧ s.cleanRange 0x01A000100000 32 ∧
     s.tenRefusal 1 (parseTen (s.cndBytes 0x01A000100000 32)) = 0 ∧ (parseTen (s.cndBytes 0x01A000100000 32)).assign = true) ∧
    (let s := Tests.data 0x1731001F 0x30B []
     s.sound = true ∧ Tests.ctxS s (.sys .sysEvt 4 0 31) = true ∧ bits ((s.seq 48).sr 4).toNat 11 8 = (3 : Fin 4).val ∧
     bits ((s.seq 48).sr 4).toNat 3 0 = (11 : Fin 12).val ∧ s.blockTen (12 * 3 + 11) = 0) := by decide +kernel

theorem Tests.witness_SysInstructions_refused :
    (let s := Tests.data 0x1731001F 0x30C []
     s.sound = true ∧ s.ordered = true ∧ s.power.inReset = false ∧ Tests.ctxS s (.sys .sysEvt 4 0 31) = true ∧
     12 ≤ bits ((s.seq 48).sr 4).toNat 3 0) ∧
    (let s := Tests.data 0x17190A00 0 (List.replicate 32 7) 0x40000
     s.sound = true ∧ s.ordered = true ∧ Tests.ctxS s (.sys .sysFlow 4 5 0) = true ∧
     (s.dataAddr 0 ((s.seq 48).sr 4).toNat 16 16).isSome = true ∧ 2 ^ 18 ≤ ((s.seq 48).sr 5).toNat) ∧
    (let s := Tests.data 0x17190A00 8 []
     s.sound = true ∧ s.ordered = true ∧ Tests.ctxS s (.sys .sysFlow 4 5 0) = true ∧
     s.dataAddr 0 ((s.seq 48).sr 4).toNat 16 16 = none) ∧
    (let s := Tests.badData (Tests.data 0x17290001 0 (List.replicate 32 0))
     s.sound = true ∧ s.ordered = true ∧ Tests.ctxS s (.sys .sysTen 4 0 1) = true ∧
     s.dataAddr 0 ((s.seq 48).sr 4).toNat 32 1 = some 0x01A000100000 ∧ s.cndBad 0x01A000100000 32 = true) ∧
    (let s := (Tests.data 0x17290001 0 (List.replicate 32 0)).setReg tenState 1 1 0
     Tests.ctxS s (.sys .sysTen 4 0 1) = true ∧ s.cleanRange 0x01A000100000 32 ∧
     (parseTen (s.cndBytes 0x01A000100000 32)).assign = false ∧
     s.tenRefusal 1 (parseTen (s.cndBytes 0x01A000100000 32)) = 0) := by decide +kernel


/-! ## Witnesses: beams and watch -/

theorem Tests.witness_BeamRegisters :
    State.reset.sound = true ∧ State.reset.reachable Tests.h0 (beamCfg.key (255#8).toNat 0) = true ∧
    State.reset.admitted Tests.h0 (beamCfg.key (255#8).toNat 0) = true ∧
    State.reset.beamCfgRefused (255#8).toNat
      (writeFields beamCfg.fields (State.reset.reg beamCfg (255#8).toNat 0) (0x20000000#32).toNat) = false ∧
    State.reset.beamCfgRefused (255#8).toNat
      (writeFields beamCfg.fields (State.reset.reg beamCfg (255#8).toNat 0) (0x0003FC00#32).toNat) = true ∧
    State.reset.reachable Tests.h0 (beamOut.key (255#8).toNat 0) = true ∧
    State.reset.admitted Tests.h0 (beamOut.key (255#8).toNat 0) = true ∧ State.reset.lets Tests.h0 (blkBeam.key 3 11) ∧
    State.reset.blockBeamRefused (3 : Fin 4) (11 : Fin 12) (0x0F000000#32).toNat = false ∧
    State.reset.blockBeamRefused (3 : Fin 4) (11 : Fin 12) (0x0FFFFFFF#32).toNat = true ∧
    State.reset.lets Tests.h0 (beamCmd.key 0 0) ∧
    (let s := (Tests.two.set beamCfgTen 1 254)
     s.sound = true ∧ s.reachable Tests.h1 (beamCfg.key (254#8).toNat 0) = true ∧
     s.admitted Tests.h1 (beamCfg.key (254#8).toNat 0) = true ∧ Tests.h1.fn.val = s.get beamCfgTen (254#8).toNat ∧
     Tests.h1.fn.val ≠ s.get beamCfgTen (255#8).toNat ∧ Tests.h1.fn ≠ 0 ∧
     s.reachable Tests.h1 (beamCfg.key (255#8).toNat 0) = true ∧ s.admitted Tests.h1 (beamCfg.key (255#8).toNat 0) = true) := by
  decide +kernel

/-- Ticking with beam 255 in effect under this configuration. -/
def Tests.beam (v : Nat) : State := { Tests.sealed with beamActive := [(510, some v)] }

theorem Tests.witness_BeamProducts_voltage :
    (Tests.beam 0x20000000).sound = true ∧ (Tests.beam 0x20000000).ticking = true ∧
    bit ((Tests.beam 0x20000000).beamC (255#8).toNat) 29 = true ∧ (0#10).toNat % (Tests.beam 0x20000000).voltNc = 0 ∧
    (0#10).toNat < 4 * (Tests.beam 0x20000000).chanP ∧
    (0#13).toNat % (Tests.beam 0x20000000).voltNt ((Tests.beam 0x20000000).beamC (255#8).toNat) = 0 ∧
    (0#13).toNat < (Tests.beam 0x20000000).lenL ∧
    voltKey (255#8).toNat 3 (0#10).toNat (0#13).toNat ∉ (Tests.beam 0x20000000).emitted ∧
    ((Tests.beam 0x20000000).voltSamples ((Tests.beam 0x20000000).beamC 255) 3 0 0).length ≠ 0 := by decide +kernel

/-- A beam that no block forms has its samples formed, and the residues of its empty sums match. -/
theorem Tests.witness_BeamProducts_formed (c t pol v : Nat) :
    (Tests.beam v).formedSum 255 3 c t pol = true ∧ (Tests.beam v).powerFormed 255 3 c t = true ∧
    ∀ z ∈ (Tests.beam v).sumParts 255 c t pol, mod15 z.1 = z.2 := by
  have h : (Tests.beam v).chunksDue 255 3 = 0 := by
    have : (Tests.beam v).chunksDue 255 3 = Tests.sealed.chunksDue 255 3 := rfl
    rw [this]; decide +kernel
  have hs : ∀ pol, (Tests.beam v).beamSum 255 c t pol = {} := fun _ => rfl
  have hf : ∀ pol, (Tests.beam v).formedSum 255 3 c t pol = true := fun pol => by simp [State.formedSum, hs, h]
  refine ⟨hf pol, by simp [State.powerFormed, hf], ?_⟩
  simp [State.sumParts, hs, mod15]

/-- A sum whose companion does not match it. -/
theorem Tests.witness_BeamProducts_residue :
    let s := { Tests.beam 0x20000000 with beams := [(beamKey 255 (4 * (Tests.beam 0).chanP * 3) 0 0, { re := 1, parts := 1 })] }
    s.sound = true ∧ s.power.inReset = false ∧
    (∃ y ∈ s.voltSamples (s.beamC 255) 3 0 0, ∃ z ∈ s.sumParts 255 y.1 y.2.1 y.2.2, ¬ mod15 z.1 = z.2) := by
  refine ⟨by decide +kernel, by decide +kernel, ?_⟩
  refine ⟨(4 * (Tests.beam 0).chanP * 3, 0, 0), by decide +kernel, ?_⟩
  decide +kernel

theorem Tests.witness_BeamProducts_others :
    (let s := Tests.beam 0x10000000
     s.sound = true ∧ s.ordered = true ∧ s.ticking = true ∧ bit (s.beamC (255#8).toNat) 28 = true ∧
     s.periodDue (255#8).toNat 3 = true ∧ (s.period 255 3).failed = [] ∧ (s.period 255 3).sums = [] ∧ (s.period 255 3).res = []) ∧
    (let s := Tests.beam 0x08000000
     s.ticking = true ∧ s.on tickStatusSealed = true ∧ s.watchDone = false ∧ s.watchBeams 0 = [255] ∧
     (∀ m : Fin 4, m ≠ 0 → s.watchBeams m = []) ∧ s.on watchCfgAlertEn 0 = false ∧ s.sound = true ∧ s.ordered = true) ∧
    State.reset.ticking = false := by decide +kernel

/-- A spectrum whose every channel exceeds the threshold of 0. -/
theorem Tests.witness_BeamProducts_alert : 0 < (watchSum [some (2, true)]).nexc := by decide


/-! ## Witnesses: the fabric and the memory controllers -/

/-- A request of initiator 10, with the number 0, where it waits. -/
def Tests.reqAt (addr : Nat) (acc : Access) (left port : Nat) : Req :=
  { init := 10, id := 1023, qos := 15, ten := 3, addr := addr, target := (fabricTarget addr).getD 0, acc := acc, since := 0
    left := left, port := port }

/-- The same for the last byte of the DRAM. -/
def Tests.req (acc : Access) (left : Nat) : Req := Tests.reqAt 0x23FFFFFFFF acc left 107

theorem Tests.witness_FabricServes_request :
    (∀ u, initUnit 65 = some u → bit (State.reset.get clkGatedMask) u = false ∧ State.reset.gating ≠ some u) ∧
    (State.reset.power.inReset = false ∧ State.reset.ordered = true ∧ State.reset.sound = true ∧
      State.reset.admits 65 15 (0x23FFFFF000#48).toNat (.read 4096) = true ∧
      State.reset.admits 65 15 (0x23FFFFF001#48).toNat (.read 4096) = false ∧
      State.reset.admits 65 15 (0x23FFFFF000#48).toNat (.read 4097) = false ∧
      State.reset.admits 33 15 (0x23FFFFF000#48).toNat (.read 512) = true ∧
      State.reset.admits 33 15 (0x23FFFFF000#48).toNat (.read 513) = false ∧
      State.reset.heldBack 65 = [] ∧ State.reset.accepted = [] ∧ (Tests.req (.read 1) 1).refused = none ∧
      State.reset.enterRoom (Tests.req (.read 1) 1) = true) ∧
    (Tests.reqAt 0x7FFFFFFFF000 (.read 1) 1 0).refused = some 0 ∧ forbiddenPath 65 (firstPort 65 107) = false ∧
    (let s := { State.reset with inFlight := [{ Tests.req (.read 1) 0 with target := 12 }] }
     ∃ x ∈ s.accepted, x.init = 10 ∧ x.id = 1023 ∧ x.target ≠ 107) ∧
    (let s := { State.reset with holdback := [(10, List.replicate 15 (Tests.req (.read 1) 1))] }
     (s.heldBack 10).length = 15 ∧ ∃ x ∈ s.heldBack 10, x.id = 1023) ∧
    (let s := { State.reset with targets := [(107, List.replicate 64 (Tests.req (.read 1) 1))] }
     s.enterRoom (Tests.req (.read 1) 1) = false) := by
  refine ⟨?_, by decide +kernel, by decide +kernel, by decide +kernel, by decide +kernel, by decide +kernel, by decide +kernel⟩
  intro u hu
  have h : initUnit 65 = some 51 := by decide +kernel
  rw [h] at hu; injection hu with hu; subst hu
  decide +kernel

theorem Tests.witness_FabricServes_grant :
    (let r := Tests.reqAt (regionBase 3) (.read 4096) 8 36
     let s := { State.reset with targets := [(36, [r])] }
     ((eligible (s.target 36) (s.target 36)).filter (s.nextRoom 36)) = [r] ∧ 1 < r.left ∧ (eligible (s.target 37) (s.target 37)) = []) ∧
    (let r := Tests.reqAt (regionBase 3) (.read 4096) 1 36
     let s := { State.reset with targets := [(36, [r])] }
     ((eligible (s.target 36) (s.target 36)).filter (s.nextRoom 36)) = [r] ∧ r.left ≤ 1 ∧ s.ordered = true ∧ s.holdback = [] ∧
     s.hostReads = [] ∧ nextPort 36 r = some 183 ∧ nextPort 183 r = none ∧ memKind r.addr = .pool 3) ∧
    (let r := Tests.req (.read 1) 1
     let s := { Tests.dram 0 with targets := [(107, [r])] }
     ((eligible (s.target 107) (s.target 107)).filter (s.nextRoom 107)) = [r] ∧ nextPort 107 r = none ∧
     memKind r.addr = .dram 127 ∧ s.rangeTerr r.addr (accLen r.acc) = false ∧ s.get mcStatState 127 = 2) := by decide +kernel

theorem Tests.witness_FabricServes_meter :
    (∀ n, 4 * 107 + n ∉ State.reset.throttled) ∧
    (let s := { State.reset with used := [(3, 1)] }
     let l := [Tests.req (.read 1) 1, { Tests.req (.read 1) 1 with ten := 0 }]
     s.sound = true ∧ s.power.inReset = false ∧ (∃ x ∈ l, x.ten = (3 : Fin 4).val) ∧ (∃ x ∈ l, x.ten ≠ (3 : Fin 4).val) ∧
     s.dramBudget (3 : Fin 4) < s.used.at (3 : Fin 4) 0 ∧ (∀ x ∈ s.throttled, x % 4 ≠ (3 : Fin 4).val)) ∧
    (4 * 107 + (3 : Fin 4).val ∉ State.reset.throttled ∧ ¬ State.reset.dramBudget (3 : Fin 4) < State.reset.used.at (3 : Fin 4) 0) := by
  refine ⟨fun n h => ?_, by decide +kernel, by decide +kernel⟩
  exact absurd h (by rw [show State.reset.throttled = [] from rfl]; simp)

theorem Tests.witness_FabricServes_response :
    (let r := Tests.req (.read 1) 0
     let s := { Tests.dram 0 with inFlight := [r], marks := [(0x23FFFFFFFF / 8, some .clean)] }
     ((eligible s.accepted s.inFlight).find? fun x => x.target = (107 : Fin 108).val) = some r ∧ r.terr = false ∧
     s.readable r.addr 1 ∧ initUnit r.init = none ∧ s.holdback = [] ∧ s.hostReads = []) ∧
    (let r := Tests.req (.write [255]) 0
     let s := { Tests.dram 0 with inFlight := [r] }
     s.sound = true ∧ ((eligible s.accepted s.inFlight).find? fun x => x.target = (107 : Fin 108).val) = some r ∧
     s.servedRange r.addr 1) ∧
    (let r := { Tests.req (.read 1) 0 with terr := true }
     let s := { Tests.dram 0 with inFlight := [r] }
     ((eligible s.accepted s.inFlight).find? fun x => x.target = (107 : Fin 108).val) = some r ∧ s.blocked r.addr = false) := by
  decide +kernel

theorem Tests.witness_FabricServes_others :
    (let r := Tests.req (.read 1) 1
     let s := { State.reset.set fabStarveLimit 1 with targets := [(107, [r])] }
     s.sound = true ∧ s.ordered = true ∧ s.power.inReset = false ∧ s.get fabStarveLimit ≠ 0 ∧
     ((s.target (107 : Fin 192)).find? fun r => !r.promoted) = some r) ∧
    (let s := { State.reset with silent := true }
     let off : Word := BitVec.ofNat 32 (pwrWake.key 0 0)
     let key := s.regKey Tests.h0 off.toNat
     s.silent = true ∧ Tests.h0.path ≠ .config ∧ beyondBar Tests.h0 off.toNat = false ∧ bridgeWindow key = true ∧
     s.reachable Tests.h0 key = true ∧
     (findReg key).map (fun h => (h.reg.base, h.i, h.j)) = some (pwrWake.base, 0, 0)) ∧
    ∃ r ∈ allRegs, bridgeWindow r.base = true ∧ ∀ e ∈ writers, e.1.base ≠ r.base := by decide +kernel

/-- Controller 127 in state `x`, OWED at `o`. -/
def Tests.ctl (x o : Nat) : State := (State.reset.set mcStatState x 127).set mcRefOwed o 127

theorem Tests.witness_DramCommands :
    (let s := { Tests.ctl 2 0 with ctls := [(127, { queue := [Tests.req (.read 1) 0] })] }
     s.sound = true ∧ s.ordered = true ∧ s.get mcStatState 127 = 2 ∧ (s.ctl 127).forced = false ∧
     eligible s.accepted (s.ctl 127).queue = [Tests.req (.read 1) 0] ∧ s.piecesServed 127 (Tests.req (.read 1) 0) = true ∧
     s.getInt mcRefOwed 127 ≤ 0) ∧
    (let s := Tests.ctl 2 (toBits 5 (-7))
     s.sound = true ∧ s.ordered = true ∧ s.get mcStatState 127 < 3 ∧ (s.ctl 127).queue = [] ∧ -8 < s.getInt mcRefOwed 127) ∧
    (let s := { Tests.ctl 3 8 with ctls := [(127, { forced := true, refBank := 47 })] }
     s.sound = true ∧ s.ordered = true ∧ s.get mcStatState 127 ≠ 4 ∧ s.get mcStatState 127 ≠ 5 ∧ (s.ctl 127).forced = true ∧
     -8 < s.getInt mcRefOwed 127 ∧ s.getInt mcRefOwed 127 ≤ 8 ∧ (s.ctl 127).refBank = 47) ∧
    (∀ o ∈ [(-8 : Int), 0, 7], let s := Tests.ctl 2 (toBits 5 o)
     s.sound = true ∧ s.ordered = true ∧ s.power.inReset = false ∧ s.get mcStatState 127 ≠ 4 ∧ s.getInt mcRefOwed 127 = o) ∧
    ((Tests.ctl 2 0).lets Tests.h0 (memCmd.key 0 0) ∧ (Tests.ctl 2 0).ordered = true ∧ ((Tests.ctl 2 0).ctl 127).queue = [] ∧
      ((Tests.ctl 2 0).ctl 127).entry = false ∧ (Tests.ctl 2 0).inFlight = []) ∧
    (let s := { Tests.ctl 3 0 with ctls := [(127, { entry := true })] }
     s.sound = true ∧ s.get mcStatState 127 = 3 ∧ (s.ctl 127).entry = true ∧ s.accepted = [] ∧ s.jobWaits 127 = false) ∧
    (let s := { Tests.ctl 3 0 with ctls := [(127, { entry := true, held := [Tests.req (.read 1) 0] })] }
     s.sound = true ∧ ∃ r ∈ s.accepted, r.touches 127 = true) ∧
    ((Tests.ctl 3 0).ctl 127).entry = false ∧
    ((Tests.ctl 4 0).sound = true ∧ (Tests.ctl 4 0).lets Tests.h0 (memCmd.key 0 0) ∧ (Tests.ctl 4 0).get mcStatState 127 = 4) ∧
    ((Tests.ctl 5 0).sound = true ∧ (Tests.ctl 5 0).ordered = true ∧ (Tests.ctl 5 0).get mcStatState 127 = 5) := by
  decide +kernel

/-- Training of pseudo-channel 127, which is in state `x`. -/
def Tests.train (x : Nat) (op : Option Nat) : State :=
  { (Tests.ctl x 0).set memtrSelPc 127 with training := op.map fun o => 8 * 127 + o }

theorem Tests.witness_TrainingAndRetirement :
    (∀ x < 6, let s := Tests.train x none
     s.sound = true ∧ s.ordered = true ∧ s.lets Tests.h0 (memtrCmd.key 0 0) ∧ s.on memtrStatBusy = false ∧
     s.get memtrSelPc = 127 ∧ s.get mcStatState (s.get memtrSelPc) = x) ∧
    (Tests.train 2 none |>.set memtrStatBusy 1).on memtrStatBusy = true ∧
    (∀ op < 8, (Tests.train 1 (some op)).sound = true ∧ (Tests.train 1 (some op)).ordered = true ∧
      (Tests.train 1 (some op)).training = some (8 * 127 + op) ∧ (Tests.train 1 (some op)).power.inReset = false) ∧
    State.reset.training = none ∧
    nth (List.replicate 36 (some ((1 : BitVec 7), (23 : BitVec 7)))) 35 none = some (1, 23) ∧
    (let s := { State.reset with trainArmed := 8 }
     s.sound = true ∧ s.power.inReset = false ∧ bit s.trainArmed.toNat 3 = true ∧
     10 ≤ ((10#8).toInt - s.getInt memTempTrained 3).natAbs ∧ ((9#8).toInt - s.getInt memTempTrained 3).natAbs < 10) ∧
    ((Tests.ctl 2 0).lets Tests.h0 (mcRetcmd.key 127 0) ∧ (Tests.ctl 2 0).on mcRetstatBusy 127 = false ∧
      (Tests.ctl 2 0).ordered = true ∧ ((Tests.ctl 2 0).set mcRetstatBusy 1 127).on mcRetstatBusy 127 = true) ∧
    (let s := { Tests.ctl 2 0 with ctls := [(127, { copy := some (589823, 256, true) })] }
     s.sound = true ∧ s.ordered = true ∧ s.power.inReset = false ∧
     (s.ctl 127).copy = some (589823, 256, true) ∧ ∀ e, e < 64 → s.on mcRetValid 127 e = false) ∧
    (let s := { (Tests.ctl 2 0).set mcRetValid 1 127 0 with ctls := [(127, { copy := some (0, 0, false) })] }
     s.sound = true ∧ s.ordered = true ∧ s.get mcRetG 127 0 = 0 ∧ s.on mcRetValid 127 0 = true) := by decide +kernel


/-! ## Witnesses: integrity and egress -/

/-- Scrub unit 0 enabled, with one line written in the pool of region 0, whose first word is marked `m`. -/
def Tests.scrub (m : Mark) : State :=
  { (State.reset.set scrubCtrlEn 1).set scrubCtrlLimit 1 with
    lines := [dramEnd + regionBase 0 / 64], marks := [(regionBase 0 / 8, some m)], corrections := [regionBase 0] }

theorem Tests.witness_MemoriesAreKept :
    (let s := Tests.scrub .correctable
     let w := (s.behind (BitVec.ofNat 48 (regionBase 0 + 7)).toNat).getD (BitVec.ofNat 48 (regionBase 0 + 7)).toNat / 8 * 8
     s.sound = true ∧ w ∈ s.corrections ∧ s.mark w = .correctable ∧ memKind w ≠ .host) ∧
    ((Tests.scrub .clean).corrections = [regionBase 0] ∧ (Tests.scrub .clean).mark (regionBase 0) ≠ .correctable ∧
      regionBase 0 + 8 ∉ (Tests.scrub .clean).corrections) ∧
    (State.reset.set scrubCtrlEn 0 237).on scrubCtrlEn (237 : Fin 238) = false ∧
    (∀ m ∈ [Mark.clean, .poison, .unwritten, .correctable, .uncorrectable], let s := Tests.scrub m
     s.sound = true ∧ s.ordered = true ∧ s.on scrubCtrlEn 0 = true ∧
     s.nextScrub 0 (s.scrub 0).word = some (regionBase 0 / 8) ∧ s.mark (8 * (regionBase 0 / 8)) = m ∧
     memKind (8 * (regionBase 0 / 8)) ≠ .host ∧ s.logs = []) ∧
    (let s := { Tests.scrub .clean with lines := [] }
     s.sound = true ∧ s.ordered = true ∧ s.on scrubCtrlEn 0 = true ∧ s.nextScrub 0 (s.scrub 0).word = none) ∧
    ((Tests.scrub .clean).power.inReset = false ∧ (Tests.scrub .clean).get scrubCtrlLimit 0 ≠ 0 ∧
      ((Tests.scrub .clean).scrub 0).slow = false ∧ ((Tests.scrub .clean).set scrubCtrlLimit 0 237).get scrubCtrlLimit 237 = 0) ∧
    (State.reset.sound = true ∧ State.reset.ordered = true ∧ State.reset.lets Tests.h0 (Sys2Proof.Machine.twin.key 7 0) ∧
      State.reset.lets Tests.h0 (intLogCmd.key 3 0)) := by decide +kernel

theorem Tests.witness_SparesAndKeys :
    (State.reset.sound = true ∧ State.reset.ordered = true ∧ State.reset.lets Tests.h0 (sretCmd.key 3 0) ∧
      State.reset.on tickCtrlRun = false ∧ State.reset.on sretStatBusy 3 = false ∧
      State.reset.lets Tests.h0 (sretCmd.key 99 0) ∧ State.reset.lets Tests.h0 (sretCmd.key 109 0) ∧
      (State.reset.set tickCtrlRun 1).on tickCtrlRun = true) ∧
    (∀ u ∈ [3, 51, 107, 108], ∀ bank ∈ [0, 511], let s := { State.reset with scrubs := [(u, { copy := some bank })] }
     s.sound = true ∧ s.ordered = true ∧ (s.scrub u).copy = some bank ∧ s.on sretUsedUsed u = false) ∧
    (State.reset.set sretUsedUsed 1 3).on sretUsedUsed 3 = true ∧ (State.reset.scrub 0).copy = none ∧
    (State.reset.reachable Tests.h0 (sealKeycmd.key 0 0) = true ∧ State.reset.admitted Tests.h0 (sealKeycmd.key 0 0) = true ∧
      State.reset.reachable Tests.h1 (sealKeycmd.key 0 0) = true ∧ Tests.two.admitted Tests.h1 (sealKeycmd.key 0 0) = true ∧
      Tests.h1.fn ≠ 0 ∧ Tests.h1.fn.val ≠ State.reset.get sealSlotTen 63) := by decide +kernel

/-- A watch product of tenancy 0 for flow 7. -/
def Tests.prod : Product := { ten := 0, type := 0x20, flow := 7, nchan := 1, payload := [1, 2] }

/-- That product waiting, the context of its flow written with this byte 10 (EN in bit 7), behind template 0, of 14 bytes or as
long as given. -/
def Tests.product (en : Byte) (len : Byte := 14) : State :=
  { (State.reset.store (flowAddr 7) [9, 0, 0, 0, 0, 0, 0, 0, 0, 0, en, 0, 0, 0, 0, 0]).store (tmplAddr 0)
      (len :: List.replicate 127 0) with
    prods := [Tests.prod] }

/-- A voltage product of flow 7, queued with its context of zeros, under a template of 14 bytes. -/
def Tests.queued (type qos flow : Nat) (crcBad : Bool) (kept : Option Regional) : Queued :=
  ⟨{ ten := 0, type := type, flow := flow, nchan := 1, payload := [1, 2], crcBad := crcBad, kept := kept },
    List.replicate 16 0, 14 :: List.replicate 127 0, 9, 0, none, BitVec.ofNat 32 (crc32c [1, 2]), qos⟩

/-- Port 1 UP with these packets queued. -/
def Tests.egress (busy : Bool) (l : List Queued) : State :=
  { State.reset.set egrpStatState 2 1 with egress := [(1, { queue := l, busy := busy })] }

theorem Tests.witness_ProductsLeave_contexts :
    State.reset.sound = true ∧ State.reset.ordered = true ∧ State.reset.power.inReset = false ∧
    State.reset.owns 0 (flowAddr (0x3FFFF#18).toNat + (15 : Fin 16)) = true ∧
    State.reset.owns 1 (flowAddr (0x3FFFF#18).toNat + (15 : Fin 16)) = false ∧ 16 ≤ (15 : Fin 16).val + [(1 : Byte)].length ∧
    (14 : Fin 16).val + [(1 : Byte)].length < 16 ∧ State.reset.prods = [] := by decide +kernel

theorem Tests.witness_ProductsLeave_staged :
    (let s := Tests.product 0x80
     let f := parseFlow (s.flowCtx Tests.prod.flow)
     s.sound = true ∧ s.ordered = true ∧ s.prods = Tests.prod :: [] ∧ s.cleanRange (flowAddr 7) 16 ∧ f.en = true ∧
     s.cleanRange (tmplAddr f.tmpl) 128 ∧ s.stageFault Tests.prod f (parseTemplate (s.bytes (tmplAddr f.tmpl) 128)) = none ∧
     f.port ≤ 1) ∧
    (let s := Tests.product 0x80 15
     let f := parseFlow (s.flowCtx Tests.prod.flow)
     s.sound = true ∧ s.ordered = true ∧ f.en = true ∧
     s.stageFault Tests.prod f (parseTemplate (s.bytes (tmplAddr f.tmpl) 128)) = some 2 ∧ s.on egrFaultValid = false) ∧
    (let s := Tests.product 0
     s.sound = true ∧ s.ordered = true ∧ s.cleanRange (flowAddr 7) 16 ∧ (parseFlow (s.flowCtx 7)).en = false) ∧
    (let s := { State.reset with prods := [Tests.prod] }
     s.sound = true ∧ s.ordered = true ∧ ∃ w ∈ touched (flowAddr 7) 16, s.mark (8 * w.1) = .unwritten) := by decide +kernel

theorem Tests.witness_ProductsLeave_sent :
    (∀ b, let s := Tests.egress b [Tests.queued 0x10 9 7 false none]
     let q := Tests.queued 0x10 9 7 false none
     s.sound = true ∧ s.ordered = true ∧ (s.egr 1).busy = b ∧ s.egrUp 1 = true ∧ (s.egr 1).queue = [q] ∧
     (s.egr (1 - 1)).queue = [] ∧ 0 ≤ (s.egr 1).bucket ∧ q.bad = false ∧ (parseFlow q.ctx).launch = 0 ∧
     (parseFlow q.ctx).tsreq = false ∧ q.prod.head (parseFlow q.ctx) = none ∧ (s.egr 1).stamps.length < 64) := by decide +kernel

theorem Tests.witness_ProductsLeave_others :
    (let x := Tests.queued 0x10 9 7 false none
     let y := Tests.queued 0x10 8 8 false none
     let s := Tests.egress true [y, x]
     s.sound = true ∧ s.ordered = true ∧ s.egrUp 1 = true ∧ (s.egr 1).queue = [y, x] ∧ (s.egr (1 - 1)).queue = [] ∧
     0 ≤ (s.egr 1).bucket ∧ x.bad = false ∧ x.prod.flow ≠ y.prod.flow ∧ (parseFlow x.ctx).launch = 0 ∧
     (parseFlow x.ctx).ten = (parseFlow y.ctx).ten ∧ (parseFlow x.ctx).sealed = false ∧ x.prod.type ≠ 0x20 ∧ y.qos < x.qos ∧
     (qosClass x.qos < qosClass y.qos ∨ (qosClass x.qos = qosClass y.qos ∧ x.qos < 15))) ∧
    (∀ k ∈ [none, some ⟨0, 0, 0, 1, [some (5, false)], []⟩], let q := Tests.queued 0x20 9 7 true k
     let s := Tests.egress false [q]
     s.sound = true ∧ s.ordered = true ∧ (s.egr 1).queue = [q] ∧ q.bad = true ∧ (s.egr (1 - 1)).queue = [] ∧
     (parseFlow q.ctx).launch = 0 ∧ 0 ≤ (s.egr 1).bucket ∧ s.egrUp 1 = true ∧ q.prod.kept = k) ∧
    (let q := Tests.queued 0x10 9 7 false none
     let s := (Tests.egress true [q]).set egrpStatState 1 1
     s.sound = true ∧ s.ordered = true ∧ (s.egr 1).queue = [q] ∧ s.egrUp 1 = false) ∧
    (State.reset.egr 0).queue = [] := by decide +kernel


/-- A PTP event message to the port, over Ethernet: 14 bytes of header and the message. -/
def Tests.ptp : List Byte := [0x01, 0x1B, 0x19, 0, 0, 0, 1, 2, 3, 4, 5, 6, 0x88, 0xF7] ++ List.replicate 46 0

/-- Port 1 UP with two messages received. -/
def Tests.receiving : State := { State.reset.set egrpStatState 2 1 with egress := [(1, { rx := [[1], [2]] })] }

theorem Tests.witness_ReceiveTimeAndNotes_received :
    let s := Tests.receiving
    let frame := Tests.ptp
    let fcs : Word := BitVec.ofNat 32 (ethernetFcs frame)
    s.sound = true ∧ s.ordered = true ∧ s.power.inReset = false ∧ s.egrUp 1 = true ∧ s.egrUp 0 = false ∧
    fcs.toNat = ethernetFcs frame ∧ 64 ≤ frame.length + 4 ∧ frame.length + 4 ≤ s.maxFrame ∧
    beVal (slice frame 12 2) ≠ 0x8808 ∧ ptpMessage frame = some (0, List.replicate 46 0) ∧ beVal (slice frame 0 6) ∈ ptpAddrs ∧
    (s.egr 1).rx.length < 64 ∧ s.lets Tests.h0 (egrpPtprxCmd.key 1 0) := by decide +kernel

theorem Tests.witness_ReceiveTimeAndNotes_dropped :
    (0 : Word).toNat ≠ ethernetFcs (List.replicate 60 0) ∧
    (let frame : List Byte := List.replicate 12 0 ++ [0x88, 0x08] ++ List.replicate 46 0
     (BitVec.ofNat 32 (ethernetFcs frame) : Word).toNat = ethernetFcs frame ∧ 64 ≤ frame.length + 4 ∧
     beVal (slice frame 12 2) = 0x8808) ∧
    (let frame : List Byte := List.replicate 59 0
     (BitVec.ofNat 32 (ethernetFcs frame) : Word).toNat = ethernetFcs frame ∧ ¬ 64 ≤ frame.length + 4) := by decide +kernel

theorem Tests.witness_ReceiveTimeAndNotes :
    (let s := State.reset.set egrpCtrlEnable 1 1
     s.sound = true ∧ s.ordered = true ∧ s.power.inReset = false ∧ s.on egrpCtrlEnable 1 = true ∧
     bit (s.get clkMonstatFail) (5 + 1) = false) ∧
    State.reset.lets Tests.h0 (todSetsec.key 0 0) ∧
    (let s := { State.reset with tb := { load := some (2 ^ 48 - 1) } }
     s.sound = true ∧ s.ordered = true ∧ s.power.inReset = false ∧ s.tb.load = some (2 ^ 48 - 1)) ∧
    ({ State.reset with power := { inReset := true } } : State).power.inReset = true ∧
    (Tests.h0.fn = 0 ∧ Tests.notes.reachable Tests.h0 (noteCmd.key 0 0) = true ∧
      Tests.notes.admitted Tests.h0 (noteCmd.key 0 0) = true ∧ Tests.notes.ordered = true) := by decide +kernel


/-! ## Witnesses: the timebase -/

/-- Reference 1 active and in qualification state `q`, the timebase in state `st` on reference `cur`. -/
def Tests.ref (q st cur : Nat) : State :=
  ((((State.reset.set tbRefStatAct10m 1 1).set tbRefStatActPps 1 1).set tbRefStatQstate q 1).set tbStateState st).set tbStateCur cur

theorem Tests.witness_ReferencesQualify_activity :
    (let s := State.reset.set tbRefStatActPps 1 1
     s.sound = true ∧ s.ordered = true ∧ s.power.inReset = false ∧ s.get tbRefStatQstate 1 = 0 ∧
     (s.ref 1).partner = none ∧ s.refActive 1 = false ∧ s.on tbRefStatActPps 1 = true) ∧
    (let s := Tests.ref 2 2 1
     s.sound = true ∧ s.ordered = true ∧ s.get tbRefStatQstate 1 ≠ 0 ∧ s.refActive 1 = true ∧ s.get tbStateCur = (1 : Fin 2) ∧
     s.tb.target = none ∧ s.get tbCfgMan ≠ 3 ∧ (∀ y < 3, y ≠ (1 : Fin 2).val → s.get tbRefStatQstate y ≠ 2) ∧
     s.refActive 1 = (true && s.on tbRefStatActPps 1)) ∧
    (let s := ((Tests.ref 2 2 1).set tbRefStatQstate 2 0).set tbRefCfgRank 1 0
     s.get tbRefStatQstate 0 = 2 ∧ s.get tbRefCfgRank 0 ≠ 0 ∧ s.get tbRefStatQstate 2 ≠ 2) := by decide +kernel

theorem Tests.witness_ReferencesQualify_gates :
    (let s := Tests.ref 1 0 3
     s.sound = true ∧ s.ordered = true ∧ s.power.inReset = false ∧ s.refActive 1 = true ∧ s.refActive 0 = false ∧
     s.get tbRefStatQstate 1 = 1 ∧ (∀ y < 3, y ≠ (1 : Fin 2).val → s.get tbRefCfgRank y ≠ s.get tbRefCfgRank 1 ∨ s.get tbRefCfgRank 1 = 0) ∧
     (0#32).toInt.natAbs ≤ s.get tbQualAccept * 10000 ∧ s.get tbQualAccept < s.get tbQualReject ∧
     s.get tbQualReject * 10000 < (0x7FFFFFFF#32).toInt.natAbs ∧ (s.ref 1).gates + 1 < s.qtime ∧ (s.ref 1).partner = none) ∧
    (let s := { Tests.ref 1 0 3 with refs := [(1, { gates := 3600 })] }
     s.sound = true ∧ s.ordered = true ∧ s.qtime ≤ (s.ref 1).gates + 1) ∧
    (let s := ((((((Tests.ref 2 2 1).set tbRefStatAct10m 1 0).set tbRefStatActPps 1 0).set tbRefStatQstate 2 0).set
        tbRefCfgRank 1 0).set tbRefCfgRank 1 1).set tbPairPair 1
     s.sound = true ∧ s.ordered = true ∧ s.refActive 0 = true ∧ s.refActive 1 = true ∧ s.get tbRefStatQstate 0 = 2 ∧
     s.get tbRefStatQstate 1 = 2 ∧ s.get tbRefCfgRank 0 = s.get tbRefCfgRank 1 ∧ s.get tbRefCfgRank 0 ≠ 0 ∧
     (0#32).toInt.natAbs ≤ s.get tbQualReject * 10000 ∧ (10001#32).toInt.natAbs ≤ s.get tbQualReject * 10000 ∧
     s.get tbPairPair * 10000 < ((0#32).toInt - (10001#32).toInt).natAbs ∧ s.tb.pairs = [] ∧
     s.get tbRefStatQstate 2 = 0 ∧ s.refActive 2 = false ∧
     (let u := (((s.set tbRefStatQstate 2 2).set tbRefStatAct10m 1 2).set tbRefStatActPps 1 2).set tbRefCfgRank 2 2
      u.sound = true ∧ u.ordered = true ∧ u.get tbRefStatQstate 2 = 2 ∧ u.refActive 2 = true ∧
      (u.getInt ptpsFofsValue).natAbs ≤ u.get tbQualReject * 10000 ∧ u.get tbRefCfgRank 2 ≠ u.get tbRefCfgRank 0)) := by
  decide +kernel

theorem Tests.witness_ReferencesQualify_switch :
    (let s := (Tests.ref 2 2 0).set tbStateWtr 1
     s.sound = true ∧ s.on tbStateWtr = true ∧ s.tb.target = none) ∧
    (State.reset.on tbStateWtr = false ∧ State.reset.tb.target = none) ∧
    (let s := { (Tests.ref 2 2 0).set tbRefStatQstate 2 0 with tb := { target := some (1, -5), manWait := some 0 } }
     s.sound = true ∧ s.power.inReset = false ∧ s.tb.target = some ((1 : Fin 3).val, -5) ∧ s.tb.manWait = some 0 ∧
     s.get tbRefStatQstate (1 : Fin 3) = 2 ∧ s.get tbRefStatQstate 0 = 2) := by decide +kernel

theorem Tests.witness_LoopHoldoverAndServo_loop :
    (let s := Tests.ref 2 2 0
     s.sound = true ∧ s.ordered = true ∧ s.power.inReset = false ∧ s.refActive 1 = true ∧ s.get tbStateCur ≠ 1 ∧
     s.refActive 0 = false) ∧
    (let s := { Tests.ref 2 1 1 with tb := { inRun := 7 } }
     s.sound = true ∧ s.ordered = true ∧ s.refActive 1 = true ∧ s.get tbStateCur = (1 : Fin 3).val ∧ s.tb.target = none ∧
     s.tb.stepNext = false ∧ s.get tbStateState = 1 ∧ s.tb.inRun = 7 ∧
     (clampInt (-2147483648) 2147483647 ((0#32).toInt + s.getInt tbRefDelayPs 1) - s.tb.held).natAbs ≤ s.get tbLockLimit * 1000 ∧
     s.get tbLockLimit * 1000 < (clampInt (-2147483648) 2147483647 ((0x7FFFFFFF#32).toInt + s.getInt tbRefDelayPs 1) - s.tb.held).natAbs) ∧
    (let s := { Tests.ref 2 1 1 with tb := { stepNext := true } }
     s.sound = true ∧ s.ordered = true ∧ s.get tbStateState = 1 ∧ s.tb.stepNext = true) ∧
    (let s := { Tests.ref 2 2 1 with tb := { outRun := 1 } }
     s.sound = true ∧ s.ordered = true ∧ s.get tbStateState = 2 ∧ s.tb.outRun = 1 ∧
     4 * (s.get tbLockLimit * 1000) <
       (clampInt (-2147483648) 2147483647 ((0x7FFFFFFF#32).toInt + s.getInt tbRefDelayPs 1) - s.tb.held).natAbs ∧
     (clampInt (-2147483648) 2147483647 ((0#32).toInt + s.getInt tbRefDelayPs 1) - s.tb.held).natAbs ≤ 4 * (s.get tbLockLimit * 1000)) ∧
    State.reset.get tbStateState ≠ 2 := by decide +kernel

theorem Tests.witness_LoopHoldoverAndServo_hold :
    (let s := ((Tests.ref 2 3 3).set ptpsStateState 3).set tbLockHoldmax 1
     s.sound = true ∧ s.power.inReset = false ∧ s.get tbLockHoldmax ≠ 0 ∧ s.get tbStateState = 3 ∧
     s.get ptpsStateState = 3) ∧ State.reset.get tbStateState ≠ 3 ∧ State.reset.get ptpsStateState ≠ 3 ∧
    ((Tests.ref 2 2 0).lets Tests.h0 (tbCfg.key 0 0) ∧ bits (0x30000#32).toNat 17 16 = 3 ∧
      bits (0x10000#32).toNat 17 16 = 1 ∧ (Tests.ref 2 2 0).get tbRefStatQstate 1 = 2 ∧ (Tests.ref 2 2 0).tb.target = none ∧
      (Tests.ref 2 2 0).get tbStateCur ≠ 1 ∧ (Tests.ref 2 2 0).get tbStateCur ≠ 3) ∧
    (let s := (Tests.ref 2 2 3).set clkSrcDom 0
     s.sound = true ∧ s.get tbRefStatQstate 1 = 2 ∧ s.get tbStateCur = 3 ∧ s.get clkSrcDom % 8 = 0) ∧
    (let s := { Tests.ref 2 2 0 with tb := { target := some (2, 0) } }
     s.sound = true ∧ s.get tbRefStatQstate 1 = 2 ∧ s.tb.target = some (2, 0)) ∧
    (State.reset.lets Tests.h0 (tbQual.key 0 0) ∧ bits (0x10000#32).toNat 15 0 < bits (0x10000#32).toNat 31 16 ∧
      bits (0x10001#32).toNat 31 16 ≤ bits (0x10001#32).toNat 15 0) ∧
    (let s := State.reset.set tbPstepRemRem 0x80000000
     s.sound = true ∧ s.lets Tests.h0 (tbPstep.key 0 0) ∧ s.getInt tbPstepRemRem + (0#32).toInt = -2147483648 ∧
     s.getInt tbPstepRemRem + (0xFFFFFFFF#32).toInt < -2147483648) ∧
    (State.reset.tb.step = 0 ∧
      let s := { State.reset with tb := { step := -1 } }
      s.sound = true ∧ s.power.inReset = false ∧ s.tb.step ≠ 0) := by decide +kernel

theorem Tests.witness_LoopHoldoverAndServo_servo :
    (let s := { ((State.reset.set ptpsCfgEn 1).set egrpStatState 2 0).set ptpsStateState 1 with tb := { sIn := 7, sLast := some 5 } }
     s.sound = true ∧ s.lets Tests.h0 (ptpsOfs.key 0 0) ∧ s.on ptpsCfgEn = true ∧ s.egrUp 0 = true ∧
     s.tb.sLast = some 5 ∧ ¬ 5 < stampNs (s.get ptpsT2Stamp) ∧ s.get ptpsStateState = 1 ∧ s.tb.sIn = 7) ∧
    (let s := { ((State.reset.set ptpsCfgEn 1).set egrpStatState 2 0).set ptpsT2Stamp 6 with tb := { sLast := some 5 } }
     s.sound = true ∧ (∀ p, s.tb.sLast = some p → p < stampNs (s.get ptpsT2Stamp)) ∧
     stampNs s.todStamp ≤ stampNs (s.get ptpsT2Stamp) + 1000000000 ∧ s.get ptpsStateState = 0) ∧
    State.reset.on ptpsCfgEn = false ∧ State.reset.lets Tests.h0 (ptpsCfg.key 0 0) ∧
    (State.reset.get ptpsStateState ≠ 1 ∧ (State.reset.set ptpsStateState 1).get ptpsStateState = 1 ∧
      (State.reset.set ptpsStateState 2).sound = true) := by
  refine ⟨by decide +kernel, ⟨by decide +kernel, ?_, by decide +kernel, by decide +kernel⟩, by decide +kernel, by decide +kernel,
    by decide +kernel⟩
  intro p hp
  cases hp
  decide +kernel


/-! ## Witnesses: clocks, feeds, rails and power -/

theorem Tests.witness_ClockSources :
    (State.reset.sound = true ∧ State.reset.ordered = true ∧ State.reset.power.inReset = false ∧
      State.reset.power.rootWait = true ∧ (∀ b < 12, bit (State.reset.get clkMonstatFail) b = false) ∧
      State.reset.lets Tests.h0 (clkCmd.key 0 0) ∧ State.reset.get clkSrcDom ≠ 0) ∧
    (let s := State.reset.set clkMonstatFail 4
     s.sound = true ∧ bit (s.get clkMonstatFail) (monBit .root) = true ∧ s.lets Tests.h0 (clkCmd.key 0 0) ∧
     bit (s.get clkMonstatFail) 2 = true ∧ ∀ h < 4, bit (s.get clkSrcMem) h = true → bit (s.get clkMonstatFail) (7 + h) = true) ∧
    (let s := (State.reset.set clkSrcMem 8).set clkMonstatFail 4
     s.sound = true ∧ bit (s.get clkSrcMem) 3 = true ∧ bit (s.get clkMonstatFail) (7 + 3) = false) ∧
    (let s := State.reset.set clkSrcDom 0
     s.sound = true ∧ s.get clkSrcDom = 0) ∧
    (let s := { Tests.dram 0 with ctls := [(127, { queue := [Tests.req (.read 1) 0] })] }
     s.sound = true ∧ s.ordered = true ∧ 127 / 32 = (3 : Fin 4).val ∧ Tests.req (.read 1) 0 ∈ (s.ctl 127).queue) ∧
    (let s := State.reset.set egrpStatState 2 1
     s.sound = true ∧ s.ordered = true ∧ s.egrUp 1 = true) := by decide +kernel

theorem Tests.witness_UnitsGate :
    (State.reset.sound = true ∧ State.reset.ordered = true ∧ State.reset.lets Tests.h0 (clkGate.key 0 0) ∧
      (61#6).toNat < 62 ∧ State.reset.get egrpStatState (61 - 60) = 0 ∧ State.reset.gating = none ∧ ¬ (62#6).toNat < 62 ∧
      State.reset.pstate (59 - 52) = 0 ∧ (∀ b < 12, (State.reset.seq (12 * (51 - 48) + b)).st = .off)) ∧
    (let s := { State.reset with inFlight := [Tests.reqAt (regionBase 3) (.read 1) 0 36] }
     s.sound = true ∧ s.lets Tests.h0 (clkGate.key 0 0) ∧
     ∃ r ∈ s.accepted, (gateUnits r.addr).contains 51 = true ∧ initUnit r.init = none) ∧
    (let s := { State.reset with gating := some 61 }
     s.sound = true ∧ s.ordered = true ∧ s.power.inReset = false ∧ s.gating = some 61 ∧ s.unitRequests 61 = [] ∧
     s.gating = some (61#6).toNat ∧ s.gating ≠ some (60#6).toNat) := by decide +kernel

/-- Reeve A holds the lease; reeve B stands by, or is in state `b`. -/
def Tests.lease (b : Nat) : State :=
  ((((((State.reset.set rvLeaseHolder 0).set rvLeaseFeedA 1).set rvLeaseFeedB 1).set rvLeaseStateA 2).set rvLeaseStateB b).set
    rvLeaseStbyOkB 1)

/-- Reeve B released to take a lease that no one holds, with power as given. -/
def Tests.released (p : Power) : State := { (Tests.lease 1).set rvLeaseHolder 3 with power := { p with released := some .b } }

theorem Tests.witness_FeedsAndLease :
    (let s := Tests.lease 4
     s.sound = true ∧ s.ordered = true ∧ s.feedOn .a = true ∧ s.feedOn .b = true ∧ s.holder = some .a ∧ s.reeveState .a = 2 ∧
     s.power.handing = false ∧ s.busIdle = false ∧ s.lets Tests.h0 (rvCmd.key 0 0) ∧ s.stbyOk (otherReeve .a) = true ∧
     s.power.vaonIo = true) ∧
    (let s := (Tests.lease 0).set rvLeaseFeedB 0
     s.sound = true ∧ s.feedOn .b = false ∧ s.feedOn (otherReeve .b) = true ∧ s.power.released ≠ some .b ∧
     s.holder = some (otherReeve .b) ∧ s.feedOn (otherReeve .a) = false) ∧
    (let s := ((Tests.lease 0).set rvLeaseFeedB 0).set rvLeaseFeedA 0
     s.sound = true ∧ s.holder = some .a ∧ s.feedOn (otherReeve .a) = false ∧ s.feedOn .a = false) ∧
    (let s := { (Tests.lease 0).set rvLeaseFeedB 0 with power := { released := some .b } }
     s.feedOn .b = false ∧ s.feedOn (otherReeve .b) = true ∧ s.power.released = some .b) ∧
    (let s := ((Tests.lease 0).set rvLeaseFeedB 0).set rvLeaseHolder 3
     s.holder = none ∧ s.feedOn .b = false ∧ s.holder ≠ some (otherReeve .b)) ∧
    (let s := { Tests.lease 3 with power := { mailbox := some ⟨0, 0, 0, []⟩ } }
     s.sound = true ∧ s.holder = some (otherReeve .b) ∧ s.feedOn .b = true ∧ s.reeveState .b = 3 ∧ s.power.porSeq = false ∧
     s.power.mailbox ≠ none) ∧
    (let s := (Tests.lease 3).set rvLeaseStbyOkB 0
     s.sound = true ∧ s.ordered = true ∧ s.holder = some .a ∧ s.stbyOk (otherReeve .a) = false ∧ s.power.mailbox = none) ∧
    (let s := { Tests.lease 4 with power := { vaonIo := false } }
     s.sound = true ∧ s.ordered = true ∧ s.busIdle = true ∧ s.holder = some .a ∧ s.stbyOk (otherReeve .a) = true ∧
     s.power.vaonIo = false) := by decide +kernel

theorem Tests.witness_FeedsAndLease_take :
    (∀ p ∈ [({} : Power), { porSeq := true }, { tripped := true }, { cmd := some 3 }], let s := Tests.released p
     s.sound = true ∧ s.power.released = some .b ∧ s.feedOn .b = true ∧ s.power.vaonIo = true ∧ s.peat.saved = none ∧
     s.power.woken = false ∧ s.power.released ≠ some .a ∧ s.pwr ≤ 2) ∧
    (let s := { Tests.released {} with peat := { saved := some ⟨0, 0, 0, []⟩ } }
     s.sound = true ∧ s.peat.saved = some ⟨0, 0, 0, []⟩ ∧ (⟨0, 0, 0, []⟩ : Saved).power = s.pwr) ∧
    (let s := { Tests.released { porSeq := true } with peat := { half0 := ⟨some 0, [⟨3, 1, some [1]⟩]⟩, seq := 1 } }
     s.sound = true ∧ (s.peat.mount.value 3).map (fun v => (v.headD 0).toNat) = some 1) := by decide +kernel


theorem Tests.witness_RailsAndHeat :
    (let s := Tests.lease 4
     s.sound = true ∧ s.busIdle = false ∧ s.noHolder = false ∧ s.pwr ≠ 3 ∧ s.power.inReset = false ∧ s.power.vaonIo = true) ∧
    (let s := { Tests.lease 4 with power := { inReset := true } }
     s.sound = true ∧ s.busIdle = false ∧ s.power.inReset = true ∧ s.pwr ≠ 3 ∧ s.peat.value (0x100 + (6 : Fin 7)) = none) ∧
    ((Tests.lease 4).set pwrStateState 3).pwr = 3 ∧
    (State.reset.lets Tests.h0 (thermCfg.key 0 0) ∧ bits (0x726F6E#32).toNat 7 0 < bits (0x726F6E#32).toNat 15 8 ∧
      bits (0x726F6E#32).toNat 15 8 < bits (0x726F6E#32).toNat 23 16 ∧ bits (0x726F6E#32).toNat 23 16 < 115 ∧
      115 ≤ bits (0x736F6E#32).toNat 23 16) ∧
    (State.reset.noHolder = true ∧ State.reset.busIdle = true ∧ State.reset.sound = true ∧ State.reset.pwr ≠ 3) := by
  decide +kernel

/-- Reeve A holds the lease, and every die sensor is corrected by an offset within its range. -/
def Tests.warm : State :=
  { Tests.lease 4 with regs := (Tests.lease 4).regs ++ (List.range 16).map fun i => (calUser.key (104 + i) 0, 0x40000000) }

/-- Die sensors that read 25 °C, corrected by whatever the factory calibration and the offset of 0 give, and towers of
100 °C: the towers are the hottest. -/
theorem Tests.witness_RailsAndHeat_poll :
    ∃ (d : List (Option (BitVec 16))) (h : List Byte) (m : Int), Tests.warm.sound = true ∧
      Tests.warm.noHolder = false ∧ Tests.warm.pwr ≠ 3 ∧
      (∀ i x, i < 16 → Tests.warm.dieTemp i (nth d i none) = some x → x ≤ m) ∧
      (∀ i < 16, (Tests.warm.dieTemp i (nth d i none)).isSome = true) ∧
      (∀ x < 4, x < h.length ∧ 4 * sext 8 (nth h x 0).toNat ≤ m) ∧ (∃ x < 4, 4 * sext 8 (nth h x 0).toNat = m) ∧
      m < 4 * (Tests.warm.get thermCfgShut : Int) := by
  have cal : ∀ i < 16, Tests.warm.reg calUser (104 + i) 0 = 0x40000000 ∧ calRange (104 + i) = (-128, 127) := by decide +kernel
  have bound : ∀ i < 16, -128 ≤ (calEffective (104 + i) (Tests.warm.reg calUser (104 + i) 0)).1 ∧
      (calEffective (104 + i) (Tests.warm.reg calUser (104 + i) 0)).1 ≤ 127 := by
    intro i hi
    have hk : bits 0x40000000 31 30 = 1 := by decide
    rw [(cal i hi).1]
    simp only [calEffective, (cal i hi).2, hk, clampInt]
    norm_num
    split <;> (try split) <;> constructor <;> omega
  have temp : ∀ i < 16, Tests.warm.dieTemp i (nth (List.replicate 16 (some (100 : BitVec 16))) i none) =
      some (100 + (calEffective (104 + i) (Tests.warm.reg calUser (104 + i) 0)).1) := by
    intro i hi
    have hn : nth (List.replicate 16 (some (100 : BitVec 16))) i none = some 100 := by revert i; decide
    have hb := bound i hi
    have h100 : (100 : BitVec 16).toInt = 100 := by decide
    simp only [State.dieTemp, hn, Option.bind_some, h100]
    rw [if_neg (by omega)]
  refine ⟨List.replicate 16 (some 100), List.replicate 4 100, 400, by decide +kernel, by decide +kernel, by decide +kernel,
    ?_, fun i hi => by rw [temp i hi]; rfl, by decide +kernel, ⟨3, by decide, by decide +kernel⟩, by decide +kernel⟩
  intro i x hi hx
  have hb := bound i hi
  rw [temp i hi] at hx
  cases hx
  omega

theorem Tests.witness_PowerStatesMove :
    (∀ x < 3, let s := (Tests.lease 4).set pwrStateState x
     s.sound = true ∧ s.ordered = true ∧ s.lets Tests.h0 (pwrCmd.key 0 0) ∧ s.noHolder = false ∧ s.power.cmd = none ∧
     s.pwr = x ∧ (∀ i < 52, (s.seq i).st = .off) ∧ (∀ n < 8, s.pstate n = 0) ∧ (∀ p < 2, s.get egrpStatState p = 0) ∧
     s.on tickCtrlRun = false) ∧
    (State.reset.noHolder = true ∧ State.reset.power.cmd = none ∧ State.reset.lets Tests.h0 (pwrCmd.key 0 0) ∧
      State.reset.pwr = 0) ∧
    (let s := { Tests.lease 4 with seqs := [(51, { st := .run })] }
     s.sound = true ∧ s.lets Tests.h0 (pwrCmd.key 0 0) ∧ s.pwr = 0 ∧ ∃ i < 52, (s.seq i).st = .run) ∧
    (let s := ((Tests.lease 4).set pwrStateState 1).set tickCtrlRun 1
     s.sound = true ∧ s.pwr = 1 ∧ s.on tickCtrlRun = true) ∧
    (∀ x ∈ [2, 3], let s := ((Tests.lease 4).set pwrStateState x).set pwrWakeSeconds 1
     s.sound = true ∧ s.ordered = true ∧ s.get pwrWakeSeconds ≠ 0 ∧ s.noHolder = false ∧ s.busIdle = false ∧ s.pwr = x) ∧
    (∀ x ∈ [2, 3], let s := (State.reset.set pwrStateState x).set pwrWakeSeconds 1
     s.sound = true ∧ s.ordered = true ∧ s.get pwrWakeSeconds ≠ 0 ∧ s.noHolder = true ∧ s.busIdle = true ∧ s.pwr = x) ∧
    (State.reset.get pwrWakeSeconds = 0) := by decide +kernel

/-- Reeve A holds the lease, KEY and LEN are as given, and the store holds key 3, a command waiting. -/
def Tests.peat (key len : Nat) (op : Option Nat) : State :=
  { ((Tests.lease 4).set peatKeyValue key).set peatLenValue len with
    peat := { half0 := ⟨some 0, [⟨3, 1, some [7]⟩]⟩, seq := 1, cmd := op } }

theorem Tests.witness_PeatKeeps :
    ((Tests.peat 3 1 none).sound = true ∧ (Tests.peat 3 1 none).lets Tests.h0 (peatCmd.key 0 0) ∧
      (Tests.peat 3 1 none).on peatStatBusy = false ∧ ((Tests.peat 3 1 none).set peatStatBusy 1).on peatStatBusy = true) ∧
    ((Tests.peat 3 1 (some 1)).busIdle = false ∧ (Tests.peat 3 1 (some 1)).ordered = true ∧
      (Tests.peat 3 1 (some 1)).peat.value 3 = some [7] ∧
      (Tests.peat 4 1 (some 1)).peat.value ((Tests.peat 4 1 (some 1)).get peatKeyValue) = none) ∧
    (∀ op ∈ [1, 2, 3, 4], (Tests.peat 3 4064 (some op)).sound = true ∧ (Tests.peat 3 4064 (some op)).peat.cmd = some op ∧
      keyWritable ((Tests.peat 3 4064 (some op)).get peatKeyValue) = true ∧ (Tests.peat 3 4064 (some op)).get peatLenValue ≤ 4064 ∧
      (Tests.peat 3 4064 (some op)).liveBytes ((Tests.peat 3 4064 (some op)).get peatLenValue) ≤ 8388608) ∧
    (keyWritable ((Tests.peat 1 1 (some 2)).get peatKeyValue) = false ∧
      4064 < (Tests.peat 3 4065 (some 2)).get peatLenValue) ∧
    (State.reset.peat.cmd = none ∧ State.reset.busIdle = true) ∧
    (let s := (Tests.peat 3 1 none).set tbStateHoldValid 1
     s.sound = true ∧ s.ordered = true ∧ s.busIdle = false ∧ s.power.inReset = false ∧ s.on tbStateHoldValid = true) ∧
    State.reset.lets Tests.h0 (calUser.key 130 0) := by decide +kernel


theorem Tests.witness_ResetsReturn :
    (State.reset.feedOn .a = false ∧ State.reset.feedOn .b = false ∧ (Tests.lease 4).feedOn .b = true) ∧
    (State.reset.sound = true ∧ State.reset.ordered = true ∧ State.reset.power.inReset = false ∧
      State.reset.lets Tests.h0 (rstCmd.key 0 0) ∧ State.reset.pwr ≠ 3 ∧ State.reset.mayRelease = false ∧
      State.reset.busIdle = true ∧ ∀ b < 12, (State.reset.seq (12 * (3 : Fin 4) + b)).st.idle = true) ∧
    (let s := { Tests.lease 4 with power := { inReset := true, restore := true }, peat := (Tests.peat 3 1 none).peat }
     s.sound = true ∧ s.mayRelease = true ∧ s.power.restore = true ∧ s.pwr ≠ 4) ∧
    (let s := { (Tests.lease 4).set pwrStateState 3 with power := { pinLow := true, inReset := true } }
     s.sound = true ∧ s.pwr = 3 ∧ s.power.pinLow = true ∧ s.busIdle = false ∧ s.power.perstLow = false) ∧
    (let s := { State.reset.set pwrStateState 3 with power := { perstLow := true, inReset := true } }
     s.sound = true ∧ s.pwr = 3 ∧ s.power.perstLow = true ∧ s.busIdle = true) ∧
    (let s := { Tests.lease 4 with power := { inReset := true, railsOn := 0 } }
     s.sound = true ∧ s.busIdle = false ∧ s.power.inReset = true ∧ s.pwr ≠ 3 ∧ s.power.railsOn ≠ 127) ∧
    (let s := { (Tests.lease 4).set pwrStateState 3 with power := { inReset := true, woken := true } }
     s.sound = true ∧ s.busIdle = false ∧ s.power.inReset = true ∧ s.pwr = 3 ∧ s.power.woken = true ∧ s.power.pinLow = false ∧
     s.power.perstLow = false) := by decide +kernel

theorem Tests.witness_ResetsReturn_programs :
    (∃ b < 12, ((Tests.seq 47 .run).seq (12 * (3 : Fin 4) + b)).st.idle = false) ∧
    ((Tests.seq 47 .run).lets Tests.h0 (rstCmd.key 0 0) ∧ (Tests.seq 47 .run).sound = true ∧ (Tests.seq 47 .run).ordered = true) ∧
    (∀ x ∈ [SeqState.off, .init, .run, .ended, .halted, .fault], (Tests.seq 51 x).sound = true ∧
      (Tests.seq 51 x).ordered = true ∧ (Tests.seq 51 x).lets Tests.h0 (rstCmd.key 0 0) ∧ ((Tests.seq 51 x).seq 51).st = x ∧
      bit (8#4).toNat (51 - 48) = true) ∧
    (let s := { State.reset with seqs := [(47, { st := .run, dying := true }), (51, { st := .run, dying := true })] }
     s.ordered = true ∧ (s.seq 51).dying = true ∧ (s.seq 47).dying = true ∧ s.blockQuiet 47 = true ∧ (s.seq 46).dying = false) := by
  decide +kernel

/-! ## Witnesses: host and events -/

theorem Tests.witness_HostPort :
    (State.reset.sound = true ∧ State.reset.ordered = true ∧ State.reset.power.inReset = false ∧ 1 ≤ (5#4).toNat ∧
      (5#4).toNat ≤ 5 ∧ ¬ (6#4).toNat ≤ 5) ∧
    (let r := { Tests.reqAt 0x800000000000 (.read 1) 1 2 with ten := 0 }
     let s := { State.reset with targets := [(2, [r])] }
     s.sound = true ∧ s.ordered = true ∧ r ∈ s.targets.flatMap (·.2) ++ s.inFlight ∧ r.target = 2 ∧ initUnit r.init = none) ∧
    (∀ x ∈ [SeqState.run, .ended, .halted, .init], ((Tests.seq 51 x).seq (48 + (3 : Fin 4))).st = x ∧ (Tests.seq 51 x).sound = true) ∧
    (let s := { Tests.dram 0 with marks := [(0x1FFFFFFFF / 8, some .clean)] }
     s.sound = true ∧ s.pwr ≠ 3 ∧ s.pwr ≠ 2 ∧ bit s.d3hot.toNat 0 = false ∧
     0x1FFFFFFFF = s.get hostApbaseBase (0 : Fin 4) * 2 ^ 30 + (0x1FFFFFFFF#33).toNat ∧ s.bar2Allowed 0 0x1FFFFFFFF 1 = true ∧
     s.postedOut = false ∧ s.hostReads = [] ∧ s.hostBehind 0x1FFFFFFFF (.read 1) = false ∧ s.readable 0x1FFFFFFFF 1 ∧
     s.hostBehind 0x1FFFFFFFF (.write [1]) = false ∧ s.bar2Allowed 1 0x1FFFFFFFF 1 = false) ∧
    (let s := { Tests.dram 0 with hostReads := [(0, 0, 1)] }
     s.hostReads ≠ [] ∧ s.bar2Allowed 0 0 1 = true) ∧
    ((Tests.dram 0).set pwrStateState 2).pwr = 2 ∧
    (let x := parseTen ((List.range 8).flatMap fun i => leBytes 4 (State.reset.get tenRecWord i))
     State.reset.tenRefusal (3 : Fin 4) x = 0 ∧ x.assign = false ∧ State.reset.lets Tests.h0 (tenCmd.key 0 0)) ∧
    (let s := State.reset.set tenRecWord 1 5
     let x := parseTen ((List.range 8).flatMap fun i => leBytes 4 (s.get tenRecWord i))
     s.sound = true ∧ s.ordered = true ∧ s.tenRefusal (3 : Fin 4) x = 0 ∧ x.assign = true) ∧
    (let s := State.reset.set tenRecWord 1 7
     let x := parseTen ((List.range 8).flatMap fun i => leBytes 4 (s.get tenRecWord i))
     s.sound = true ∧ s.ordered = true ∧ s.tenRefusal (3 : Fin 4) x ≠ 0) := by decide +kernel

/-- Source 448 of class `c` towards `g`, enabled, its vector 448 of function 0 unmasked. -/
def Tests.source (c g : Nat) : State :=
  ((((State.reset.set evtCfgClass c 448).set evtCfgTarget g 448).set evtEnEn 1 14).set pciMsixEnable 1 0).set
    msixEntryValue 0 0 (4 * 448 + 3)

theorem Tests.witness_EventsDeliver :
    (∀ c ∈ [0, 1, 2], ∀ g ∈ [0, 1, 2], let s := Tests.source c g
     s.sound = true ∧ s.ordered = true ∧ s.lets Tests.h0 (Sys2Proof.Machine.evtRaise.key 0 0) ∧
     evtListed (448#9).toNat = true ∧ s.get evtCfgFn 448 = 0 ∧ s.get evtCfgVec 448 = 448 ∧ s.evtEnabled 448 = true ∧
     s.evtOn 448 = false ∧ s.evtClass 448 = c ∧ s.evtTarget 448 = g ∧ s.msixOn 0 = true ∧
     s.on pciMsixMask 0 = false ∧ (s.noteQ 0).used + 2 ≤ 2048) ∧
    (evtListed (11#9).toNat = false ∧ (Tests.source 1 1).msixMasked 0 448 = false ∧
      ((Tests.source 1 1).set pciMsixMask 1 0).on pciMsixMask 0 = true ∧ State.reset.msixMasked 0 448 = true) ∧
    (let s := ((Tests.source 1 1).set evtEnEn 0 14).set evtStatStatus 1 14
     s.sound = true ∧ s.lets Tests.h0 (evtEn.key 14 0) ∧ Tests.two.admitted ⟨.bar0, 2⟩ (evtEn.key 14 0) = false ∧ evtListed (32 * 14 + 0) = true ∧ evtListed (32 * 0 + 11) = false ∧
     s.evtOn (32 * 14 + 0) = true ∧ bit (s.reg evtEn 14 0) 0 = false ∧ bit (1#32).toNat 0 = true ∧
     s.evtClass (32 * 14 + 0) = 1 ∧ s.evtTarget (32 * 14 + 0) = 1 ∧ s.msixOn (s.get evtCfgFn (32 * 14 + 0)) = true) ∧
    (let s := { Tests.source 1 1 with msiPend := [(0, 448)] }
     s.sound = true ∧ s.power.inReset = false ∧ (((0 : Fin 4) : Nat), 448) ∈ s.msiPend ∧ s.get evtCfgVec 448 = (448#9).toNat ∧
     s.msixOn 0 = true ∧ s.on pciMsixMask 0 = false ∧ s.msixMasked 0 (s.get evtCfgVec 448) = false) ∧
    (let s := ((Tests.source 1 1).set pciMsixEnable 0 0).set evtStatStatus 1 14
     s.sound = true ∧ s.on pciMsixEnable 0 = false ∧ bit s.d3hot.toNat 0 = false ∧ s.on pciMsixMask 0 = false ∧
     s.evtOn 448 = true ∧ s.evtEnabled 448 = true ∧ s.evtClass 448 = 1 ∧ s.evtTarget 448 = 1 ∧ s.get evtCfgFn 448 = 0 ∧
     s.msixMasked 0 (s.get evtCfgVec 448) = false) ∧
    bit ({ State.reset with d3hot := 8 } : State).d3hot.toNat (3 : Fin 4) = true := by decide +kernel

theorem Tests.witness_StepKeepsSound :
    State.reset.sound = true ∧ State.reset.ordered = true ∧ step State.reset = .next (State.reset.elapse 1) :=
  ⟨by decide +kernel, by decide +kernel, rfl⟩

/-! ## The spec's worked numbers -/

/-- R174's example: lanes of 70,000 and −3 to width 16. -/
theorem Tests.test_vmovs_example :
    let a : VReg := ⟨[70000#32, BitVec.ofInt 32 (-3)] ++ List.replicate 30 0, 1⟩
    let o := vmovs 5 16 a
    o.vec.map (fun x => (x.1, x.2.e, x.2.lanes.head?)) = some (5, 3, some 0xFFFF445C#32) ∧
      o.sat = 0 := by decide +kernel

/-- R93's worked example: a delay of 32 ns gives channel c a phase of 64c of 16,384. -/
theorem Tests.test_delay_example :
    let s := { State.reset with f0 := [(0, 549755813888)] }
    s.phasorIndex 0 0 274877906944 = 0 ∧ s.phasorIndex 0 1 274877906944 = 64 ∧
      s.phasorIndex 0 256 274877906944 = 0 := by decide +kernel

/-- R203's example: s4 := 0x3FFF_ABCD from LI, LUI and OR. -/
theorem Tests.test_constant_example :
    decodeS false 0x0914ABCD = some (.const .li (.s 5) 0xABCD#32) ∧
    decodeS false 0x0A103FFF = some (.const .lui (.s 4) 0x3FFF0000#32) ∧
    aluOp .or 0x3FFF0000 0xABCD = 0x3FFFABCD := by decide +kernel

/-- The AES-GMAC tag of one published vector (SP 800-38D test data), 16 bytes of data under a 128-bit key. -/
theorem Tests.test_gmac_vector :
    aesGmac (BitVec.ofNat 256 (leVal (beBytes 16 0x77be63708971c4e240d1cb79e8d77feb))) false
      (beBytes 12 0xe0e00f19fed7ba0136a797f3) (beBytes 16 0x7a43ec1d9c0a5a78a0b16533a6213cab) =
      0x209fcc8d3675ed938e9c7166709dd946 := by decide +kernel

end Sys2Proof
end

section
/-! ## Fields of registers: what a write of one leaves in another -/
namespace Sys2Proof

/-- `setBits` with the number cut at the field's two ends. -/
theorem setBits_eq (v hi lo x : Nat) (h : lo ≤ hi) :
    setBits v hi lo x = v % 2 ^ lo + 2 ^ lo * (x % 2 ^ (hi + 1 - lo)) + 2 ^ (hi + 1) * (v / 2 ^ (hi + 1)) := by
  have hp : 2 ^ (hi + 1) = 2 ^ lo * 2 ^ (hi + 1 - lo) := by rw [← pow_add]; congr 1; omega
  have hv : v = v % 2 ^ lo + 2 ^ lo * bits v hi lo + 2 ^ (hi + 1) * (v / 2 ^ (hi + 1)) := by
    have h1 := Nat.mod_add_div v (2 ^ lo)
    have h2 := Nat.mod_add_div (v / 2 ^ lo) (2 ^ (hi + 1 - lo))
    rw [Nat.div_div_eq_div_mul, ← hp] at h2
    rw [bits, hp, Nat.mul_assoc, Nat.add_assoc, ← Nat.mul_add, ← hp, h2, h1]
  unfold setBits
  rw [Nat.mul_comm (bits v hi lo), Nat.mul_comm (x % _)]
  omega

/-- Bits below a replaced field keep their value. -/
theorem bits_setBits_below (v hi lo x hi' lo' : Nat) (h : lo ≤ hi) (hl : lo' ≤ hi') (hd : hi' < lo) :
    bits (setBits v hi lo x) hi' lo' = bits v hi' lo' := by
  have hp : 2 ^ (hi + 1) = 2 ^ lo * 2 ^ (hi + 1 - lo) := by rw [← pow_add]; congr 1; omega
  have hm : setBits v hi lo x % 2 ^ lo = v % 2 ^ lo := by
    rw [setBits_eq v hi lo x h, hp, Nat.mul_assoc, Nat.add_mul_mod_self_left, Nat.add_mul_mod_self_left, Nat.mod_mod]
  rw [← bits_mod _ lo _ _ hd hl, hm, bits_mod _ _ _ _ hd hl]

/-- Bits above a replaced field keep their value. -/
theorem bits_setBits_above (v hi lo x hi' lo' : Nat) (h : lo ≤ hi) (hd : hi < lo') :
    bits (setBits v hi lo x) hi' lo' = bits v hi' lo' := by
  have hp : 2 ^ (hi + 1) = 2 ^ lo * 2 ^ (hi + 1 - lo) := by rw [← pow_add]; congr 1; omega
  have hq : setBits v hi lo x / 2 ^ (hi + 1) = v / 2 ^ (hi + 1) := by
    have h1 : v % 2 ^ lo < 2 ^ lo := Nat.mod_lt _ (by positivity)
    have h2 : x % 2 ^ (hi + 1 - lo) < 2 ^ (hi + 1 - lo) := Nat.mod_lt _ (by positivity)
    have h3 : v % 2 ^ lo + 2 ^ lo * (x % 2 ^ (hi + 1 - lo)) < 2 ^ (hi + 1) := by
      have := Nat.mul_le_mul_left (2 ^ lo) (Nat.succ_le_of_lt h2)
      rw [Nat.mul_succ, ← hp] at this
      omega
    rw [setBits_eq v hi lo x h, Nat.add_mul_div_left _ _ (by positivity), Nat.div_eq_of_lt h3, Nat.zero_add]
  have hc : 2 ^ lo' = 2 ^ (hi + 1) * 2 ^ (lo' - (hi + 1)) := by rw [← pow_add]; congr 1; omega
  rw [bits, bits, hc, ← Nat.div_div_eq_div_mul, hq, Nat.div_div_eq_div_mul]

/-- A field's value fits the field. -/
theorem bits_mod_width (v hi lo : Nat) : bits v hi lo % 2 ^ (hi + 1 - lo) = bits v hi lo := Nat.mod_mod _ _

/-- A one-bit field as the bit it holds. -/
theorem bits_bit (v i : Nat) : bits v i i = b2n (bit v i) := by
  have h : v / 2 ^ i % 2 < 2 := Nat.mod_lt _ (by decide)
  simp only [bits, bit, b2n, Nat.add_sub_cancel_left, pow_one, decide_eq_true_eq]
  split <;> omega

namespace Machine

/-- Two fields of one register that share no bit. -/
abbrev RField.apart (f g : RField) : Prop := f.reg = g.reg ∧ (g.hi < f.lo ∨ f.hi < g.lo)

/-- A field's bits lie within its register. -/
abbrev RField.fits (f : RField) : Prop := f.lo ≤ f.hi ∧ f.hi < f.reg.width

/-- A field keeps its value when another field of its register is written. -/
theorem State.get_set_apart (s : State) (f g : RField) (v i j : Nat) (h : Sparse.rising s.regs = true) (hf : f.fits)
    (hg : g.fits) (hd : f.apart g) : (s.set f v i j).get g i j = s.get g i j := by
  obtain ⟨hreg, hd⟩ := hd
  obtain ⟨hf, -⟩ := hf
  obtain ⟨hg, hw⟩ := hg
  show bits ((s.setReg f.reg i j _).reg g.reg i j) g.hi g.lo = bits (s.reg g.reg i j) g.hi g.lo
  rw [← hreg] at hw ⊢
  rw [State.reg_setReg_same s _ _ _ _ h, bits_mod _ _ _ _ hw hg]
  rcases hd with hd | hd
  · exact bits_setBits_below _ _ _ _ _ _ hf hg hd
  · exact bits_setBits_above _ _ _ _ _ _ hf hd

/-- A register outside those that may change keeps its fields. -/
theorem State.regsKept.get {s t : State} {p : Nat → Bool} (h : s.regsKept t p) (f : RField) (i j : Nat)
    (hp : p (f.reg.key i j) = false) : t.get f i j = s.get f i j := by
  show bits (t.reg f.reg i j) _ _ = bits (s.reg f.reg i j) _ _
  rw [State.reg, h _ _ hp]; rfl

theorem State.regsKept.on {s t : State} {p : Nat → Bool} (h : s.regsKept t p) (f : RField) (i j : Nat)
    (hp : p (f.reg.key i j) = false) : t.on f i j = s.on f i j := by
  show decide (t.get f i j = 1) = decide (s.get f i j = 1)
  rw [h.get f i j hp]

theorem State.regsKept_set (s : State) (f : RField) (v i j : Nat) (p : Nat → Bool) (h : p (f.reg.key i j) = true) :
    s.regsKept (s.set f v i j) p := s.regsKept_setReg _ _ _ _ _ h

end Machine
end Sys2Proof
end

section
/-! ## Rejected writes and commits (R34, R37, R366) -/
namespace Sys2Proof.Machine

/-- Setting a one-bit status field leaves it set. -/
theorem State.on_setW1c (s : State) (f : RField) (i j : Nat) (hf : f.hi = f.lo) (hw : f.hi < f.reg.width)
    (hr : Sparse.rising s.regs = true) : (s.setW1c f i j).on f i j = true := by
  show decide (bits ((s.setReg f.reg i j _).reg f.reg i j) f.hi f.lo = 1) = true
  rw [State.reg_setReg_same _ _ _ _ _ hr, hf, bits_bit, bit_or _ _ _ _ (hf ▸ hw)]
  simp [b2n]

theorem eventReg_evtReject (f : Fin 4) : eventReg (evtReject.key f 0) = false := by
  revert f; decide

/-- `s` with the rejected write of `w` to `off` captured. -/
def State.captured (s : State) (w : Who) (off : Nat) : State :=
  ((s.setW1c evtRejectValid w.fn).set evtRejectPath (pathCode w.path) w.fn).set evtRejectAddr off w.fn

theorem State.reject_eq (s : State) (w : Who) (off : Nat) :
    s.reject w off = if s.on evtRejectValid w.fn then s.raise (48 + w.fn.val)
      else (s.raise (48 + w.fn.val)).captured w off := by
  have h : (s.raise (48 + w.fn.val)).on evtRejectValid w.fn = s.on evtRejectValid w.fn :=
    (s.raised _).kept.on evtRejectValid _ _ (eventReg_evtReject w.fn)
  rw [← h]; rfl

/-- What the capture register shows of a rejected write. -/
theorem State.captured_shows (s : State) (w : Who) (off : Nat) (hr : Sparse.rising s.regs = true) :
    (s.captured w off).on evtRejectValid w.fn = true ∧
      (s.captured w off).get evtRejectPath w.fn = pathCode w.path ∧
      (s.captured w off).get evtRejectAddr w.fn = off % 2 ^ 48 := by
  have hr1 : Sparse.rising (s.setW1c evtRejectValid w.fn).regs = true := s.setReg_rising _ _ _ _ hr
  have hr2 := State.set_rising _ evtRejectPath (pathCode w.path) w.fn 0 hr1
  refine ⟨?_, ?_, State.get_set_same _ _ _ _ _ hr2 (by decide) (by decide)⟩
  · show decide (State.get _ evtRejectValid w.fn 0 = 1) = true
    rw [State.captured, State.get_set_apart _ evtRejectAddr evtRejectValid _ _ _ hr2 (by decide) (by decide) ⟨rfl, by decide⟩,
      State.get_set_apart _ evtRejectPath evtRejectValid _ _ _ hr1 (by decide) (by decide) ⟨rfl, by decide⟩]
    exact s.on_setW1c evtRejectValid _ _ rfl (by decide) hr
  · rw [State.captured, State.get_set_apart _ evtRejectAddr evtRejectPath _ _ _ hr2 (by decide) (by decide) ⟨rfl, by decide⟩]
    refine (State.get_set_same _ _ _ _ _ hr1 (by decide) (by decide)).trans (Nat.mod_eq_of_lt ?_)
    cases w.path <;> decide

theorem State.captured_kept (s : State) (w : Who) (off : Nat) (p : Nat → Bool) (h : p (evtReject.key w.fn 0) = true) :
    s.regsKept (s.captured w off) p :=
  State.regsKept_trans (State.regsKept_trans (s.regsKept_setReg _ _ _ _ _ h) (State.regsKept_set _ _ _ _ _ _ h))
    (State.regsKept_set _ _ _ _ _ _ h)

/-- A rejected write does what R366 says, and no more. -/
theorem State.refused_reject {s : State} (w : Who) (off : Nat) (hs : s.sound = true) (hp : s.power.inReset = false) :
    s.refused (s.reject w off) w off := by
  have hr := State.sound_rising hs
  have hraised := s.raised (48 + w.fn.val)
  have hk : s.regsKept (s.raise (48 + w.fn.val)) fun k => eventReg k || decide (k = evtReject.key w.fn 0) :=
    State.regsKept_mono hraised.kept fun k hk => by simp [hk]
  have hreg := hraised.reg evtReject w.fn 0 (eventReg_evtReject w.fn)
  have hon := hraised.kept.on evtRejectValid w.fn 0 (eventReg_evtReject w.fn)
  refine ⟨⟨(s.reject_spec w off).1, ?_⟩, s.reject_on w off hp hr, ?_⟩ <;> rw [State.reject_eq]
  · split
    · exact hk
    · exact State.regsKept_trans hk (State.captured_kept _ _ _ _ (by simp))
  · split
    · next hv => exact ⟨hon.trans hv, fun _ => hreg, fun h => absurd hv (by simp [h])⟩
    · next hv =>
      obtain ⟨hvalid, hpath, haddr⟩ := (s.raise (48 + w.fn.val)).captured_shows w off (hraised.rising hr)
      exact ⟨hvalid, fun h => absurd h hv, fun _ => ⟨hpath, haddr⟩⟩

theorem State.commit_open {s : State} (b : Table) (h : s.on tickStatusSealed = false) :
    s.commit b = { s with tick := { s.tick with
      swapNext := if b ∈ s.tick.swapNext then s.tick.swapNext else s.tick.swapNext ++ [b] } } := by
  simp [State.commit, h]

theorem State.commit_sealed {s : State} (b : Table) (h : s.on tickStatusSealed = true) :
    s.commit b = ({ s with tick := { s.tick with
      swapThen := if b ∈ s.tick.swapThen then s.tick.swapThen else s.tick.swapThen ++ [b] } } : State).raise 130 := by
  simp [State.commit, h]

theorem State.unanswered_of_not_bridge (s : State) (off : Nat) (h : bridgeWindow off = false) : s.unanswered off = false := by
  simp [State.unanswered, h]

/-- A write of `TICK.COMMIT` that is let through acts on the tables its writer may commit, and is rejected for the
others. -/
theorem State.writeCommit_admitted {s : State} (w : Who) (v : Nat) (hr : s.reachable w (tickCommit.key 0 0) = true)
    (ha : s.admitted w (tickCommit.key 0 0) = true) :
    s.writeCommit w v = if (bit v 0 || bit v 1) && w.fn.val ≠ 0
      then (s.commitBits w.fn v).reject w (tickCommit.key 0 0) else s.commitBits w.fn v :=
  s.guarded_ok w _ _ hr (s.unanswered_of_not_bridge _ rfl) ha

/-- Each of the four commit commands, by a writer that may use it, commits its table. -/
theorem exec_commit {s : State} {w : Who} {c : Instr} {b : Table}
    (hc : (c = .commitEq w ∧ b = .eq ∧ w.fn = 0) ∨ (c = .commitDly w ∧ b = .dly ∧ w.fn = 0) ∨
      (c = .commitBw w ∧ b = .bw w.fn) ∨ (c = .commitWt w ∧ b = .wt w.fn))
    (hr : s.reachable w (tickCommit.key 0 0) = true) (ha : s.admitted w (tickCommit.key 0 0) = true) :
    exec c s = .next (s.commit b) := by
  rcases hc with ⟨rfl, rfl, hf⟩ | ⟨rfl, rfl, hf⟩ | ⟨rfl, rfl⟩ | ⟨rfl, rfl⟩
  · exact congrArg _ ((State.writeCommit_admitted w 1 hr ha).trans (by simp [hf, State.commitBits, bit]))
  · exact congrArg _ ((State.writeCommit_admitted w 2 hr ha).trans (by simp [hf, State.commitBits, bit]))
  · exact congrArg _ ((State.writeCommit_admitted w 4 hr ha).trans (by simp [State.commitBits, bit]))
  · exact congrArg _ ((State.writeCommit_admitted w 8 hr ha).trans (by simp [State.commitBits, bit]))

/-- A commit of the equaliser gains or the delay polynomials by a tenancy other than 0 is rejected, whether or not the
tenancy is assigned. -/
theorem exec_commit_denied {s : State} {w : Who} {c : Instr} (hc : c = .commitEq w ∨ c = .commitDly w)
    (hf : w.fn ≠ 0) (hr : s.reachable w (tickCommit.key 0 0) = true) :
    exec c s = .next (s.reject w (tickCommit.key 0 0)) := by
  have hv : w.fn.val ≠ 0 := fun h => hf (Fin.ext h)
  cases ha : s.admitted w (tickCommit.key 0 0) with
  | false =>
    rcases hc with rfl | rfl <;> exact congrArg _ (s.guarded_refused w _ _ _ hr (s.unanswered_of_not_bridge _ rfl) ha)
  | true =>
    rcases hc with rfl | rfl
    · exact congrArg _ ((State.writeCommit_admitted w 1 hr ha).trans (by simp [hv, State.commitBits, bit]))
    · exact congrArg _ ((State.writeCommit_admitted w 2 hr ha).trans (by simp [hv, State.commitBits, bit]))

/-- Settles O6: a commit command is a `State.commit` of its table where R37 allows it and a rejected write where it does
not, and `State.commit` puts the swap where R34 says. -/
theorem commitsPend : Obligations.CommitsPend := by
  unfold Obligations.CommitsPend
  refine ⟨fun s w c b hc hr ha => ⟨fun ho => ?_, fun hsealed hs => ?_⟩, fun s w c hs hc hf hr => ?_⟩
  · rw [exec_commit hc hr ha, State.commit_open b ho]
  · refine ⟨_, exec_commit hc hr ha, ?_⟩
    rw [State.commit_sealed b hsealed]
    refine ⟨State.raise_on _ _ rfl (State.reachable_reset hr) (State.sound_rising hs), (State.raised _ 130).same, ?_⟩
    exact State.regsKept_mono (State.raised _ 130).kept fun k hk => by simp [hk]
  · exact ⟨_, exec_commit_denied hc hf hr, State.refused_reject w _ hs (State.reachable_reset hr)⟩

end Sys2Proof.Machine
end

section
/-! ## The passing of core cycles (R208, R298, R299, R304, R314) -/
namespace Sys2Proof.Machine

/-- From `s` to `t` the clocks have moved: the timebase, the regions' time counters, and what they raise. -/
structure State.Clocked (s t : State) : Prop where
  same : t = { s with
    regs := t.regs, tb := t.tb, nsHold := t.nsHold, notes := t.notes, msiPend := t.msiPend, msiSent := t.msiSent
    tick := { s.tick with passed := t.tick.passed } }
  kept : s.regsKept t fun k => eventReg k || timeReg k
  rising : Sparse.rising s.regs = true → Sparse.rising t.regs = true

namespace State.Clocked

theorem refl (s : State) : s.Clocked s := ⟨rfl, s.regsKept_refl _, id⟩

theorem trans {s t u : State} (h : s.Clocked t) (k : t.Clocked u) : s.Clocked u where
  same := by rw [k.same, h.same]
  kept := State.regsKept_trans h.kept k.kept
  rising := fun r => k.rising (h.rising r)

theorem foldl {α : Type} (f : State → α → State) (l : List α) (h : ∀ (s : State), ∀ x ∈ l, s.Clocked (f s x)) (s : State) :
    s.Clocked (l.foldl f s) := by
  induction l generalizing s with
  | nil => exact refl s
  | cons x l ih => exact (h s x (List.mem_cons_self ..)).trans (ih (fun s y hy => h s y (List.mem_cons_of_mem _ hy)) _)

theorem setReg (s : State) (r : RegDef) (i j v : Nat) (h : timeReg (r.key i j) = true) : s.Clocked (s.setReg r i j v) :=
  ⟨rfl, s.regsKept_setReg _ _ _ _ _ (by simp [h]), s.setReg_rising _ _ _ _⟩

theorem setTb {s t : State} (h : s.Clocked t) (x : Timebase) : s.Clocked { t with tb := x } :=
  h.trans ⟨rfl, t.regsKept_refl _, id⟩

theorem raise (s : State) (src : Nat) : s.Clocked (s.raise src) where
  same := by rw [(s.raised src).same]
  kept := State.regsKept_mono (s.raised src).kept fun k hk => by simp [hk]
  rising := (s.raised src).rising

end State.Clocked

theorem State.clocked_secondCarry (s : State) : s.Clocked s.secondCarry := by
  unfold State.secondCarry
  split
  · exact ((State.Clocked.refl s).setTb _).trans (.raise _ _)
  · exact (State.Clocked.refl s).setTb _

theorem State.clocked_carries (s : State) (n : Nat) : s.Clocked (s.carries n) := by
  unfold State.carries
  split
  · exact .refl s
  · exact s.clocked_secondCarry
  · exact s.clocked_secondCarry.setTb _

theorem timeReg_tbRefPofs {x : Nat} (hx : x < 3) : timeReg (tbRefPofs.key x 0) = true := by
  have h : 0x200000 ≤ tbRefPofs.key x 0 ∧ tbRefPofs.key x 0 < 0x200300 := by
    simp only [RegDef.key, tbRefPofs]; omega
  simp [timeReg, h]

theorem State.clocked_stepped (s : State) (rest : Int) : s.Clocked (s.stepped rest) := by
  unfold State.stepped
  extract_lets d s1 _ s2 s3
  have h1 : s.Clocked s1 := State.Clocked.foldl _ _
    (fun a x hx => .setReg a _ _ _ _ (timeReg_tbRefPofs (List.mem_range.mp hx))) s
  have h3 : s.Clocked s3 := (h1.setTb _).trans (.setReg s2 tbPstepRem 0 0 _ rfl)
  split
  · exact h3.trans ((State.Clocked.setReg s3 tbStatus 0 0 _ rfl).trans (.raise _ _))
  · exact h3

theorem State.clocked_runTod (s : State) (n : Nat) : s.Clocked (s.runTod n) := by
  unfold State.runTod
  extract_lets d a _ s0 s1
  have h0 : s.Clocked s0 := ⟨rfl, s.regsKept_refl _, id⟩
  have h1 : s0.Clocked s1 := by
    unfold s1
    split
    · exact .refl _
    · exact s0.clocked_stepped _
  exact ((h0.trans h1).setTb _).trans (State.clocked_carries _ _)

theorem timeReg_rgnNs {r : Nat} (hr : r < 4) : timeReg (rgnNs.key r 0) = true := by
  simp only [timeReg, Bool.or_eq_true, List.any_eq_true]
  exact Or.inr ⟨r, List.mem_range.mpr hr, by simp⟩

theorem State.clocked_runRegion (s : State) (n : Nat) {r : Nat} (hr : r < 4) : s.Clocked (s.runRegion n r) := by
  unfold State.runRegion
  split
  · dsimp only
    split
    · exact ⟨rfl, s.regsKept_refl _, id⟩
    · exact .refl s
  · exact .setReg s rgnNs r 0 _ (timeReg_rgnNs hr)

/-- The regions' counters run where the fabric clock has ticked outside STANDBY. -/
theorem State.clocked_regions (s : State) (f : Nat) (idle : Bool) : s.Clocked
    (if idle then s else (((s.runRegion f 0).runRegion f 1).runRegion f 2).runRegion f 3) := by
  split
  · exact .refl s
  · exact (((s.clocked_runRegion f (by decide)).trans (State.clocked_runRegion _ f (by decide))).trans
      (State.clocked_runRegion _ f (by decide))).trans (State.clocked_runRegion _ f (by decide))

/-- From `s` to `t` the tick unit has accepted commits: swaps pend, and source 130 may be raised. -/
structure State.Committed (s t : State) : Prop where
  same : t = { s with
    regs := t.regs, notes := t.notes, msiPend := t.msiPend, msiSent := t.msiSent
    tick := { s.tick with swapNext := t.tick.swapNext, swapThen := t.tick.swapThen } }
  kept : s.regsKept t eventReg
  rising : Sparse.rising s.regs = true → Sparse.rising t.regs = true

namespace State.Committed

theorem refl (s : State) : s.Committed s := ⟨rfl, s.regsKept_refl _, id⟩

theorem trans {s t u : State} (h : s.Committed t) (k : t.Committed u) : s.Committed u where
  same := by rw [k.same, h.same]
  kept := State.regsKept_trans h.kept k.kept
  rising := fun r => k.rising (h.rising r)

theorem foldl {α : Type} (f : State → α → State) (h : ∀ (s : State) x, s.Committed (f s x)) (l : List α) (s : State) :
    s.Committed (l.foldl f s) := by
  induction l generalizing s with
  | nil => exact refl s
  | cons x l ih => exact (h s x).trans (ih _)

theorem ite {s t : State} (c : Prop) [Decidable c] (h : s.Committed t) : s.Committed (if c then t else s) := by
  split
  · exact h
  · exact refl s

end State.Committed

theorem State.committed_commit (s : State) (b : Table) : s.Committed (s.commit b) := by
  cases h : s.on tickStatusSealed with
  | false => rw [State.commit_open b h]; exact ⟨rfl, s.regsKept_refl _, id⟩
  | true =>
    rw [State.commit_sealed b h]
    have hr := State.raised { s with tick := { s.tick with
      swapThen := if b ∈ s.tick.swapThen then s.tick.swapThen else s.tick.swapThen ++ [b] } } 130
    refine ⟨?_, hr.kept, hr.rising⟩
    rw [hr.same]

theorem State.committed_commitBits (s : State) (t v : Nat) : s.Committed (s.commitBits t v) :=
  (((State.Committed.ite _ (s.committed_commit _)).trans (.ite _ (State.committed_commit _ _))).trans
    (.ite _ (State.committed_commit _ _))).trans (.ite _ (State.committed_commit _ _))

theorem State.committed_takeCommits (s : State) :
    ({ s with commits := s.commits.filter fun c => !decide (c.due ≤ s.cycle) } : State).Committed s.takeCommits :=
  .foldl _ (fun a _ => a.committed_commitBits _ _) _ _

theorem State.takeCommits_none {s : State} (h : s.commits = []) : s.takeCommits = { s with commits := [] } := by
  simp [State.takeCommits, h]

/-- Time passes as R208, R298 and R299 say, and nothing else happens. -/
theorem State.later_elapse (s : State) (n : Nat) : s.later (s.elapse n) n := by
  unfold State.elapse
  split
  · next h => exact ⟨by rw [if_pos h], s.regsKept_refl _, fun hc => ⟨hc, rfl, rfl⟩⟩
  · next h =>
    extract_lets u f v
    have hv : s.Clocked v := (s.clocked_runTod _).trans (State.clocked_regions u f _)
    have hcomm := State.committed_takeCommits { v with cycle := s.cycle + n }
    refine ⟨?_, ?_, fun hc => ?_⟩
    · rw [if_neg h, hcomm.same, hv.same]
    · exact State.regsKept_trans hv.kept (State.regsKept_mono hcomm.kept fun k hk => by simp [hk])
    · have hnone : v.commits = [] := by rw [hv.same]; exact hc
      rw [State.takeCommits_none (s := { v with cycle := s.cycle + n }) hnone]
      exact ⟨rfl, congrArg (·.tick.swapNext) hv.same, congrArg (·.tick.swapThen) hv.same⟩

theorem State.elapse_rising (s : State) (n : Nat) (hr : Sparse.rising s.regs = true) :
    Sparse.rising (s.elapse n).regs = true := by
  unfold State.elapse
  split
  · exact hr
  · extract_lets u f v
    have hv : s.Clocked v := (s.clocked_runTod _).trans (State.clocked_regions u f _)
    exact (State.committed_takeCommits { v with cycle := s.cycle + n }).rising (hv.rising hr)

/-- Once time has passed to cycle `c`, it is `c` or was later already. -/
theorem State.cycle_elapseTo {s : State} (c : Nat) (hp : s.power.inReset = false) :
    (s.elapseTo c).cycle = max s.cycle c := by
  have h : (s.elapseTo c).cycle = s.cycle + (c - s.cycle) := by
    rw [State.elapseTo, (s.later_elapse (c - s.cycle)).1, hp]; rfl
  omega

end Sys2Proof.Machine
end

section
/-! ## The seal point (R33, R114) -/
namespace Sys2Proof.Machine

theorem State.mem_arrivals (s : State) (f : Nat) (x : Nat × Nat) :
    x ∈ s.arrivals f ↔ x.1 ∈ s.upPorts ∧ s.arrived x.1 f = some x.2 := by
  obtain ⟨n, a⟩ := x
  simp only [State.arrivals, State.arrived, List.mem_filterMap, Option.map_eq_some_iff, Prod.mk.injEq]
  constructor
  · rintro ⟨m, hm, y, hy, rfl, rfl⟩
    exact ⟨hm, y, hy, rfl⟩
  · rintro ⟨hn, y, hy, rfl⟩
    exact ⟨n, hn, y, hy, rfl, rfl⟩

/-- As many arrivals as ports that are UP: each of them has its own. -/
theorem State.arrivals_length (s : State) (f : Nat) :
    (s.arrivals f).length = s.upPorts.length ↔ ∀ n ∈ s.upPorts, (s.arrived n f).isSome = true := by
  simp only [State.arrivals, State.arrived, List.filterMap_length_eq_length, Option.isSome_map]

theorem earliest_eq {l : List (Nat × Nat)} {e : Nat} (he : ∃ x ∈ l, x.2 = e) (hl : ∀ x ∈ l, e ≤ x.2) :
    earliest l = some e := by
  obtain ⟨x, hx, rfl⟩ := he
  refine List.min?_eq_some_iff.mpr ⟨List.mem_map_of_mem hx, fun b hb => ?_⟩
  obtain ⟨y, hy, rfl⟩ := List.mem_map.mp hb
  exact hl y hy

theorem latestOf_eq {l : List (Nat × Nat)} {a : Nat} (ha : ∃ x ∈ l, x.2 = a) (hl : ∀ x ∈ l, x.2 ≤ a) :
    latestOf l = some a := by
  obtain ⟨x, hx, rfl⟩ := ha
  refine List.max?_eq_some_iff.mpr ⟨List.mem_map_of_mem hx, fun b hb => ?_⟩
  obtain ⟨y, hy, rfl⟩ := List.mem_map.mp hb
  exact hl y hy

/-- Where no boundary is in time, no arrival counts. -/
theorem State.counted_none {s : State}
    (h : ∀ n ∈ s.upPorts, ∀ x, s.arrived n s.frame = some x → ¬ s.inTime x) : s.counted = [] := by
  have hl : ∀ x ∈ s.arrivals s.frame, ¬ s.inTime x.2 := fun x hx =>
    h x.1 ((s.mem_arrivals _ x).mp hx).1 x.2 ((s.mem_arrivals _ x).mp hx).2
  cases hc : s.on tickStatusCoasting with
  | true =>
    have hf : (s.arrivals s.frame).filter (fun x => s.skewOk x.2 s.coastAt) = [] :=
      List.filter_eq_nil_iff.mpr fun x hx => by simpa [State.inTime, hc] using hl x hx
    simp [State.counted, hc, hf, earliest]
  | false =>
    have hf : (s.arrivals s.frame).any (fun x => decide (x.2 ≤ s.coastAt)) = false :=
      List.any_eq_false.mpr fun x hx => by simpa [State.inTime, hc] using hl x hx
    simp [State.counted, hc, hf]

/-- Where the earliest boundary is in time, every arrival counts. -/
theorem State.counted_all {s : State} {e : Nat} (he : s.inTime e) (hx : ∃ n ∈ s.upPorts, s.arrived n s.frame = some e)
    (hl : ∀ n ∈ s.upPorts, ∀ x, s.arrived n s.frame = some x → e ≤ x) : s.counted = s.arrivals s.frame := by
  obtain ⟨n, hn, ha⟩ := hx
  have hmem : (n, e) ∈ s.arrivals s.frame := (s.mem_arrivals _ _).mpr ⟨hn, ha⟩
  have hle : ∀ x ∈ s.arrivals s.frame, e ≤ x.2 := fun x hx =>
    hl x.1 ((s.mem_arrivals _ x).mp hx).1 x.2 ((s.mem_arrivals _ x).mp hx).2
  cases hc : s.on tickStatusCoasting with
  | true =>
    have hok : s.skewOk e s.coastAt = true := by simpa [State.inTime, hc] using he
    have hf : earliest ((s.arrivals s.frame).filter fun x => s.skewOk x.2 s.coastAt) = some e :=
      earliest_eq ⟨_, List.mem_filter.mpr ⟨hmem, hok⟩, rfl⟩ fun x hx => hle x (List.mem_of_mem_filter hx)
    simp only [State.counted, hc, hf, if_true]
    exact List.filter_eq_self.mpr fun x hx => decide_eq_true (hle x hx)
  | false =>
    have hok : e ≤ s.coastAt := by simpa [State.inTime, hc] using he
    have hf : (s.arrivals s.frame).any (fun x => decide (x.2 ≤ s.coastAt)) = true :=
      List.any_eq_true.mpr ⟨_, hmem, decide_eq_true hok⟩
    simp [State.counted, hc, hf]

/-- The least of the moments that there are, each put forward by `g`, where the second is there. -/
theorem min?_moments (g : Nat → Nat) (p : Option Nat) (f : Nat) (c : Option Nat) :
    ([p, some f, c].filterMap fun x => x.map g).min? =
      some (min (min (p.elim (g f) g) (g f)) (c.elim (g f) g)) := by
  cases p <;> cases c <;> simp

/-- The only moment there may be is the last one. -/
theorem min?_last (g : Nat → Nat) (c : Option Nat) :
    ([none, none, c].filterMap fun x => x.map g).min? = c.map g := by
  cases c <;> simp

theorem elim_ite_some {c : Prop} [Decidable c] (x d : Nat) (g : Nat → Nat) :
    (if c then some x else none).elim d g = if c then g x else d := by
  split <;> rfl

/-- Without a boundary the seal point goes by the coast deadline, if there is one. -/
theorem State.sealAt_coast {s : State} (h : s.counted = []) :
    s.sealAt = if s.on tickCtrlCoastEn then some (s.coastAt - 5000) else none := by
  unfold State.sealAt
  extract_lets l placed forced coasted
  have hl : l = [] := h
  have hplaced : placed = none := by unfold placed; rw [hl]; split <;> rfl
  have hforced : forced = none := by unfold forced; rw [hl]; rfl
  rw [hplaced, hforced, min?_last]
  unfold coasted
  split <;> rfl

/-- 4 µs before the tick that a boundary at `a` places. -/
theorem State.tickFrom_sub (s : State) (a : Nat) : s.tickFrom a - 5000 = a + 160 * s.get feDfeSamples + 10000 := by
  unfold State.tickFrom
  omega

/-- With the boundary arrived at the ports that are UP, `e` the earliest time and `a` the latest, the seal point is the
earliest of the three moments of R33. -/
theorem State.sealAt_arrived {s : State} {e a : Nat} (he : s.inTime e)
    (hfirst : ∃ n ∈ s.upPorts, s.arrived n s.frame = some e) (hlast : ∃ n ∈ s.upPorts, s.arrived n s.frame = some a)
    (hall : ∀ n ∈ s.upPorts, ∀ x, s.arrived n s.frame = some x → e ≤ x ∧ x ≤ a) :
    s.sealAt = some (min (min (if ∀ n ∈ s.upPorts, (s.arrived n s.frame).isSome = true then a else e + s.skewMax)
        (e + s.skewMax) + 160 * s.get feDfeSamples + 10000)
      (if s.on tickCtrlCoastEn then s.coastAt - 5000 else e + s.skewMax + 160 * s.get feDfeSamples + 10000)) := by
  have hle : ∀ x ∈ s.arrivals s.frame, e ≤ x.2 ∧ x.2 ≤ a := fun x hx =>
    hall x.1 ((s.mem_arrivals _ x).mp hx).1 x.2 ((s.mem_arrivals _ x).mp hx).2
  have hmem : ∀ y, (∃ n ∈ s.upPorts, s.arrived n s.frame = some y) → ∃ x ∈ s.arrivals s.frame, x.2 = y :=
    fun y ⟨n, hn, hy⟩ => ⟨(n, y), (s.mem_arrivals _ _).mpr ⟨hn, hy⟩, rfl⟩
  have hearliest := earliest_eq (hmem e hfirst) fun x hx => (hle x hx).1
  have hlatest := latestOf_eq (hmem a hlast) fun x hx => (hle x hx).2
  unfold State.sealAt
  extract_lets l placed forced coasted
  have hl : l = s.arrivals s.frame := State.counted_all he hfirst fun n hn x hx => (hall n hn x hx).1
  have hforced : forced = some (s.tickFrom (e + s.skewMax)) := by unfold forced; rw [hl, hearliest]; rfl
  rw [hforced, min?_moments]
  unfold placed coasted
  rw [hl, hlatest, Option.map_some, elim_ite_some, elim_ite_some, s.tickFrom_sub, s.tickFrom_sub]
  simp only [State.arrivals_length]
  congr 1
  split <;> omega

/-- The registers that the ring's choice may change. -/
def choiceReg (k : Nat) : Bool :=
  eventReg k || k = mireStatus.key 0 0 || k = mireMark.key 0 0 || (List.range 64).any fun x => k = mireDir.key x 0

theorem choiceReg_mireDir {x : Nat} (hx : x < 64) : choiceReg (mireDir.key x 0) = true := by
  simp only [choiceReg, Bool.or_eq_true, List.any_eq_true]
  exact Or.inr ⟨x, List.mem_range.mpr hx, by simp⟩

/-- From `s` to `t` the ring has made its choice for the coming frame. -/
structure State.Chosen (s t : State) : Prop where
  same : t = { s with regs := t.regs, mire := t.mire, notes := t.notes, msiPend := t.msiPend, msiSent := t.msiSent }
  kept : s.regsKept t choiceReg
  made : t.mire.choice ≠ .undecided

theorem State.ringSlots_bounds (s : State) : 0 < s.ringSlots ∧ s.ringSlots ≤ 64 := by
  unfold State.ringSlots; omega

theorem State.nextSlot_lt (s : State) : s.nextSlot < 64 := by
  obtain ⟨hpos, hle⟩ := s.ringSlots_bounds
  unfold State.nextSlot
  split
  · decide
  · exact lt_of_lt_of_le (Nat.mod_lt _ hpos) hle

theorem State.chosen_none (s : State) : s.Chosen s.chooseNone := ⟨rfl, s.regsKept_refl _, nofun⟩

theorem State.chosen_slot (s : State) {x : Nat} (hx : x < 64) : s.Chosen (s.chooseSlot x) :=
  ⟨rfl, s.regsKept_setReg _ _ _ _ _ (choiceReg_mireDir hx), nofun⟩

theorem State.chosen_overtake (s : State) {x : Nat} (hx : x < 64) : s.Chosen (s.overtakeMark x) := by
  unfold State.overtakeMark
  extract_lets next
  have hmark := State.regsKept_set s mireMarkFrame next 0 0 choiceReg (by decide)
  have hlost := State.regsKept_setReg (s.set mireMarkFrame next) mireStatus 0 0
    ((s.set mireMarkFrame next).reg mireStatus 0 0 ||| 2 ^ 2) choiceReg (by decide)
  have hraised := State.raised ((s.set mireMarkFrame next).setW1c mireStatusMarkLost) 421
  have hchosen := State.chosen_slot (((s.set mireMarkFrame next).setW1c mireStatusMarkLost).raise 421) hx
  refine ⟨?_, ?_, hchosen.made⟩
  · rw [hchosen.same, hraised.same]; rfl
  · exact State.regsKept_trans (State.regsKept_trans (State.regsKept_trans hmark hlost)
      (State.regsKept_mono hraised.kept fun k hk => by simp [choiceReg, hk])) hchosen.kept

/-- The seal point leaves the ring with a choice (R114, R116, R119). -/
theorem State.chosen_mireChoice (s : State) : s.Chosen s.mireChoice := by
  have hx := s.nextSlot_lt
  unfold State.mireChoice
  extract_lets x pend
  split
  · split
    · exact s.chosen_none
    · split
      · exact s.chosen_slot hx
      · split
        · exact s.chosen_none
        · exact s.chosen_overtake hx
  · split
    · exact s.chosen_none
    · split
      · exact s.chosen_slot hx
      · split
        · exact ⟨rfl, State.regsKept_setReg s.chooseNone mireStatus 0 0 _ _ (by decide), nofun⟩
        · exact s.chosen_overtake hx

/-- From `s` to `t` time may have passed, commits been accepted, registers changed and the ring's choice been made. -/
def State.sealSame (s t : State) : Prop :=
  t = { s with
    cycle := t.cycle, regs := t.regs, tb := t.tb, nsHold := t.nsHold, commits := t.commits, notes := t.notes
    msiPend := t.msiPend, msiSent := t.msiSent, mire := t.mire, engines := t.engines
    tick := { s.tick with passed := t.tick.passed, swapNext := t.tick.swapNext, swapThen := t.tick.swapThen } }

theorem State.sealSame.trans {s t u : State} (h : s.sealSame t) (k : t.sealSame u) : s.sealSame u := by
  unfold State.sealSame at *
  rw [k, h]

theorem State.later.sealSame {s t : State} {n : Nat} (h : s.later t n) : s.sealSame t := by
  unfold State.sealSame
  rw [h.1]

theorem State.later.kept {s t : State} {n : Nat} (h : s.later t n) : s.regsKept t fun k => eventReg k || timeReg k :=
  h.2.1

/-- The state after the seal point at cycle `c`. -/
def State.sealedAt (s : State) (c : Nat) : State :=
  (((s.elapseTo (c - 1)).set tickStatusSealed 1).elapseTo c).losing State.mireChoice

theorem exec_sealPoint {s : State} {c : Nat} (hrun : s.on tickCtrlRun = true) (hseen : s.tick.seen = true)
    (hs : s.on tickStatusSealed = false) (hc : s.sealAt = some c) : exec .sealPoint s = .next (s.sealedAt c) := by
  show execSealPoint s = _
  simp [execSealPoint, State.ticking, hrun, hseen, hs, hc, State.sealedAt]

/-- A frame without a seal point goes on unsealed. -/
theorem exec_sealPoint_none {s : State} (hc : s.sealAt = none) : exec .sealPoint s = .next s := by
  show execSealPoint s = _
  simp [execSealPoint, hc]

/-- The registers that a seal point may change. -/
def sealReg (k : Nat) : Bool := eventReg k || timeReg k || k = tickStatus.key 0 0 || k = mireStatus.key 0 0 ||
  k = mireMark.key 0 0 || (List.range 64).any fun x => k = mireDir.key x 0

theorem sealReg_time {k : Nat} (hk : (eventReg k || timeReg k) = true) : sealReg k = true := by
  simp only [sealReg, hk, Bool.true_or]

theorem sealReg_choice {k : Nat} (hk : choiceReg k = true) : sealReg k = true := by
  simp only [choiceReg, Bool.or_eq_true] at hk
  simp only [sealReg, Bool.or_eq_true]
  tauto

/-- What a seal point at cycle `c` does (R33, R114). -/
theorem State.sealedAt_spec {s : State} (c : Nat) (hs : s.sound = true) (hp : s.power.inReset = false) :
    s.sealSame (s.sealedAt c) ∧ s.regsKept (s.sealedAt c) sealReg ∧ (s.sealedAt c).on tickStatusSealed = true ∧
      (s.sealedAt c).cycle = max s.cycle c ∧ (s.sealedAt c).mire.choice ≠ .undecided := by
  have hwait := s.later_elapse (c - 1 - s.cycle)
  have hrising := s.elapse_rising (c - 1 - s.cycle) (State.sound_rising hs)
  have hcycle := State.cycle_elapseTo (s := s) (c - 1) hp
  have hpower : (s.elapseTo (c - 1)).power = s.power := by rw [State.elapseTo, hwait.1]
  unfold State.sealedAt
  unfold State.elapseTo at hcycle hpower ⊢
  generalize s.elapse (c - 1 - s.cycle) = u at hwait hrising hcycle hpower ⊢
  have hset : (u.set tickStatusSealed 1).get tickStatusSealed = 1 :=
    u.get_set_same tickStatusSealed 1 0 0 hrising (by decide) (by decide)
  have hlast := (u.set tickStatusSealed 1).later_elapse (c - (u.set tickStatusSealed 1).cycle)
  have hcycle2 := State.cycle_elapseTo (s := u.set tickStatusSealed 1) c (by rw [State.set_power, hpower, hp])
  unfold State.elapseTo at hcycle2
  generalize (u.set tickStatusSealed 1).elapse (c - (u.set tickStatusSealed 1).cycle) = v at hlast hcycle2 ⊢
  have hchosen := v.chosen_mireChoice
  have hsealed : v.on tickStatusSealed = true := by
    rw [hlast.kept.on tickStatusSealed 0 0 (by decide)]
    exact decide_eq_true hset
  refine ⟨?_, ?_, ?_, ?_, hchosen.made⟩
  · refine hwait.sealSame.trans (State.sealSame.trans (t := u.set tickStatusSealed 1) rfl (hlast.sealSame.trans ?_))
    unfold State.sealSame State.losing
    dsimp only
    rw [hchosen.same]
  · exact State.regsKept_trans (State.regsKept_mono hwait.kept fun k => sealReg_time)
      (State.regsKept_trans (State.regsKept_set u tickStatusSealed 1 0 0 _ (by decide))
        (State.regsKept_trans (State.regsKept_mono hlast.kept fun k => sealReg_time)
          (State.regsKept_mono hchosen.kept fun k => sealReg_choice)))
  · exact (hchosen.kept.on tickStatusSealed 0 0 (by decide)).trans hsealed
  · show v.mireChoice.cycle = _
    rw [hchosen.same]
    show v.cycle = _
    rw [hcycle2, State.set_cycle, hcycle]
    omega

end Sys2Proof.Machine
end

section
/-! ## Writes of `TICK.CTRL` and `TENt.RESERVE` (R26, R45) -/
namespace Sys2Proof.Machine

/-- With no write held, none lands. -/
theorem State.landHeld_none {s : State} (h : s.tick.held = []) : s.landHeld = s := by
  have he : s.landHeld = { s with tick := { s.tick with held := [] } } := by
    simp only [State.landHeld, h, List.filter_nil, List.foldl_nil]
  rw [he, ← h]

/-- With no drain pending, none takes effect. -/
theorem State.drainPending_none {s : State} (h : ∀ n ∈ s.upPorts, s.on ingPstateDrainPend n = false) :
    s.drainPending = s := by
  have he : (s.upPorts.filter fun n => s.on ingPstateDrainPend n) = [] :=
    List.filter_eq_nil_iff.mpr fun n hn => by rw [h n hn]; decide
  rw [State.drainPending, he]
  rfl

/-- The registers of the tick unit that a change of RUN may change. -/
def runReg (k : Nat) : Bool := k = tickCtrl.key 0 0 || k = tickStatus.key 0 0

theorem runReg_ingPstate (n : Nat) : runReg (ingPstate.key n 0) = false := by
  have hctrl : ingPstate.key n 0 ≠ tickCtrl.key 0 0 := by simp only [RegDef.key, ingPstate, tickCtrl]; omega
  have hstatus : ingPstate.key n 0 ≠ tickStatus.key 0 0 := by simp only [RegDef.key, ingPstate, tickStatus]; omega
  simp [runReg, hctrl, hstatus]

/-- The ports that are UP stay so, and no drain comes to pend, where only the tick unit's registers change. -/
theorem State.drains_kept {s t : State} (h : s.regsKept t runReg)
    (hd : ∀ n ∈ s.upPorts, s.on ingPstateDrainPend n = false) : ∀ n ∈ t.upPorts, t.on ingPstateDrainPend n = false := by
  intro n hn
  have hst : t.pstate n = s.pstate n := h.get ingPstateState n 0 (runReg_ingPstate n)
  rw [h.on ingPstateDrainPend n 0 (runReg_ingPstate n)]
  refine hd n ?_
  rw [State.upPorts, List.mem_filter] at hn ⊢
  exact ⟨hn.1, by rw [← hst]; exact hn.2⟩

/-- `s` with RUN at `v`, and void what a seal point had chosen. -/
def State.runSet (s : State) (v : Bool) : State :=
  { s.set tickCtrlRun (b2n v) with
    tick := { s.tick with seen := false, first := none }, formed := [], hold := [], released := 0
    mire := { s.mire with
      choice := .undecided, late := false
      keepPend := s.mire.keepPend.map fun (e : Nat × Option (Bool × Bool)) => (e.1, e.2.map fun x => (x.1, false)) } }

/-- `s` with RUN cleared: no seal point stands, and the chip no longer coasts. -/
def State.runStopped (s : State) : State := ((s.runSet false).set tickStatusSealed 0).set tickStatusCoasting 0

theorem State.setRun_same {s : State} {v : Bool} (h : v = s.on tickCtrlRun) : s.setRun v = s := if_pos h

theorem State.setRun_start {s : State} (h : s.on tickCtrlRun = false) : s.setRun true = s.runSet true := by
  simp only [State.setRun, h]
  rfl

theorem State.runStopped_kept (s : State) : s.regsKept s.runStopped runReg :=
  State.regsKept_trans (State.regsKept_trans (State.regsKept_set s tickCtrlRun 0 0 0 _ (by decide))
    (State.regsKept_set _ tickStatusSealed 0 0 0 _ (by decide))) (State.regsKept_set _ tickStatusCoasting 0 0 0 _ (by decide))

/-- RUN is cleared where no write is held and no drain pends. -/
theorem State.setRun_stop {s : State} (h : s.on tickCtrlRun = true) (hheld : s.tick.held = [])
    (hd : ∀ n ∈ s.upPorts, s.on ingPstateDrainPend n = false) : s.setRun false = s.runStopped := by
  have he : s.setRun false = s.runStopped.landHeld.drainPending := by
    simp only [State.setRun, h]
    rfl
  rw [he, State.landHeld_none (s := s.runStopped) hheld, State.drainPending_none (State.drains_kept s.runStopped_kept hd)]

section
variable {s : State} (hheld : s.tick.held = []) (hd : ∀ n ∈ s.upPorts, s.on ingPstateDrainPend n = false)
include hheld hd

/-- What a write of RUN can do: nothing, start, or stop. -/
theorem State.setRun_cases (v : Bool) :
    (v = s.on tickCtrlRun ∧ s.setRun v = s) ∨
      (s.on tickCtrlRun = false ∧ v = true ∧ s.setRun v = s.runSet true) ∨
      (s.on tickCtrlRun = true ∧ v = false ∧ s.setRun v = s.runStopped) := by
  by_cases h : v = s.on tickCtrlRun
  · exact Or.inl ⟨h, State.setRun_same h⟩
  · cases v with
    | true =>
      have hoff : s.on tickCtrlRun = false := by simpa using Ne.symm h
      exact Or.inr (Or.inl ⟨hoff, rfl, State.setRun_start hoff⟩)
    | false =>
      have hon : s.on tickCtrlRun = true := by simpa using Ne.symm h
      exact Or.inr (Or.inr ⟨hon, rfl, State.setRun_stop hon hheld hd⟩)

theorem State.setRun_ports (v : Bool) : (s.setRun v).ports = s.ports ∧ (s.setRun v).linkloss = s.linkloss := by
  rcases State.setRun_cases hheld hd v with ⟨-, he⟩ | ⟨-, -, he⟩ | ⟨-, -, he⟩ <;> rw [he] <;> exact ⟨rfl, rfl⟩

/-- A change of RUN voids what a seal point had chosen, and no tick is derived until the next first boundary. -/
theorem State.setRun_voids {v : Bool} (h : v ≠ s.on tickCtrlRun) :
    (s.setRun v).tick = { s.tick with seen := false, first := none } ∧
      (s.setRun v).mire =
        { s.mire with choice := .undecided, late := false, keepPend := (s.setRun v).mire.keepPend } ∧
      s.setRun v = { s with
        regs := (s.setRun v).regs, tick := (s.setRun v).tick, mire := (s.setRun v).mire, formed := [], hold := []
        released := 0 } := by
  rcases State.setRun_cases hheld hd v with ⟨hv, -⟩ | ⟨-, -, he⟩ | ⟨-, -, he⟩
  · exact absurd hv h
  all_goals rw [he]; exact ⟨rfl, rfl, rfl⟩

theorem State.setRun_kept (v : Bool) : s.regsKept (s.setRun v)
    fun k => k = tickCtrl.key 0 0 || (s.on tickCtrlRun && !v && decide (k = tickStatus.key 0 0)) := by
  rcases State.setRun_cases hheld hd v with ⟨-, he⟩ | ⟨-, -, he⟩ | ⟨hon, rfl, he⟩ <;> rw [he]
  · exact s.regsKept_refl _
  · exact State.regsKept_set s tickCtrlRun 1 0 0 _ (Bool.or_eq_true_iff.mpr (Or.inl (decide_eq_true rfl)))
  · exact State.regsKept_mono s.runStopped_kept fun k hk => by simpa [runReg, hon] using hk

/-- RUN reads what was written to it. -/
theorem State.get_setRun (hr : Sparse.rising s.regs = true) (v : Bool) : (s.setRun v).get tickCtrlRun = b2n v := by
  have hset : ∀ b, (s.set tickCtrlRun (b2n b)).get tickCtrlRun = b2n b := fun b =>
    (s.get_set_same tickCtrlRun _ 0 0 hr (by decide) (by decide)).trans (by cases b <;> rfl)
  rcases State.setRun_cases hheld hd v with ⟨hv, he⟩ | ⟨-, rfl, he⟩ | ⟨-, rfl, he⟩ <;> rw [he]
  · rw [hv, State.on]
    exact bits_bit _ 0
  · exact hset true
  · exact (State.get_set_other _ _ _ _ _ _ _ _ (by decide)).trans
      ((State.get_set_other _ _ _ _ _ _ _ _ (by decide)).trans (hset false))

/-- Writing RUN leaves the other fields of its register. -/
theorem State.get_setRun_apart (hr : Sparse.rising s.regs = true) (v : Bool) (f : RField) (hf : f.fits)
    (ha : tickCtrlRun.apart f) : (s.setRun v).get f = s.get f := by
  have hset : ∀ b, (s.set tickCtrlRun (b2n b)).get f = s.get f := fun b =>
    s.get_set_apart tickCtrlRun f _ 0 0 hr (by decide) hf ha
  have hkey : f.reg.key 0 0 ≠ tickStatus.key 0 0 := by rw [← ha.1]; decide
  rcases State.setRun_cases hheld hd v with ⟨-, he⟩ | ⟨-, -, he⟩ | ⟨-, -, he⟩ <;> rw [he]
  · exact hset true
  · exact (State.get_set_other _ _ _ _ _ _ _ _ hkey).trans
      ((State.get_set_other _ _ _ _ _ _ _ _ hkey).trans (hset false))

/-- Once RUN is cleared, SEALED and COASTING read 0. -/
theorem State.setRun_clears (hr : Sparse.rising s.regs = true) (hon : s.on tickCtrlRun = true) :
    (s.setRun false).on tickStatusSealed = false ∧ (s.setRun false).on tickStatusCoasting = false := by
  have h1 : Sparse.rising (s.runSet false).regs = true := s.set_rising _ _ _ _ hr
  have h2 := State.set_rising (s.runSet false) tickStatusSealed 0 0 0 h1
  rw [State.setRun_stop hon hheld hd, State.runStopped, State.on, State.on,
    State.get_set_apart _ tickStatusCoasting tickStatusSealed _ _ _ h2 (by decide) (by decide) ⟨rfl, by decide⟩,
    State.get_set_same _ tickStatusSealed _ _ _ h1 (by decide) (by decide),
    State.get_set_same _ tickStatusCoasting _ _ _ h2 (by decide) (by decide)]
  exact ⟨rfl, rfl⟩

end

/-- `s` with the fields of `TICK.CTRL` beside RUN as `v` has them. -/
def State.ctrlFields (s : State) (v : Nat) : State :=
  ((s.set tickCtrlCoastEn (bits v 8 8)).set tickCtrlLSel (bits v 5 4)).set tickCtrlEpochAuto (bits v 1 1)

/-- `s` with those fields, and frames counted anew after a change of L. -/
def State.ctrlTaken (s : State) (v : Nat) : State :=
  if bits v 5 4 = s.get tickCtrlLSel then s.ctrlFields v else (s.ctrlFields v).renumber

theorem State.ctrlTaken_regs (s : State) (v : Nat) : (s.ctrlTaken v).regs = (s.ctrlFields v).regs := by
  unfold State.ctrlTaken
  split <;> rfl

theorem State.ctrlTaken_same (s : State) (v : Nat) : s.ctrlTaken v =
    { s with regs := (s.ctrlTaken v).regs, ports := (s.ctrlTaken v).ports, linkloss := (s.ctrlTaken v).linkloss } := by
  unfold State.ctrlTaken
  split <;> rfl

theorem State.ctrlTaken_ports {s : State} {v : Nat} (h : bits v 5 4 = s.get tickCtrlLSel) :
    (s.ctrlTaken v).ports = s.ports ∧ (s.ctrlTaken v).linkloss = s.linkloss := by
  rw [State.ctrlTaken, if_pos h]
  exact ⟨rfl, rfl⟩

theorem State.ctrlTaken_kept (s : State) (v : Nat) : s.regsKept (s.ctrlTaken v) fun k => k = tickCtrl.key 0 0 := by
  have h : s.regsKept (s.ctrlFields v) fun k => k = tickCtrl.key 0 0 :=
    State.regsKept_trans (State.regsKept_trans (State.regsKept_set s tickCtrlCoastEn _ 0 0 _ (by decide))
      (State.regsKept_set _ tickCtrlLSel _ 0 0 _ (by decide))) (State.regsKept_set _ tickCtrlEpochAuto _ 0 0 _ (by decide))
  intro k d hk
  rw [State.ctrlTaken_regs]
  exact h k d hk

theorem State.get_ctrlTaken (s : State) (v : Nat) (f : RField) : (s.ctrlTaken v).get f = (s.ctrlFields v).get f := by
  rw [State.get, State.reg, State.ctrlTaken_regs]
  rfl

/-- What each field of `TICK.CTRL` reads once the write has been taken, and before RUN is. -/
theorem State.ctrlTaken_reads {s : State} (v : Nat) (hr : Sparse.rising s.regs = true) :
    Sparse.rising (s.ctrlTaken v).regs = true ∧ (s.ctrlTaken v).get tickCtrlLSel = bits v 5 4 ∧
      (s.ctrlTaken v).get tickCtrlCoastEn = bits v 8 8 ∧ (s.ctrlTaken v).get tickCtrlEpochAuto = bits v 1 1 ∧
      (s.ctrlTaken v).get tickCtrlRun = s.get tickCtrlRun := by
  have h1 := s.set_rising tickCtrlCoastEn (bits v 8 8) 0 0 hr
  have h2 := State.set_rising _ tickCtrlLSel (bits v 5 4) 0 0 h1
  have hauto : ∀ f : RField, f.fits → tickCtrlEpochAuto.apart f → (s.ctrlTaken v).get f =
      ((s.set tickCtrlCoastEn (bits v 8 8)).set tickCtrlLSel (bits v 5 4)).get f := fun f hf ha =>
    (s.get_ctrlTaken v f).trans (State.get_set_apart _ tickCtrlEpochAuto f _ 0 0 h2 (by decide) hf ha)
  have hlsel : ∀ f : RField, f.fits → tickCtrlEpochAuto.apart f → tickCtrlLSel.apart f → (s.ctrlTaken v).get f =
      (s.set tickCtrlCoastEn (bits v 8 8)).get f := fun f hf ha hl =>
    (hauto f hf ha).trans (State.get_set_apart _ tickCtrlLSel f _ 0 0 h1 (by decide) hf hl)
  refine ⟨?_, ?_, ?_, ?_, ?_⟩
  · rw [State.ctrlTaken_regs]
    exact State.set_rising _ _ _ _ _ h2
  · exact (hauto tickCtrlLSel (by decide) ⟨rfl, by decide⟩).trans
      ((State.get_set_same _ tickCtrlLSel _ 0 0 h1 (by decide) (by decide)).trans (bits_mod_width v 5 4))
  · exact (hlsel tickCtrlCoastEn (by decide) ⟨rfl, by decide⟩ ⟨rfl, by decide⟩).trans
      ((State.get_set_same _ tickCtrlCoastEn _ 0 0 hr (by decide) (by decide)).trans (bits_mod_width v 8 8))
  · exact (s.get_ctrlTaken v _).trans
      ((State.get_set_same _ tickCtrlEpochAuto _ 0 0 h2 (by decide) (by decide)).trans (bits_mod_width v 1 1))
  · exact (hlsel tickCtrlRun (by decide) ⟨rfl, by decide⟩ ⟨rfl, by decide⟩).trans
      (State.get_set_apart _ tickCtrlCoastEn tickCtrlRun _ 0 0 hr (by decide) (by decide) ⟨rfl, by decide⟩)

/-- The other fields first, then RUN: what changes in all. -/
theorem State.ctrl_then_run {s u t : State}
    (h : u = { s with regs := u.regs, ports := u.ports, linkloss := u.linkloss })
    (k : t = { u with regs := t.regs, tick := t.tick, mire := t.mire, formed := [], hold := [], released := 0 }) :
    t = { s with regs := t.regs, ports := t.ports, linkloss := t.linkloss, tick := t.tick, mire := t.mire, formed := []
                 hold := [], released := 0 } := by
  rw [k, h]

theorem exec_tickCtrlWrite {s : State} {w : Who} (v : Word) (hl : s.lets w (tickCtrl.key 0 0)) :
    exec (.tickCtrlWrite w v) s = .next
      (if s.on tickCtrlRun && decide (bits v.toNat 5 4 ≠ s.get tickCtrlLSel) then s.reject w (tickCtrl.key 0 0)
        else (s.ctrlTaken v.toNat).setRun (bit v.toNat 0)) :=
  congrArg _ (s.guarded0_lets w _ _ hl)

/-- What each field of `TENt.RESERVE` reads once a write has been taken. -/
theorem State.reserve_reads {s : State} (n v : Nat) (hr : Sparse.rising s.regs = true) :
    (s.writeFieldsOf tenReserve n 0 v).get tenReserveWatch n = bits v 31 26 ∧
      (s.writeFieldsOf tenReserve n 0 v).get tenReserveEgr n = bits v 25 15 ∧
      (s.writeFieldsOf tenReserve n 0 v).get tenReserveDram n = bits v 7 0 := by
  have hreg : (s.writeFieldsOf tenReserve n 0 v).reg tenReserve n 0 =
      setBits (setBits (setBits (s.reg tenReserve n 0) 31 26 (bits v 31 26)) 25 15 (bits v 25 15)) 7 0 (bits v 7 0)
        % 2 ^ 32 := State.reg_setReg_same s _ _ _ _ hr
  refine ⟨?_, ?_, ?_⟩
  · show bits ((s.writeFieldsOf tenReserve n 0 v).reg tenReserve n 0) 31 26 = _
    rw [hreg, bits_mod _ _ _ _ (by decide) (by decide), bits_setBits_above _ _ _ _ _ _ (by decide) (by decide),
      bits_setBits_above _ _ _ _ _ _ (by decide) (by decide), bits_setBits_same, bits_mod_width]
  · show bits ((s.writeFieldsOf tenReserve n 0 v).reg tenReserve n 0) 25 15 = _
    rw [hreg, bits_mod _ _ _ _ (by decide) (by decide), bits_setBits_above _ _ _ _ _ _ (by decide) (by decide),
      bits_setBits_same, bits_mod_width]
  · show bits ((s.writeFieldsOf tenReserve n 0 v).reg tenReserve n 0) 7 0 = _
    rw [hreg, bits_mod _ _ _ _ (by decide) (by decide), bits_setBits_same, bits_mod_width]

/-- A reservation that R45 does not allow: a sum too large, or WATCH above EGR. -/
abbrev State.overReserved (s : State) (n v : Nat) : Prop :=
  1024 < s.reserved tenReserveEgr n (bits v 25 15) ∨ 128 < s.reserved tenReserveDram n (bits v 7 0) ∨
    bits v 25 15 < bits v 31 26

theorem exec_tenReserveWrite {s : State} {w : Who} {n : Fin 4} (v : Word) (hl : s.lets w (tenReserve.key n 0)) :
    exec (.tenReserveWrite w n v) s = .next (if s.overReserved n v.toNat then s.reject w (tenReserve.key n 0)
      else s.writeFieldsOf tenReserve n 0 v.toNat) := by
  have h : exec (.tenReserveWrite w n v) s = .next (s.writeReserve w n v.toNat) := rfl
  rw [h, State.writeReserve, s.guarded0_lets w _ _ hl]
  simp only [State.overReserved, Bool.or_eq_true, decide_eq_true_eq, or_assoc]

/-- A write of `TICK.CTRL` that is not refused, where no write is held and no drain pends (R26). -/
theorem State.ctrlWritten_spec {s : State} (v : Nat) (hr : Sparse.rising s.regs = true) (hheld : s.tick.held = [])
    (hd : ∀ n ∈ s.upPorts, s.on ingPstateDrainPend n = false) :
    let t := (s.ctrlTaken v).setRun (bit v 0)
    t.get tickCtrlLSel = bits v 5 4 ∧ t.get tickCtrlCoastEn = bits v 8 8 ∧ t.get tickCtrlEpochAuto = bits v 1 1 ∧
      t.get tickCtrlRun = bits v 0 0 ∧
      (bit v 0 = s.on tickCtrlRun → t.tick = s.tick ∧ t.mire = s.mire ∧
        t = { s with regs := t.regs, ports := t.ports, linkloss := t.linkloss }) ∧
      (bit v 0 ≠ s.on tickCtrlRun → t.tick = { s.tick with seen := false, first := none } ∧
        t.mire = { s.mire with choice := .undecided, late := false, keepPend := t.mire.keepPend } ∧
        t = { s with regs := t.regs, ports := t.ports, linkloss := t.linkloss, tick := t.tick, mire := t.mire, formed := []
                     hold := [], released := 0 }) ∧
      (bits v 5 4 = s.get tickCtrlLSel → t.ports = s.ports ∧ t.linkloss = s.linkloss) ∧
      (s.on tickCtrlRun = true → bit v 0 = false → t.on tickStatusSealed = false ∧ t.on tickStatusCoasting = false) ∧
      s.regsKept t (fun k => k = tickCtrl.key 0 0 ||
        (s.on tickCtrlRun && !bit v 0 && decide (k = tickStatus.key 0 0))) := by
  obtain ⟨hur, hlsel, hcoast, hauto, hrun⟩ := State.ctrlTaken_reads v hr
  have hsame := s.ctrlTaken_same v
  have hkept := s.ctrlTaken_kept v
  have hports := State.ctrlTaken_ports (s := s) (v := v)
  generalize s.ctrlTaken v = u at hur hlsel hcoast hauto hrun hsame hkept hports ⊢
  have hon : u.on tickCtrlRun = s.on tickCtrlRun := congrArg (fun x => decide (x = 1)) hrun
  have htick : u.tick = s.tick := congrArg (·.tick) hsame
  have hmire : u.mire = s.mire := congrArg (·.mire) hsame
  have huheld : u.tick.held = [] := htick ▸ hheld
  have hud : ∀ n ∈ u.upPorts, u.on ingPstateDrainPend n = false :=
    State.drains_kept (State.regsKept_mono hkept fun k hk => Bool.or_eq_true_iff.mpr (Or.inl hk)) hd
  refine ⟨?_, ?_, ?_, ?_, fun h => ?_, fun h => ?_, fun h => ?_, fun hrunning h => ?_, ?_⟩
  · exact (State.get_setRun_apart huheld hud hur _ tickCtrlLSel (by decide) ⟨rfl, by decide⟩).trans hlsel
  · exact (State.get_setRun_apart huheld hud hur _ tickCtrlCoastEn (by decide) ⟨rfl, by decide⟩).trans hcoast
  · exact (State.get_setRun_apart huheld hud hur _ tickCtrlEpochAuto (by decide) ⟨rfl, by decide⟩).trans hauto
  · exact (State.get_setRun huheld hud hur _).trans (bits_bit _ 0).symm
  · rw [State.setRun_same (h.trans hon.symm)]
    exact ⟨htick, hmire, hsame⟩
  · obtain ⟨ht, hm, hvoid⟩ := State.setRun_voids huheld hud (hon ▸ h)
    exact ⟨htick ▸ ht, hmire ▸ hm, State.ctrl_then_run hsame hvoid⟩
  · obtain ⟨hp, hloss⟩ := State.setRun_ports huheld hud (bit v 0)
    exact ⟨hp.trans (hports h).1, hloss.trans (hports h).2⟩
  · rw [h]
    exact State.setRun_clears huheld hud hur (hon.trans hrunning)
  · refine State.regsKept_trans (State.regsKept_mono hkept fun k hk => Bool.or_eq_true_iff.mpr (Or.inl hk)) ?_
    rw [← hon]
    exact State.setRun_kept huheld hud _

/-- Settles O7: the seal point lies where `State.sealAt_arrived` or `State.sealAt_coast` says and does what
`State.sealedAt_spec` says; a write of `TICK.CTRL` takes the other fields (`State.ctrlTaken`) and then RUN
(`State.setRun_cases`); a write of `TENt.RESERVE` is rejected just where it is over (`State.overReserved`). -/
theorem sealPointAndTickUnit : Obligations.SealPointAndTickUnit := by
  unfold Obligations.SealPointAndTickUnit
  refine ⟨?sealed, ?unsealed, ?written, ?refused, ?reserved⟩
  case sealed =>
    intro s e a c hs hp hrun hseen hopen hc
    obtain ⟨hsame, hkept, hsealed, hcycle, hmade⟩ := State.sealedAt_spec c hs hp
    have hat : s.sealAt = some c := by
      rcases hc with ⟨hnone, hcoast, hc⟩ | ⟨he, hfirst, hlast, hall, hc⟩
      · rw [State.sealAt_coast (State.counted_none hnone), if_pos hcoast, hc]
      · rw [State.sealAt_arrived he hfirst hlast hall, hc]
    exact ⟨_, exec_sealPoint hrun hseen hopen hat, hsealed, hcycle, hmade, congrArg (·.mem) hsame,
      congrArg (·.marks) hsame, congrArg (·.seqs) hsame, congrArg (·.cells) hsame, congrArg (·.ports) hsame,
      congrArg (·.streams) hsame, congrArg (·.tick.live) hsame, (congrArg (·.tick.seen) hsame).trans hseen, hkept⟩
  case unsealed =>
    intro s hrun hseen hcoast hopen hnone
    have hat : s.sealAt = none := by
      rw [State.sealAt_coast (State.counted_none hnone), if_neg (by simp [hcoast])]
    exact exec_sealPoint_none hat
  case written =>
    intro s w v hs hl hfree hheld hd
    refine ⟨_, ?_, State.ctrlWritten_spec v.toNat (State.sound_rising hs) hheld hd⟩
    rw [exec_tickCtrlWrite v hl, if_neg]
    rcases hfree with h | h <;> simp [h]
  case refused =>
    intro s w v hs hl hrun hne
    refine ⟨_, exec_tickCtrlWrite v hl, ?_⟩
    rw [if_pos (by simp [hrun, hne])]
    exact State.refused_reject w _ hs (State.lets_reset hl)
  case reserved =>
    intro s w n v hs hl
    refine ⟨fun hegr hdram hwatch => ⟨_, exec_tenReserveWrite v hl, ?_⟩, fun hover => ⟨_, exec_tenReserveWrite v hl, ?_⟩⟩
    · rw [if_neg (by omega)]
      exact ⟨⟨rfl, s.regsKept_setReg _ _ _ _ _ (decide_eq_true rfl)⟩, State.reserve_reads n v.toNat (State.sound_rising hs)⟩
    · rw [if_pos hover]
      exact State.refused_reject w _ hs (State.lets_reset hl)

end Sys2Proof.Machine
end

section
/-! ## Issuing a fetched bundle or instruction (R177, R183, R186, R190) -/
namespace Sys2Proof.Machine

/-! ### Reading clean words -/

theorem State.readWord_clean {s : State} {a : Nat} (h : s.mark a = .clean) : s.readWord a = (s, false) := by
  simp [State.readWord, h]

theorem State.readWordList_clean {s : State} {l : List Nat} (h : ∀ w ∈ l, s.mark (8 * w) = .clean) :
    s.readWordList l = (s, []) := by
  unfold State.readWordList
  induction l with
  | nil => rfl
  | cons w r ih =>
    rw [List.foldl_cons, State.readWord_clean (h w (List.mem_cons_self ..))]
    exact ih fun x hx => h x (List.mem_cons_of_mem _ hx)

theorem State.readWords_clean {s : State} {a n : Nat} (h : s.cleanRange a n) : s.readWords a n = (s, []) := by
  refine State.readWordList_clean fun w hw => ?_
  obtain ⟨x, hx, rfl⟩ := List.mem_map.mp hw
  exact h x hx

theorem State.badRange_clean {s : State} {a n : Nat} (h : s.cleanRange a n) : s.badRange a n = false := by
  refine List.any_eq_false.mpr fun w hw => ?_
  simp [h w hw]

/-! ### The state in which a sequencer issues -/

/-- Waiting for TICKPHASE 4 is the passing of some cycles, or none. -/
theorem State.issueTime_cases (s : State) (q : Seq) : s.issueTime q = s ∨ ∃ n, s.later (s.issueTime q) n := by
  unfold State.issueTime State.elapseTo
  split
  · exact Or.inr ⟨_, s.later_elapse _⟩
  · exact Or.inl rfl

theorem State.issueTime_seq (s : State) (q : Seq) (i : Nat) : (s.issueTime q).seq i = s.seq i := by
  rcases s.issueTime_cases q with h | ⟨n, h⟩
  · rw [h]
  · rw [h.1]; rfl

theorem State.issueTime_mark (s : State) (q : Seq) (a : Nat) : (s.issueTime q).mark a = s.mark a := by
  rcases s.issueTime_cases q with h | ⟨n, h⟩
  · rw [h]
  · rw [h.1]; rfl

/-- The fetch of clean words by the sequencer that issues changes nothing. -/
theorem State.fetch_clean {s : State} {q : Seq} {a n : Nat} (h : s.cleanRange a n) :
    (if q.stalled then s.issueTime q else ((s.issueTime q).readWords a n).1) = s.issueTime q := by
  rw [State.readWords_clean fun w hw => (s.issueTime_mark q _).trans (h w hw), ite_self]

/-- A bundle fetched without error and picked stalls, faults or acts. -/
theorem State.issueBlock_fetched {s : State} {i : Nat} {sel : Bundle → Bool} (h : s.atBundle i)
    (hsel : sel (s.bundleAt i) = true) :
    s.issueBlock i sel =
      if (s.issued i).bundleStalls i (s.seq i) (s.bundleAt i) then (s.issued i).setSeq i (s.waiting i)
      else ((s.issued i).bundleFault i (s.seq i) (s.bundleAt i)).elim
        ((s.issued i).bundleAct i (s.seq i) (s.bundleAt i)) fun x =>
          (if x.1 = .dataEcc then (s.issued i).moveRead i (s.seq i) ((s.bundleAt i).m.eff .nop)
            else s.issued i).except i x.1 x.2 := by
  obtain ⟨hready, hpc, hclean⟩ := h
  have hsel' : (!(sel (s.bundleAt i) || (s.bundleAt i).illegal)) = false := by rw [hsel]; rfl
  unfold State.issueBlock
  dsimp only
  rw [hready, State.fetch_clean hclean, State.badRange_clean hclean, if_neg (by decide), if_neg (by omega),
    if_neg (by decide)]
  unfold State.bundleAt at hsel' ⊢
  rw [hsel', if_neg (by decide)]
  cases (s.issued i).bundleFault i (s.seq i) _ <;> rfl

/-- An instruction of a context fetched without error and picked is carried out. -/
theorem State.issueCtx_fetched {s : State} {t : Nat} {sel : SInst → Bool} {y : SInst} {act : Bool}
    (hready : (s.seq (48 + t)).ready = true) (hpc : (s.seq (48 + t)).pc < s.get cndMemIsize t * 1024)
    (hclean : s.cleanRange (s.cndFetch t) 4)
    (hy : decodeSlot (s.seq (48 + t)) (leVal (s.bytes (s.cndFetch t) 4)) (decodeS true) = ⟨act, some y⟩)
    (hsel : sel y = true) :
    s.issueCtx t sel = (s.issued (48 + t)).cndDone t (s.seq (48 + t)) y act := by
  unfold State.cndFetch at hclean hy
  unfold State.issueCtx
  dsimp only
  rw [hready, State.fetch_clean hclean, State.badRange_clean hclean, if_neg (by decide), if_neg (by omega),
    if_neg (by decide), hy]
  exact if_pos hsel

end Sys2Proof.Machine
end

section
/-! ## A slot S with nothing beside it (R179, R188, R193, R194, R203) -/
namespace Sys2Proof.Machine

/-! ### Slots of a bundle -/

/-- The other three slots of the bundle hold NOP. -/
def Bundle.onlyS (b : Bundle) : Prop := b.c.inst = some .nop ∧ b.m.inst = some .nop ∧ b.v.inst = some .nop

theorem Slot.eff_nop {α : Type} {x : Slot α} {nop : α} (h : x.inst = some nop) : x.eff nop = nop := by
  simp [Slot.eff, h]

theorem Slot.illegal_some {α : Type} {x : Slot α} {y : α} (h : x.inst = some y) : x.illegal = false := by
  simp [Slot.illegal, h]

theorem Slot.eff_some {α : Type} (act : Bool) (y nop : α) : Slot.eff ⟨act, some y⟩ nop = if act then y else nop := rfl

theorem maskCells_zero : maskCells 0 = [] := by decide

theorem State.cellFault_nop (s : State) (i : Nat) (q : Seq) : s.cellFault? i q .nop = none :=
  if_pos (congrArg List.length maskCells_zero)

theorem State.bundleStalls_onlyS (s : State) (i : Nat) (q : Seq) {b : Bundle} (h : b.onlyS) :
    s.bundleStalls i q b = s.waitStalls q (b.s.eff .nop) := by
  obtain ⟨hc, hm, -⟩ := h
  rw [State.bundleStalls, Slot.eff_nop hc, Slot.eff_nop hm]
  rfl

theorem State.bundleFault_onlyS (s : State) (i : Nat) (q : Seq) {b : Bundle} {y : SInst} (h : b.onlyS)
    (hs : b.s.inst = some y) :
    s.bundleFault i q b = (s.scalarFault? i q (b.s.eff .nop)).map fun c => (c, 3) := by
  obtain ⟨hc, hm, hv⟩ := h
  rw [State.bundleFault, Slot.eff_nop hc, Slot.eff_nop hm, Slot.eff_nop hv, Slot.illegal_some hc, Slot.illegal_some hm,
    Slot.illegal_some hv, Slot.illegal_some hs, State.cellFault_nop]
  rfl

theorem State.bundleRegs_onlyS (s : State) (i : Nat) (q : Seq) {b : Bundle} {y : SInst} (h : b.onlyS)
    (hs : b.s.inst = some y) :
    s.bundleRegs i q b =
      { q.flow 4096 y b.s.act (s.scalarOut i q (b.s.eff .nop) q) with
        seen := q.masks, stalled := false, first := false } := by
  obtain ⟨-, hm, hv⟩ := h
  rw [State.bundleRegs, Slot.eff_nop hm, Slot.eff_nop hv, hs]
  rfl

theorem State.bundleAct_onlyS (s : State) (i : Nat) (q : Seq) {b : Bundle} (h : b.onlyS) :
    s.bundleAct i q b = (s.setSeq i (s.bundleRegs i q b)).scalarAct i q (b.s.eff .nop) := by
  obtain ⟨hc, hm, hv⟩ := h
  rw [State.bundleAct, Slot.eff_nop hc, Slot.eff_nop hm, Slot.eff_nop hv]
  rfl

/-! ### A sequencer about to issue one S-slot word -/

/-- Sequencer `q` is about to issue the S-slot word `x`, with nothing else in the bundle. -/
def State.atSlot (s : State) (q : SeqId) (x : Slot SInst) : Prop :=
  match q with
  | .blk r b => s.atBundle (12 * r + b) ∧ (s.bundleAt (12 * r + b)).onlyS ∧ (s.bundleAt (12 * r + b)).s = x
  | .ctx t => (s.seq (48 + t)).ready = true ∧ (s.seq (48 + t)).pc < s.get cndMemIsize t * 1024 ∧
      s.cleanRange (s.cndFetch t) 4 ∧
      decodeSlot (s.seq (48 + t)) (leVal (s.bytes (s.cndFetch t) 4)) (decodeS true) = x

theorem State.holdsS_iff {s : State} {q : SeqId} {y : SInst} : s.holdsS q y ↔ s.atSlot q ⟨true, some y⟩ := by
  cases q with
  | blk r b => simp only [State.holdsS, State.blockHoldsS, State.atSlot, Bundle.onlyS, and_assoc]
  | ctx t => rfl

theorem State.skipsS_iff {s : State} {q : SeqId} {y : SInst} : s.skipsS q y ↔ s.atSlot q ⟨false, some y⟩ := by
  cases q with
  | blk r b => simp only [State.skipsS, State.atSlot, Bundle.onlyS, and_assoc]
  | ctx t => rfl

theorem Bundle.holds_s {b : Bundle} {x : Slot SInst} {y : SInst} (hb : b.s = x) (hx : x.inst = some y) :
    b.holds y.op = true := by
  simp [Bundle.holds, hb, hx]

/-- A block's S-slot word, alone in its bundle, stalls, faults or acts. -/
theorem State.issue_block {s : State} {r : Fin 4} {b : Fin 12} {act : Bool} {y x : SInst}
    (h : s.atSlot (.blk r b) ⟨act, some y⟩) (hx : (if act then y else .nop) = x) :
    let i := 12 * r.val + b.val
    let u := s.issued i
    s.issue (.blk r b) y.op =
      if u.waitStalls (s.seq i) x then u.setSeq i (s.waiting i)
      else (u.scalarFault? i (s.seq i) x).elim
        ((u.setSeq i { (s.seq i).flow 4096 y act (u.scalarOut i (s.seq i) x (s.seq i)) with
          seen := (s.seq i).masks, stalled := false, first := false }).scalarAct i (s.seq i) x)
        fun c => (if c = .dataEcc then u.moveRead i (s.seq i) .nop else u).except i c 3 := by
  obtain ⟨hat, honly, hs⟩ := h
  have hinst : (s.bundleAt (12 * r + b)).s.inst = some y := by rw [hs]
  intro i u
  rw [State.issue, State.issueBlock_fetched hat (Bundle.holds_s hs rfl), State.bundleStalls_onlyS _ _ _ honly,
    State.bundleFault_onlyS _ _ _ honly hinst, State.bundleAct_onlyS _ _ _ honly, State.bundleRegs_onlyS _ _ _ honly hinst,
    Slot.eff_nop honly.2.1, hs, Slot.eff_some, hx]
  cases u.scalarFault? i (s.seq i) x <;> rfl

/-- A context's instruction whose work touches nothing but registers and leaves the value `v` leaves its registers and
passes control on. -/
theorem State.cndDone_regs {s : State} {t : Nat} {q : Seq} {x : SInst} {act : Bool} {v : Word}
    (hq : s.seq (48 + t) = q) (hdone : s.cndAct t q (if act then x else .nop) = .done s v)
    (hx : (if act then x else .nop) ≠ .frameEnd) :
    s.cndDone t q x act = s.setSeq (48 + t)
      { q.flow 65536 x act
          { cndRegs q (if act then x else .nop) v with evt := q.evt, stopping := q.stopping, dying := q.dying } with
        stalled := false, first := false } := by
  unfold State.cndDone
  dsimp only
  rw [hdone]
  dsimp only
  rw [hq, if_pos rfl, if_neg hx]

/-! ### Instructions that only write registers -/

/-- An instruction whose whole work is to write a register: the ALU, LI, LUI, CMP and NOP. -/
inductive SInst.Plain : SInst → Prop
  | nop : Plain .nop
  | alu (o : Op) (d : Dest) (ra : Nat) (b : Src) : Plain (.alu o d ra b)
  | const (o : Op) (d : Dest) (v : Word) : Plain (.const o d v)
  | cmp (pd k ra : Nat) (b : Src) : Plain (.cmp pd k ra b)

section
variable {x : SInst} (h : x.Plain)
include h

theorem Seq.misplaced_plain (q : Seq) : q.misplaced x = false := by cases h <;> simp [Seq.misplaced]

theorem Seq.loopsFull_plain (q : Seq) : q.loopsFull x = false := by cases h <;> rfl

theorem Seq.flow_plain (q : Seq) (span : Nat) (act : Bool) (now : Seq) : q.flow span x act now = now.advance := by
  cases h <;> rfl

theorem State.waitStalls_plain (s : State) (q : Seq) : s.waitStalls q x = false := by cases h <;> rfl

theorem State.scalarFault_plain (s : State) (i : Nat) (q : Seq) : s.scalarFault? i q x = none := by
  unfold State.scalarFault?
  rw [Seq.misplaced_plain h, Seq.loopsFull_plain h]
  cases h <;> rfl

theorem State.scalarAct_plain (s : State) (i : Nat) (q : Seq) : s.scalarAct i q x = s := by cases h <;> rfl

/-- What a block leaves in its registers is what a context leaves in its own. -/
theorem State.scalarOut_plain (s : State) (i : Nat) (q : Seq) (v : Word) : s.scalarOut i q x q = cndRegs q x v := by
  cases h <;> rfl

theorem State.cndAct_plain (s : State) (t : Nat) (q : Seq) : s.cndAct t q x = .done s 0 := by
  unfold State.cndAct
  rw [Seq.misplaced_plain h, Seq.loopsFull_plain h, State.waitStalls_plain h]
  cases h <;> rfl

theorem SInst.Plain.ne_frameEnd : x ≠ .frameEnd := by cases h <;> nofun

end

/-- An instruction whose predicate is false passes control on as NOP does, but for the delay bundle of a branch. -/
theorem Seq.flow_skipped {y : SInst} (hbr : y.op ≠ .br) (hbrp : y.op ≠ .brp) (q : Seq) (span : Nat) (now : Seq) :
    q.flow span y false now = now.advance := by
  cases y with
  | br ra t => exact absurd rfl hbr
  | brp ps neg t => exact absurd rfl hbrp
  | _ => rfl

end Sys2Proof.Machine
end

section
/-! ## Registers written (R178 to R180) -/
namespace Sys2Proof.Machine

/-- `r` has the event lines and the pending stop and reset of `q`. -/
def Seq.sameControl (q r : Seq) : Prop := r.evt = q.evt ∧ r.stopping = q.stopping ∧ r.dying = q.dying

theorem Seq.setS_sameControl (q : Seq) (n : Nat) (v : Word) : q.sameControl (q.setS n v) := by
  unfold Seq.setS
  split <;> exact ⟨rfl, rfl, rfl⟩

theorem Seq.setP_sameControl (q : Seq) (n : Nat) (v : Bool) : q.sameControl (q.setP n v) := by
  unfold Seq.setP
  split <;> exact ⟨rfl, rfl, rfl⟩

theorem Seq.put_sameControl (q : Seq) (d : Dest) (v : Word) : q.sameControl (q.put d v) := by
  cases d with
  | s n => exact q.setS_sameControl n v
  | _ => exact ⟨rfl, rfl, rfl⟩

/-- A context's instruction writes none of the fields that its own effect may have changed. -/
theorem cndRegs_sameControl (q : Seq) (x : SInst) (v : Word) : q.sameControl (cndRegs q x v) := by
  cases x with
  | alu o d ra b => exact q.put_sameControl d _
  | const o d c => exact q.put_sameControl d c
  | cmp pd c ra b => exact q.setP_sameControl pd _
  | cndCsrr rd ra => exact q.setS_sameControl rd v
  | cndLd rd ra off => exact q.setS_sameControl rd v
  | _ => exact ⟨rfl, rfl, rfl⟩

theorem Seq.sameControl.eq {q r : Seq} (h : q.sameControl r) :
    { r with evt := q.evt, stopping := q.stopping, dying := q.dying } = r := by
  obtain ⟨hevt, hstopping, hdying⟩ := h
  rw [← hevt, ← hstopping, ← hdying]

theorem Seq.setS_zero (q : Seq) (v : Word) : q.setS 0 v = q := rfl

theorem Seq.sr_setS_same {q : Seq} (n : Nat) (v : Word) (h : Sparse.rising q.s = true) :
    (q.setS n v).sr n = if n = 0 then 0 else v := by
  unfold Seq.sr Seq.setS
  split
  · rfl
  · exact Sparse.at_put_same h

theorem Seq.sr_setS_other (q : Seq) {n k : Nat} (v : Word) (h : k ≠ n) : (q.setS n v).sr k = q.sr k := by
  unfold Seq.setS
  split
  · rfl
  · unfold Seq.sr
    dsimp only
    rw [Sparse.at_put_other h]

theorem bit_eq_bits (v i : Nat) : bit v i = decide (bits v i i = 1) := by
  rw [bit, bits, Nat.add_sub_cancel_left, pow_one]

theorem Seq.bits_setP {q : Seq} {n k : Nat} (v : Bool) (hn : n ≠ 0) (hk : k < 8) :
    bits (q.setP n v).p.toNat k k = bits (setBits q.p.toNat n n (b2n v)) k k := by
  rw [Seq.setP, if_neg hn]
  exact (congrArg (bits · k k) (BitVec.toNat_ofNat _ _)).trans (bits_mod _ 8 k k hk (Nat.le_refl k))

theorem Seq.pr_setP_same (q : Seq) {n : Nat} (v : Bool) (hn : n < 8) : (q.setP n v).pr n = (n = 0 || v) := by
  by_cases h : n = 0
  · simp [Seq.pr, h]
  · have hbit : bits (q.setP n v).p.toNat n n = b2n v := by
      rw [Seq.bits_setP v h hn, bits_setBits_same, Nat.add_sub_cancel_left]
      cases v <;> rfl
    rw [Seq.pr, bit_eq_bits, hbit]
    cases v <;> simp [b2n]

theorem Seq.pr_setP_other (q : Seq) {n k : Nat} (v : Bool) (hk : k < 8) (h : k ≠ n) : (q.setP n v).pr k = q.pr k := by
  by_cases hn : n = 0
  · rw [Seq.setP, if_pos hn]
  · have hbit : bits (q.setP n v).p.toNat k k = bits q.p.toNat k k := by
      rw [Seq.bits_setP v hn hk]
      rcases Nat.lt_or_gt_of_ne h with h | h
      · exact bits_setBits_below _ _ _ _ _ _ (Nat.le_refl n) (Nat.le_refl k) h
      · exact bits_setBits_above _ _ _ _ _ _ (Nat.le_refl n) h
    rw [Seq.pr, Seq.pr, bit_eq_bits, bit_eq_bits, hbit]

end Sys2Proof.Machine
end

section
/-! ## Plain instructions issue (R188, R189, R193) -/
namespace Sys2Proof.Machine

theorem Seq.advance_seen (q : Seq) : q.advance.seen = q.seen := by
  unfold Seq.advance
  split <;> rfl

theorem State.passed_block (s : State) {i : Nat} (now : Seq) (h : i < 48) :
    s.passed i now = { now.advance with seen := (s.seq i).masks, stalled := false, first := false } := by
  rw [State.passed, if_pos h]

theorem State.passed_ctx (s : State) (t : Nat) (now : Seq) :
    s.passed (48 + t) now = { now.advance with stalled := false, first := false } := by
  rw [State.passed, if_neg (by omega), ← now.advance_seen]

/-- An S-slot word that amounts to a plain instruction `x` writes its register and passes control on, and does
no more. -/
theorem State.issue_plain {s : State} {q : SeqId} {act : Bool} {y x : SInst} (h : s.atSlot q ⟨act, some y⟩)
    (hx : (if act then y else .nop) = x) (hplain : x.Plain)
    (hflow : ∀ span now, (s.seq (SeqId.num q)).flow span y act now = now.advance) :
    s.issue q y.op = (s.issued (SeqId.num q)).setSeq (SeqId.num q)
      (s.passed (SeqId.num q) (cndRegs (s.seq (SeqId.num q)) x 0)) := by
  cases q with
  | blk r b =>
    simp only [SeqId.num] at hflow ⊢
    have hi : 12 * r.val + b.val < 48 := by omega
    rw [State.issue_block h hx, State.waitStalls_plain hplain, State.scalarFault_plain hplain,
      State.scalarOut_plain hplain _ _ _ 0, hflow, ← State.passed_block s _ hi]
    exact State.scalarAct_plain hplain _ _ _
  | ctx t =>
    simp only [SeqId.num] at hflow ⊢
    obtain ⟨hready, hpc, hclean, hy⟩ := h
    subst hx
    rw [State.issue, State.issueCtx_fetched hready hpc hclean hy (by simp),
      State.cndDone_regs (s.issueTime_seq _ _) (State.cndAct_plain hplain _ _ _) hplain.ne_frameEnd,
      (cndRegs_sameControl _ _ _).eq, hflow, ← State.passed_ctx]

/-! ### Commands and the instructions they issue -/

/-- The commands that issue S-slot instructions of blocks and contexts alike, each with its mnemonic. -/
def scalarCommands (q : SeqId) : List (Instr × Op) :=
  [(.nop q, .nop), (.add q, .add), (.sub q, .sub), (.and q, .and), (.or q, .or), (.xor q, .xor), (.shl q, .shl),
    (.shr q, .shr), (.sra q, .sra), (.li q, .li), (.lui q, .lui), (.cmp q, .cmp), (.loop q, .loop),
    (.waitTick q, .waitTick), (.waitEvt q, .waitEvt), (.sig q, .sig), (.fence q, .fence), (.frameEnd q, .frameEnd),
    (.halt q, .halt)]

theorem exec_scalar (s : State) (q : SeqId) : ∀ p ∈ scalarCommands q, exec p.1 s = .next (s.issue q p.2) := by
  simp only [scalarCommands, List.forall_mem_cons]
  exact ⟨rfl, rfl, rfl, rfl, rfl, rfl, rfl, rfl, rfl, rfl, rfl, rfl, rfl, rfl, rfl, rfl, rfl, rfl, rfl,
    List.forall_mem_nil _⟩

theorem scalarCommands_not_branch (q : SeqId) : ∀ p ∈ scalarCommands q, p.2 ≠ .br ∧ p.2 ≠ .brp := by
  simp [scalarCommands]

end Sys2Proof.Machine
end

section
/-! ## Results of the scalar instructions (R179, R180, R200, R203, R205) -/
namespace Sys2Proof.Machine

/-- A command whose instruction is a plain one, its predicate true, writes its register and passes control on. -/
theorem exec_plain {s : State} {q : SeqId} {c : Instr} {x : SInst} (h : s.holdsS q x) (hx : x.Plain)
    (hc : (c, x.op) ∈ scalarCommands q) :
    exec c s = .next ((s.issued (SeqId.num q)).setSeq (SeqId.num q)
      (s.passed (SeqId.num q) (cndRegs (s.seq (SeqId.num q)) x 0))) := by
  rw [exec_scalar s q _ hc, State.issue_plain (State.holdsS_iff.mp h) (if_pos rfl) hx
    fun span now => Seq.flow_plain hx _ span _ now]

/-- A command whose instruction has a false predicate only passes control on. -/
theorem exec_skipped {s : State} {q : SeqId} {c : Instr} {y : SInst} (h : s.skipsS q y)
    (hc : (c, y.op) ∈ scalarCommands q) :
    exec c s = .next ((s.issued (SeqId.num q)).setSeq (SeqId.num q)
      (s.passed (SeqId.num q) (s.seq (SeqId.num q)))) := by
  obtain ⟨hbr, hbrp⟩ := scalarCommands_not_branch q _ hc
  rw [exec_scalar s q _ hc, State.issue_plain (State.skipsS_iff.mp h) (if_neg Bool.false_ne_true) .nop
    fun span now => Seq.flow_skipped hbr hbrp _ span now]
  rfl

/-- The ALU commands, each with its mnemonic and its result from the operands `a` and `b` (R203). -/
def aluResults (q : SeqId) (a b : Word) : List (Instr × Op × Word) :=
  [(.add q, .add, a + b), (.sub q, .sub, a - b), (.and q, .and, a &&& b), (.or q, .or, a ||| b), (.xor q, .xor, a ^^^ b),
    (.shl q, .shl, a <<< (b.toNat % 32)), (.shr q, .shr, a >>> (b.toNat % 32)), (.sra q, .sra, a.sshiftRight (b.toNat % 32))]

/-- Each ALU command issues its mnemonic, for which the ALU gives the result listed. -/
theorem aluResults_spec {q : SeqId} {a b x : Word} {c : Instr} {o : Op} (h : (c, o, x) ∈ aluResults q a b) :
    (c, o) ∈ scalarCommands q ∧ aluOp o a b = x := by
  have hall : ∀ p ∈ aluResults q a b, (p.1, p.2.1) ∈ scalarCommands q ∧ aluOp p.2.1 a b = p.2.2 := by
    simp [aluResults, scalarCommands, aluOp]
  exact hall _ h

/-- A block's FENCE waits while a store whose bytes are not visible is under way, and otherwise passes control on (R205). -/
theorem exec_fence_block {s : State} {r : Fin 4} {b : Fin 12} (h : s.holdsS (.blk r b) .fence) :
    let i := 12 * r.val + b.val
    let u := s.issued i
    exec (.fence (.blk r b)) s = .next (u.setSeq i
      (if (s.seq i).ports.any (fun m => decide (u.cycle < m.due) && !m.old.isEmpty) then s.waiting i
        else s.passed i (s.seq i))) := by
  intro i u
  have hi : i < 48 := by omega
  have hopen : u.waitStalls (s.seq i) .fence = (s.seq i).ports.any fun m => decide (u.cycle < m.due) && !m.old.isEmpty :=
    List.any_filter
  have hfault : u.scalarFault? i (s.seq i) .fence = none := by
    simp [State.scalarFault?, Seq.misplaced, Seq.loopsFull]
  have hc : (Instr.fence (.blk r b), SInst.fence.op) ∈ scalarCommands (.blk r b) := by simp [scalarCommands, SInst.op]
  rw [exec_scalar s _ _ hc, State.issue_block (State.holdsS_iff.mp h) (if_pos rfl), hopen, hfault, State.passed_block s _ hi]
  split <;> rfl

/-- Settles O23: ALU, LI, LUI, CMP and NOP are plain instructions (`exec_plain`), a false predicate leaves only the
passing on (`exec_skipped`), and FENCE of a block is `exec_fence_block`; what a register reads afterwards is said of `Seq.setS`,
`Seq.put` and `Seq.setP`. -/
theorem scalarResults : Obligations.ScalarResults := by
  unfold Obligations.ScalarResults
  refine ⟨?results, ?cmp, ?nop, ?skipped, fun s r b h => exec_fence_block h, ?registers, ?predicates⟩
  case results =>
    rintro s q c d y x h i z (⟨o, ra, b, rfl, hc⟩ | ⟨o, rfl, hc⟩)
    · obtain ⟨hcommand, hx⟩ := aluResults_spec hc
      rw [← hx]
      exact exec_plain h (.alu o d ra b) hcommand
    · have hcommand : (c, o) ∈ scalarCommands q := by
        simp only [List.mem_cons, List.not_mem_nil, or_false] at hc
        rcases hc with hc | hc <;> simp [hc, scalarCommands]
      exact exec_plain h (.const o d x) hcommand
  case cmp =>
    intro s q pd k ra b h
    exact exec_plain h (.cmp pd k ra b) (by simp [scalarCommands, SInst.op])
  case nop =>
    intro s q h
    exact exec_plain h .nop (by simp [scalarCommands, SInst.op])
  case skipped =>
    rintro s q c o y h rfl hc
    exact exec_skipped h hc
  case registers =>
    intro q n x hs hm
    exact ⟨Seq.sr_setS_same n x hs, Seq.setS_zero q x, Sparse.at_put_same hm, fun k hk => Seq.sr_setS_other q x hk, rfl⟩
  case predicates =>
    intro q n x hn
    exact ⟨q.pr_setP_same x hn, fun k hk hne => q.pr_setP_other x hk hne⟩

end Sys2Proof.Machine
end

section
/-! ## The release gate (R229 to R231) -/
namespace Sys2Proof

/-- The number whose bits below `n` are those of `p`. -/
def maskBelow (p : Nat → Bool) (n : Nat) : Nat := (List.range n).foldl (fun a i => a + b2n (p i) * 2 ^ i) 0

theorem maskBelow_succ (p : Nat → Bool) (n : Nat) : maskBelow p (n + 1) = maskBelow p n + b2n (p n) * 2 ^ n := by
  simp [maskBelow, List.range_succ]

theorem maskBelow_lt (p : Nat → Bool) (n : Nat) : maskBelow p n < 2 ^ n := by
  induction n with
  | zero => exact Nat.zero_lt_one
  | succ n ih =>
    have hbit : b2n (p n) * 2 ^ n ≤ 1 * 2 ^ n := Nat.mul_le_mul_right _ (by cases p n <;> decide)
    rw [maskBelow_succ, pow_succ]
    omega

theorem maskBelow_congr {p q : Nat → Bool} {n : Nat} (h : ∀ i < n, p i = q i) : maskBelow p n = maskBelow q n := by
  induction n with
  | zero => rfl
  | succ n ih => rw [maskBelow_succ, maskBelow_succ, h n n.lt_succ_self, ih fun i hi => h i (hi.trans n.lt_succ_self)]

theorem bit_eq_testBit (v i : Nat) : bit v i = v.testBit i := by rw [Nat.testBit_eq_decide_div_mod_eq]; rfl

theorem bit_maskBelow (p : Nat → Bool) {n i : Nat} (hi : i < n) : bit (maskBelow p n) i = p i := by
  induction n with
  | zero => exact absurd hi i.not_lt_zero
  | succ n ih =>
    rw [maskBelow_succ, bit_eq_testBit, Nat.add_comm, Nat.mul_comm, Nat.testBit_two_pow_mul_add _ (maskBelow_lt p n)]
    rcases Nat.lt_succ_iff_lt_or_eq.mp hi with h | rfl
    · rw [if_pos h, ← bit_eq_testBit, ih h]
    · rw [if_neg (lt_irrefl i), Nat.sub_self]
      cases p i <;> rfl

/-- Taking away a set bit's weight clears that bit. -/
theorem sub_two_pow_eq_setBits {m k : Nat} (h : bit m k = true) : m - 2 ^ k = setBits m k k 0 := by
  rw [setBits, bits_bit, h, b2n, if_pos rfl, Nat.zero_mod, Nat.zero_mul, Nat.one_mul, Nat.add_zero]

theorem bit_sub_two_pow {m k : Nat} (h : bit m k = true) (i : Nat) :
    bit (m - 2 ^ k) i = if i = k then false else bit m i := by
  rw [sub_two_pow_eq_setBits h, Machine.bit_eq_bits]
  rcases Nat.lt_trichotomy i k with hi | rfl | hi
  · rw [bits_setBits_below _ _ _ _ _ _ le_rfl le_rfl hi, if_neg hi.ne, Machine.bit_eq_bits]
  · rw [bits_setBits_same, Nat.zero_mod, if_pos rfl]; rfl
  · rw [bits_setBits_above _ _ _ _ _ _ le_rfl hi, if_neg hi.ne', Machine.bit_eq_bits]

theorem two_pow_le_of_bit {m k : Nat} (h : bit m k = true) : 2 ^ k ≤ m :=
  Nat.ge_two_pow_of_testBit (bit_eq_testBit m k ▸ h)

namespace Machine

/-! ### Event lines of blocks -/

/-- A sequencer with an event line set besides those it has. -/
def Seq.withLine (q : Seq) (line : Nat) : Seq := { q with evt := q.evt ||| (1#32 <<< line) }

theorem State.seq_setLine_same {s : State} (blk line : Nat) (h : Sparse.rising s.seqs = true) :
    (s.setLine blk line).seq blk = (s.seq blk).withLine line := Sparse.at_put_same h

theorem State.seq_setLine_other (s : State) {blk i : Nat} (line : Nat) (h : i ≠ blk) :
    (s.setLine blk line).seq i = s.seq i := Sparse.at_put_other h

/-- `s` with a line set in every block below `n` that satisfies `p`. -/
def State.setLines (s : State) (p : Nat → Bool) (line n : Nat) : State :=
  (List.range n).foldl (fun t i => if p i then t.setLine i line else t) s

theorem State.setLines_succ (s : State) (p : Nat → Bool) (line n : Nat) : s.setLines p line (n + 1) =
    if p n then (s.setLines p line n).setLine n line else s.setLines p line n := by
  simp [State.setLines, List.range_succ]

/-- Setting lines changes sequencers only. -/
theorem State.setLines_same (s : State) (p : Nat → Bool) (line n : Nat) :
    s.setLines p line n = { s with seqs := (s.setLines p line n).seqs } := by
  induction n with
  | zero => rfl
  | succ n ih =>
    rw [State.setLines_succ]
    split
    · rw [ih]; rfl
    · exact ih

theorem State.setLines_seqs_rising {s : State} (p : Nat → Bool) (line n : Nat) (h : Sparse.rising s.seqs = true) :
    Sparse.rising (s.setLines p line n).seqs = true := by
  induction n with
  | zero => exact h
  | succ n ih =>
    rw [State.setLines_succ]
    split
    · exact Sparse.rising_put ih
    · exact ih

theorem State.seq_setLines {s : State} (p : Nat → Bool) (line n i : Nat) (h : Sparse.rising s.seqs = true) :
    (s.setLines p line n).seq i = if i < n ∧ p i = true then (s.seq i).withLine line else s.seq i := by
  induction n with
  | zero => simp [State.setLines]
  | succ n ih =>
    rw [State.setLines_succ]
    by_cases hi : i = n
    · subst hi
      have hbefore : (s.setLines p line i).seq i = s.seq i := by rw [ih, if_neg (by omega)]
      cases hp : p i with
      | true =>
        rw [if_pos rfl, State.seq_setLine_same _ _ (State.setLines_seqs_rising p line i h), hbefore, if_pos (by simp)]
      | false => rw [if_neg (by simp), hbefore, if_neg (by simp)]
    · have hstep : (if p n then (s.setLines p line n).setLine n line else s.setLines p line n).seq i =
          (s.setLines p line n).seq i := by
        split
        · exact State.seq_setLine_other _ _ hi
        · rfl
      have hlt : i < n + 1 ↔ i < n := by omega
      rw [hstep, ih]
      exact if_congr (and_congr_left' hlt.symm) rfl rfl

theorem State.ordered_seqs {s : State} (h : s.ordered = true) : Sparse.rising s.seqs = true := by
  simp only [State.ordered, Bool.and_eq_true] at h
  simp only [h]

/-! ### What the gate reads -/

theorem State.get_gatePendMask_lt (s : State) (x : Nat) : s.get gatePendMask x < 2 ^ 48 := bits_lt _ 47 0 _ rfl

theorem State.get_set_gatePendMask {s : State} {v : Nat} (x : Nat) (h : Sparse.rising s.regs = true) (hv : v < 2 ^ 48) :
    (s.set gatePendMask v x).get gatePendMask x = v :=
  (State.get_set_same s gatePendMask v x 0 h (by decide) (by decide)).trans (Nat.mod_eq_of_lt hv)

/-- The members are what they were where neither GATE.MEMBERS nor the retired blocks change. -/
theorem State.gateMember_kept {s t : State} {p : Nat → Bool} (h : s.regsKept t p) (hm : p (gateMembers.key 0 0) = false)
    (hr : ∀ r < 4, p (rgnBlkret.key r 0) = false) {i : Nat} (hi : i < 48) : t.gateMember i = s.gateMember i := by
  rw [State.gateMember, State.gateMember, State.blockRetired, State.blockRetired, h.get gateMembersMask 0 0 hm,
    h.get rgnBlkretMask (i / 12) 0 (hr _ (by omega))]

/-! ### A fill -/

/-- `s` with a fill of a buffer that some member still holds recorded as early (R230). -/
def State.earlyMarked (s : State) (x : Nat) : State :=
  if s.get gatePendMask x ≠ 0 then (s.setW1c gateStatusEarly).raise 423 else s

/-- The status register an early fill sets, if buffer `x` is still held. -/
def State.earlyReg (s : State) (x k : Nat) : Bool := s.get gatePendMask x ≠ 0 && k = gateStatus.key 0 0

theorem State.earlyMarked_free {s : State} {x : Nat} (h : s.get gatePendMask x = 0) : s.earlyMarked x = s :=
  if_neg (not_not.mpr h)

theorem State.earlyMarked_held {s : State} {x : Nat} (h : s.get gatePendMask x ≠ 0) :
    s.earlyMarked x = (s.setW1c gateStatusEarly).raise 423 := if_pos h

theorem State.earlyMarked_events (s : State) (x : Nat) : s.onlyEvents (s.earlyMarked x) (s.earlyReg x) := by
  by_cases h : s.get gatePendMask x = 0
  · rw [State.earlyMarked_free h]
    exact ⟨s.sameBut_refl, s.regsKept_refl _⟩
  · rw [State.earlyMarked_held h]
    have hraised := (s.setW1c gateStatusEarly).raised 423
    refine ⟨State.sameBut_trans (s.sameBut_setW1c _ _ _) hraised.same, State.regsKept_trans ?_
      (State.regsKept_mono hraised.kept fun k hk => by simp [hk])⟩
    exact s.regsKept_setReg gateStatus 0 0 _ _ (by simp [State.earlyReg, h])

theorem State.earlyMarked_rising {s : State} (x : Nat) (h : Sparse.rising s.regs = true) :
    Sparse.rising (s.earlyMarked x).regs = true := by
  unfold State.earlyMarked
  split
  · exact State.raise_rising _ _ (s.setReg_rising _ _ _ _ h)
  · exact h

theorem State.earlyMarked_shows {s : State} {x : Nat} (h : s.get gatePendMask x ≠ 0) (hr : Sparse.rising s.regs = true)
    (hp : s.power.inReset = false) :
    (s.earlyMarked x).on gateStatusEarly = true ∧ (s.earlyMarked x).evtOn 423 = true := by
  have hr1 : Sparse.rising (s.setW1c gateStatusEarly).regs = true := s.setReg_rising _ _ _ _ hr
  rw [State.earlyMarked_held h]
  refine ⟨?_, State.raise_on _ 423 (by decide) hp hr1⟩
  rw [((s.setW1c gateStatusEarly).raised 423).kept.on gateStatusEarly 0 0 (by decide)]
  exact s.on_setW1c gateStatusEarly 0 0 rfl (by decide) hr

/-- The registers of an early fill are none that say who the members are. -/
theorem State.gateMember_earlyMarked (s : State) (x : Nat) {i : Nat} (hi : i < 48) :
    (s.earlyMarked x).gateMember i = s.gateMember i := by
  have hapart : ∀ k, eventReg k = false → k ≠ gateStatus.key 0 0 → (eventReg k || s.earlyReg x k) = false := by
    intro k he hk
    simp [State.earlyReg, he, hk]
  have hretired : ∀ r < 4, eventReg (rgnBlkret.key r 0) = false ∧ rgnBlkret.key r 0 ≠ gateStatus.key 0 0 := by decide
  exact State.gateMember_kept (s.earlyMarked_events x).2 (hapart _ (by decide) (by decide))
    (fun r hr => hapart _ (hretired r hr).1 (hretired r hr).2) hi

/-- The issuer's fill with the lines it sets still to come: every member owes a release of buffer `x` (R230). -/
def State.owing (s : State) (x : Nat) : State := (s.earlyMarked x).set gatePendMask (maskBelow s.gateMember 48) x

theorem State.gateFill_issuer {s : State} {blk : Nat} (x : Nat) (hon : s.gateOn = true) (hblk : s.gateIssuerBlk = blk) :
    s.gateFill blk x = (s.owing x).setLines s.gateMember (12 + x) 48 := by
  have hmask : (s.earlyMarked x).gateMask = maskBelow s.gateMember 48 :=
    maskBelow_congr fun i hi => s.gateMember_earlyMarked x hi
  rw [State.gateFill, if_neg (by simp [hon, hblk]), State.owing, ← hmask]
  rfl

theorem State.gateFill_idle {s : State} {blk : Nat} (x : Nat) (h : s.gateOn = false ∨ s.gateIssuerBlk ≠ blk) :
    s.gateFill blk x = s := by
  rcases h with h | h
  · rw [State.gateFill, if_pos (by simp [h])]
  · rw [State.gateFill, if_pos (by simp [h.symm])]

theorem State.owing_events (s : State) (x : Nat) :
    s.onlyEvents (s.owing x) (fun k => k = gatePend.key x 0 || s.earlyReg x k) := by
  obtain ⟨hsame, hkept⟩ := s.earlyMarked_events x
  refine ⟨State.sameBut_trans hsame (State.sameBut_set _ _ _ _ _), State.regsKept_trans
    (State.regsKept_mono hkept fun k hk => ?_) (State.regsKept_set _ _ _ _ _ _ (by simp [gatePendMask]))⟩
  rcases (Bool.or_eq_true _ _).mp hk with hk | hk <;> simp [hk]

theorem State.owing_free {s : State} {x : Nat} (h : s.get gatePendMask x = 0) :
    s.onlyRegs (s.owing x) (fun k => k = gatePend.key x 0) := by
  rw [State.owing, State.earlyMarked_free h]
  exact ⟨rfl, State.regsKept_set _ _ _ _ _ _ (by simp [gatePendMask])⟩

theorem State.get_owing {s : State} (x : Nat) (h : Sparse.rising s.regs = true) :
    (s.owing x).get gatePendMask x = maskBelow s.gateMember 48 :=
  State.get_set_gatePendMask x (State.earlyMarked_rising x h) (maskBelow_lt _ _)

theorem State.owing_shows {s : State} (x : Fin 2) (h : s.get gatePendMask x ≠ 0) (hr : Sparse.rising s.regs = true)
    (hp : s.power.inReset = false) : (s.owing x).on gateStatusEarly = true ∧ (s.owing x).evtOn 423 = true := by
  obtain ⟨hon, hevt⟩ := State.earlyMarked_shows h hr hp
  have hstatus : ∀ y : Fin 2, gateStatus.key 0 0 ≠ gatePend.key y 0 := by decide
  have hstat : ∀ y : Fin 2, ∀ w < 16, evtStat.key w 0 ≠ gatePend.key y 0 := by decide
  constructor
  · rw [State.on, State.owing, State.get_set_other _ _ _ _ _ _ _ _ (hstatus x)]
    exact hon
  · rw [State.owing, State.evtOn_set _ _ _ _ _ _ (hstat x) (by decide)]
    exact hevt

theorem State.owing_seqs (s : State) (x : Nat) : (s.owing x).seqs = s.seqs := by
  rw [(s.owing_events x).1]

/-! ### A release -/

theorem State.gateRelease_member {s : State} {blk : Nat} (x : Nat) (hon : s.gateOn = true) (hm : s.gateMember blk = true) :
    s.gateRelease blk x = { s with releases := s.releases ++ [⟨blk, x, (s.seq blk).starts⟩] } := by
  rw [State.gateRelease, if_neg (by simp [hon, hm])]

theorem State.gateRelease_idle {s : State} {blk : Nat} (x : Nat) (h : s.gateOn = false ∨ s.gateMember blk = false) :
    s.gateRelease blk x = s := by
  rw [State.gateRelease, if_pos (by simpa using h)]

theorem exec_gateReleaseEffect {s : State} {r : Fin 4} {b : Fin 12} {x : Fin 2} {e : Release}
    (h : (s.releases.find? fun e => e.blk = 12 * r.val + b.val && e.x = x.val) = some e) :
    exec (.gateReleaseEffect r b x) s = .next (if s.releaseDue e then s.releaseEffect e else s) := by
  show Host.Outcome.next _ = _
  rw [h]

/-- `s` with release `e` taken: it is no longer recorded, and its member owes none. -/
def State.taken (s : State) (e : Release) : State :=
  { s with releases := s.releases.erase e }.set gatePendMask (s.get gatePendMask e.x - 2 ^ e.blk) e.x

/-- `State.releaseEffect` with what it reads read before the release leaves the record. -/
theorem State.releaseEffect_eq (s : State) (e : Release) : s.releaseEffect e =
    if !s.gateOn || !bit (s.get gatePendMask e.x) e.blk then { s with releases := s.releases.erase e }
    else if s.get gatePendMask e.x = 2 ^ e.blk then (s.taken e).setLine (s.taken e).gateIssuerBlk (14 + e.x)
    else s.taken e := rfl

theorem State.releaseEffect_void {s : State} {e : Release}
    (h : s.gateOn = false ∨ bit (s.get gatePendMask e.x) e.blk = false) :
    s.releaseEffect e = { s with releases := s.releases.erase e } := by
  rw [State.releaseEffect_eq, if_pos (by simpa using h)]

theorem State.get_taken {s : State} (e : Release) (h : Sparse.rising s.regs = true) :
    (s.taken e).get gatePendMask e.x = s.get gatePendMask e.x - 2 ^ e.blk :=
  State.get_set_gatePendMask e.x h ((Nat.sub_le _ _).trans_lt (s.get_gatePendMask_lt e.x))

theorem State.taken_only (s : State) (e : Release) :
    State.onlyRegs { s with releases := s.releases.erase e } (s.taken e) (fun k => k = gatePend.key e.x 0) :=
  ⟨rfl, State.regsKept_set _ _ _ _ _ _ (by simp [gatePendMask])⟩

theorem State.gateIssuerBlk_taken (s : State) (e : Release) : (s.taken e).gateIssuerBlk = s.gateIssuerBlk := by
  have hkey : gateIssuer.key 0 0 ≠ gatePend.key e.x 0 := by simp only [RegDef.key, gateIssuer, gatePend]; omega
  rw [State.gateIssuerBlk, State.taken, State.get_set_other _ _ _ _ _ _ _ _ hkey, State.get_set_other _ _ _ _ _ _ _ _ hkey]
  rfl

/-- A release that takes effect empties PENDx exactly when it is the last one owed, and the issuer's line says so (R231). -/
theorem State.releaseEffect_taken {s : State} {e : Release} (hr : Sparse.rising s.regs = true) (hon : s.gateOn = true)
    (hbit : bit (s.get gatePendMask e.x) e.blk = true) :
    s.releaseEffect e = if (s.taken e).get gatePendMask e.x = 0 then (s.taken e).setLine s.gateIssuerBlk (14 + e.x)
      else s.taken e := by
  have hle : 2 ^ e.blk ≤ s.get gatePendMask e.x := two_pow_le_of_bit hbit
  have hlast : (s.taken e).get gatePendMask e.x = 0 ↔ s.get gatePendMask e.x = 2 ^ e.blk := by
    rw [State.get_taken e hr]; omega
  rw [State.releaseEffect_eq, if_neg (by simp [hon, hbit]), s.gateIssuerBlk_taken e]
  exact if_congr hlast.symm rfl rfl

/-- What a release that takes effect leaves of PENDx and of the sequencers. -/
theorem State.releaseEffect_spec {s t : State} {e : Release} (hr : Sparse.rising s.regs = true)
    (hq : Sparse.rising s.seqs = true) (hon : s.gateOn = true) (hbit : bit (s.get gatePendMask e.x) e.blk = true)
    (ht : s.releaseEffect e = t) :
    State.onlyRegs { s with seqs := t.seqs, releases := s.releases.erase e } t (fun k => k = gatePend.key e.x 0) ∧
      t.get gatePendMask e.x = s.get gatePendMask e.x - 2 ^ e.blk ∧
      (∀ i, i ≠ s.gateIssuerBlk → t.seq i = s.seq i) ∧
      t.seq s.gateIssuerBlk = if t.get gatePendMask e.x = 0 then (s.seq s.gateIssuerBlk).withLine (14 + e.x)
        else s.seq s.gateIssuerBlk := by
  have hpend := State.get_taken e hr
  have hkept := (s.taken_only e).2
  rw [State.releaseEffect_taken hr hon hbit] at ht
  subst ht
  by_cases hlast : (s.taken e).get gatePendMask e.x = 0
  · rw [if_pos hlast]
    exact ⟨⟨rfl, hkept⟩, hpend, fun i hi => State.seq_setLine_other _ _ hi,
      (State.seq_setLine_same (s := s.taken e) _ _ hq).trans (if_pos hlast).symm⟩
  · rw [if_neg hlast]
    exact ⟨⟨rfl, hkept⟩, hpend, fun _ _ => rfl, (if_neg hlast).symm⟩

/-- Settles O34: a fill is `State.owing` followed by `State.setLines`, and a release that takes effect is `State.taken`,
followed by the issuer's line when PENDx is empty then. -/
theorem gateTurns : Obligations.GateTurns := by
  unfold Obligations.GateTurns
  refine ⟨?fill, ?release, ?idle, ?effect⟩
  case fill =>
    intro s r b x hsound hreset hord hon hblk
    have hr := State.sound_rising hsound
    have hq : Sparse.rising (s.owing x).seqs = true := by rw [s.owing_seqs x]; exact State.ordered_seqs hord
    have hseq : ∀ i, (s.owing x).seq i = s.seq i := fun i => by rw [State.seq, s.owing_seqs x]; rfl
    refine ⟨s.gateFill (12 * r + b) x, rfl, ?_⟩
    rw [State.gateFill_issuer x hon hblk]
    have hlines := State.seq_setLines s.gateMember (12 + x) 48 (h := hq)
    have hsame := (s.owing x).setLines_same s.gateMember (12 + x) 48
    generalize (s.owing x).setLines s.gateMember (12 + x) 48 = t at hlines hsame ⊢
    have hregs : t.regs = (s.owing x).regs := by rw [hsame]
    have hget : t.get gatePendMask x = maskBelow s.gateMember 48 := by rw [hsame]; exact State.get_owing x hr
    refine ⟨⟨?same, ?kept⟩, ?pend, ?member, ?other, ?free, ?early⟩
    case same => rw [State.sameBut, hsame, (s.owing_events x).1]
    case kept => intro k d hk; rw [hregs]; exact (s.owing_events x).2 k d hk
    case pend => intro i hi; rw [hget, bit_maskBelow _ hi]
    case member => intro i hi hm; rw [hlines, if_pos ⟨hi, hm⟩, hseq]; rfl
    case other =>
      intro i hi
      rw [hlines, if_neg, hseq]
      rintro ⟨hlt, hm⟩
      rcases hi with hi | hi
      · omega
      · simp [hi] at hm
    case free =>
      intro h
      obtain ⟨hs, hk⟩ := State.owing_free h
      exact ⟨by rw [hsame, hs], fun k d hp => by rw [hregs]; exact hk k d hp⟩
    case early => intro h; rw [hsame]; exact State.owing_shows x h hr hreset
  case release =>
    intro s r b x hon hm
    exact congrArg Host.Outcome.next (State.gateRelease_member x hon hm)
  case idle =>
    intro s r b x
    exact ⟨fun h => congrArg Host.Outcome.next (State.gateRelease_idle x h),
      fun h => congrArg Host.Outcome.next (State.gateFill_idle x h)⟩
  case effect =>
    intro s r b x e hsound hord hfind
    have he := List.find?_some hfind
    simp only [Bool.and_eq_true, decide_eq_true_eq] at he
    obtain ⟨hblk, hx⟩ := he
    rw [exec_gateReleaseEffect hfind, ← hblk, ← hx]
    refine ⟨fun hdue => by rw [hdue]; rfl, fun hdue => ?_⟩
    rw [if_pos hdue]
    refine ⟨fun hon hbit => ?_, fun h => congrArg Host.Outcome.next (State.releaseEffect_void h)⟩
    obtain ⟨honly, hpend, hother, hissuer⟩ :=
      State.releaseEffect_spec (State.sound_rising hsound) (State.ordered_seqs hord) hon hbit rfl
    refine ⟨s.releaseEffect e, rfl, honly, ?_, fun i hi => ?_, hother, hissuer⟩
    · rw [hpend, bit_sub_two_pow hbit, if_pos rfl]
    · rw [hpend, bit_sub_two_pow hbit, if_neg hi]

end Machine
end Sys2Proof
end

section
/-! ## Numbers in two's complement, and writes that take a register field by field (R7) -/
namespace Sys2Proof

theorem sext_toNat {w : Nat} (v : BitVec w) : sext w v.toNat = v.toInt := by
  rw [sext, Nat.mod_eq_of_lt v.isLt, BitVec.toInt_eq_toNat_cond]

theorem sext_toBits_32 {x : Int} (hlo : -2147483648 ≤ x) (hhi : x ≤ 2147483647) : sext 32 (toBits 32 x) = x := by
  have hmod : toBits 32 x % 2 ^ 32 = toBits 32 x := Nat.mod_eq_of_lt (by simp only [toBits]; omega)
  rw [sext, hmod, toBits]
  split_ifs <;> omega

theorem toBits_lt (w : Nat) (x : Int) : toBits w x < 2 ^ w := by
  have hw : (0 : Int) < (2 ^ w : Nat) := Int.natCast_pos.mpr (Nat.two_pow_pos w)
  have hlo := Int.emod_nonneg x hw.ne'
  have hhi := Int.emod_lt_of_pos x hw
  rw [toBits]
  omega

theorem clampInt_bounds (x : Int) :
    -2147483648 ≤ clampInt (-2147483648) 2147483647 x ∧ clampInt (-2147483648) 2147483647 x ≤ 2147483647 := by
  unfold clampInt
  split
  · omega
  · split <;> omega

theorem clampInt_zero : clampInt (-2147483648) 2147483647 0 = 0 := by simp [clampInt]

/-- The fields of a register, each with its bits in order, and no two with a common bit. -/
abbrev fieldsApart (fs : List Machine.Fld) : Prop :=
  (∀ f ∈ fs, f.lo ≤ f.hi) ∧ fs.Pairwise fun f g => g.hi < f.lo ∨ f.hi < g.lo

/-- A write leaves the bits that none of the register's fields holds. -/
theorem bits_writeFields_apart {fs : List Machine.Fld} {hi lo : Nat} (hl : lo ≤ hi) (hfs : ∀ f ∈ fs, f.lo ≤ f.hi)
    (h : ∀ f ∈ fs, hi < f.lo ∨ f.hi < lo) (old v : Nat) :
    bits (Machine.writeFields fs old v) hi lo = bits old hi lo := by
  induction fs generalizing old with
  | nil => rfl
  | cons f r ih =>
    obtain ⟨hf, hr⟩ := List.forall_mem_cons.mp hfs
    obtain ⟨hd, hdr⟩ := List.forall_mem_cons.mp h
    rw [Machine.writeFields, ih hr hdr]
    rcases hd with hd | hd
    · exact bits_setBits_below _ _ _ _ _ _ hf hl hd
    · exact bits_setBits_above _ _ _ _ _ _ hf hd

/-- A read-write field takes the value written to it. -/
theorem bits_writeFields {fs : List Machine.Fld} {hi lo : Nat} (hfs : fieldsApart fs) (hm : ⟨hi, lo, .rw⟩ ∈ fs)
    (old v : Nat) : bits (Machine.writeFields fs old v) hi lo = bits v hi lo := by
  obtain ⟨hord, hap⟩ := hfs
  induction fs generalizing old with
  | nil => cases hm
  | cons f r ih =>
    obtain ⟨hf, hr⟩ := List.forall_mem_cons.mp hord
    obtain ⟨hd, hdr⟩ := List.pairwise_cons.mp hap
    rcases List.mem_cons.mp hm with rfl | hm
    · rw [Machine.writeFields, bits_writeFields_apart hf hr fun g hg => (hd g hg).symm]
      exact (bits_setBits_same _ _ _ _).trans (bits_mod_width v hi lo)
    · exact ih hm _ hr hdr

namespace Machine

theorem State.get_writeFieldsOf {s : State} (f : RField) (i j v : Nat) (hr : Sparse.rising s.regs = true) (hf : f.fits)
    (hfs : fieldsApart f.reg.fields) (hm : ⟨f.hi, f.lo, .rw⟩ ∈ f.reg.fields) :
    (s.writeFieldsOf f.reg i j v).get f i j = bits v f.hi f.lo := by
  obtain ⟨hl, hw⟩ := hf
  rw [State.get, State.writeFieldsOf, State.reg_setReg_same s _ _ _ _ hr, bits_mod _ _ _ _ hw hl, bits_writeFields hfs hm]

/-- The whole of a register that is one field. -/
theorem State.get_setReg_whole {s : State} (f : RField) (i j v : Nat) (hr : Sparse.rising s.regs = true) (hl : f.lo = 0)
    (hw : f.hi + 1 = f.reg.width) : (s.setReg f.reg i j v).get f i j = v % 2 ^ f.reg.width := by
  rw [State.get, State.reg_setReg_same s _ _ _ _ hr, hl, bits, hw, pow_zero, Nat.div_one, Nat.sub_zero, Nat.mod_mod]

theorem State.get_setReg_other {s : State} (r : RegDef) (f : RField) (v i j i' j' : Nat)
    (h : f.reg.key i' j' ≠ r.key i j) : (s.setReg r i j v).get f i' j' = s.get f i' j' :=
  congrArg (bits · f.hi f.lo) (s.reg_setReg_other _ _ _ _ _ _ _ h)

theorem State.on_eq_bit (s : State) (r : RegDef) (b i j : Nat) : s.on ⟨r, b, b⟩ i j = bit (s.reg r i j) b :=
  (bit_eq_bits _ b).symm

end Machine
end Sys2Proof
end

section
/-! ## What a step within the timebase leaves (R303 to R318) -/
namespace Sys2Proof.Machine

/-- No register of the event unit's status bits, nor `TB.STATUS`. -/
def statusFree (k : Nat) : Bool := decide (k ≠ 0x200008 ∧ (k < 0x400000 ∨ 0x400040 ≤ k))

/-- From `s` to `t` no register changes but those at `l` and what raising a source changes; no status bit of the event unit
or of `TB.STATUS` is lost. -/
structure State.Keeps (s : State) (l : List Nat) (t : State) : Prop where
  kept : s.regsKept t fun k => eventReg k || decide (k ∈ l)
  rising : Sparse.rising s.regs = true → Sparse.rising t.regs = true
  on : ∀ n < 512, Sparse.rising s.regs = true → s.evtOn n = true → t.evtOn n = true
  status : ∀ b < 32, Sparse.rising s.regs = true → bit (s.reg tbStatus 0 0) b = true → bit (t.reg tbStatus 0 0) b = true

namespace State.Keeps
variable {s t u : State} {l m : List Nat}

theorem of_regs (h : t.regs = s.regs) : s.Keeps l t :=
  ⟨fun _ _ _ => by rw [h], fun hr => by rw [h]; exact hr,
    fun n _ _ hn => by rw [State.evtOn_reg, State.reg, h] at *; exact hn,
    fun b _ _ hb => by rw [State.reg, h]; exact hb⟩

theorem trans (h : s.Keeps l t) (k : t.Keeps l u) : s.Keeps l u where
  kept := State.regsKept_trans h.kept k.kept
  rising := fun hr => k.rising (h.rising hr)
  on := fun n hn hr ho => k.on n hn (h.rising hr) (h.on n hn hr ho)
  status := fun b hb hr ho => k.status b hb (h.rising hr) (h.status b hb hr ho)

theorem mono (h : s.Keeps l t) (hl : l ⊆ m) : s.Keeps m t where
  kept := State.regsKept_mono h.kept fun k hk => by
    rcases (Bool.or_eq_true _ _).mp hk with hk | hk
    · simp [hk]
    · simp [hl (of_decide_eq_true hk)]
  rising := h.rising
  on := h.on
  status := h.status

theorem setReg (s : State) (r : RegDef) (i j v : Nat) (hl : r.key i j ∈ l) (hf : statusFree (r.key i j) = true) :
    s.Keeps l (s.setReg r i j v) where
  kept := s.regsKept_setReg _ _ _ _ _ (by simp [hl])
  rising := s.setReg_rising _ _ _ _
  on := fun n hn _ ho => by
    have hkey : evtStat.key (n / 32) 0 ≠ r.key i j := by
      have := of_decide_eq_true hf
      rw [evtStat_key]
      omega
    rw [State.evtOn_reg] at ho ⊢
    rwa [State.reg_setReg_other _ _ _ _ _ _ _ _ hkey]
  status := fun b _ _ hb => by
    have hkey : tbStatus.key 0 0 ≠ r.key i j := fun h => (of_decide_eq_true hf).1 h.symm
    rwa [State.reg_setReg_other _ _ _ _ _ _ _ _ hkey]

theorem raise (s : State) (src : Nat) : s.Keeps l (s.raise src) where
  kept := State.regsKept_mono (s.raised src).kept fun k hk => by simp [hk]
  rising := (s.raised src).rising
  on := fun n hn hr ho => (s.raised src).on n hn ho hr
  status := fun b _ _ hb => by rwa [s.reg_raise src tbStatus 0 0 (by decide)]

theorem from_regs (h : t.Keeps l u) (hr : t.regs = s.regs) : s.Keeps l u := (of_regs hr).trans h

theorem raised (h : t.regs = s.regs) (src : Nat) : s.Keeps l (t.raise src) := (of_regs h).trans (.raise t src)

theorem ite (c : Prop) [Decidable c] (h : s.Keeps l t) : s.Keeps l (if c then t else s) := by
  split
  · exact h
  · exact of_regs rfl

theorem foldl {α : Type} (f : State → α → State) (h : ∀ (s : State) x, s.Keeps l (f s x)) (xs : List α) (s : State) :
    s.Keeps l (xs.foldl f s) := by
  induction xs generalizing s with
  | nil => exact of_regs rfl
  | cons x xs ih => exact (h s x).trans (ih _)

/-- A field of a register that keeps its value. -/
theorem get (h : s.Keeps l t) (f : RField) (i j : Nat) (he : eventReg (f.reg.key i j) = false) (hl : f.reg.key i j ∉ l) :
    t.get f i j = s.get f i j := h.kept.get f i j (by simp [he, hl])

theorem getInt (h : s.Keeps l t) (f : RField) (i j : Nat) (he : eventReg (f.reg.key i j) = false)
    (hl : f.reg.key i j ∉ l) : t.getInt f i j = s.getInt f i j :=
  congrArg (sext _) (h.get f i j he hl)

end State.Keeps

/-! ### Status bits of the timebase -/

theorem State.raise_same (s : State) (src : Nat) : (s.raise src).refs = s.refs ∧ (s.raise src).tb = s.tb := by
  rw [(s.raised src).same]
  exact ⟨rfl, rfl⟩

@[simp] theorem State.tbFlag_refs (s : State) (b : Nat) : (s.tbFlag b).refs = s.refs :=
  (State.raise_same (s.setStatus tbStatus 0 0 (2 ^ b)) _).1

@[simp] theorem State.tbFlag_tb (s : State) (b : Nat) : (s.tbFlag b).tb = s.tb :=
  (State.raise_same (s.setStatus tbStatus 0 0 (2 ^ b)) _).2

theorem State.tbFlag_events (s : State) (b : Nat) : s.onlyEvents (s.tbFlag b) fun k => k = tbStatus.key 0 0 := by
  have h := State.raised (s.setStatus tbStatus 0 0 (2 ^ b)) (168 + b)
  refine ⟨State.sameBut_trans (State.sameBut_refl _) h.same, State.regsKept_trans ?_
    (State.regsKept_mono h.kept fun k hk => by simp [hk])⟩
  exact s.regsKept_setReg tbStatus 0 0 _ _ (by simp)

theorem State.keeps_tbFlag (s : State) (b : Nat) {l : List Nat} (hl : tbStatus.key 0 0 ∈ l) : s.Keeps l (s.tbFlag b) := by
  refine State.Keeps.trans (t := s.setStatus tbStatus 0 0 (2 ^ b)) ?_ (.raise _ _)
  refine ⟨s.regsKept_setReg tbStatus 0 0 _ _ (by simp [hl]), s.setReg_rising _ _ _ _, fun n hn _ ho => ?_,
    fun b' hb hr ho => ?_⟩
  · have hkey : evtStat.key (n / 32) 0 ≠ 0x200008 := by rw [evtStat_key]; omega
    rw [State.evtOn_reg] at ho ⊢
    rwa [State.setStatus, State.reg_setReg_other _ _ _ _ _ _ _ _ hkey]
  · rw [State.setStatus, State.reg_setReg_same _ _ _ _ _ hr]
    exact (bit_or _ _ _ _ hb).trans (by simp [ho])

/-- A raised bit of `TB.STATUS` reads 1, and so does its source. -/
theorem State.tbFlag_shows {s : State} (b : Nat) (hb : b < 8) (hr : Sparse.rising s.regs = true)
    (hp : s.power.inReset = false) :
    bit ((s.tbFlag b).reg tbStatus 0 0) b = true ∧ (s.tbFlag b).evtOn (168 + b) = true := by
  have hlisted : evtListed (168 + b) = true := by
    simp only [evtListed, Bool.or_eq_true, Bool.and_eq_true, decide_eq_true_eq]
    omega
  refine ⟨?_, State.raise_on (s.setStatus tbStatus 0 0 (2 ^ b)) _ hlisted hp (s.setReg_rising _ _ _ _ hr)⟩
  rw [State.tbFlag, State.flagBit, State.reg_raise _ _ _ _ _ (by decide), State.setStatus,
    State.reg_setReg_same _ _ _ _ _ hr]
  exact (bit_or _ _ _ 32 (by omega)).trans (by simp)

end Sys2Proof.Machine
end

section
/-! ## The selector, the states and the servo: what each leaves (R305, R306, R309 to R315, R318) -/
namespace Sys2Proof.Machine

theorem State.timebaseOnly_trans {s t u : State} (h : s.timebaseOnly t) (k : t.timebaseOnly u) : s.timebaseOnly u := by
  obtain ⟨hs, hk⟩ := h
  obtain ⟨ks, kk⟩ := k
  exact ⟨by rw [ks, hs], State.regsKept_trans hk kk⟩

/-- From `s` to `t` the timebase has changed, no register but those at `l` among its own; the servo's latest T2 has not. -/
structure State.TbStep (s : State) (l : List Nat) (t : State) : Prop where
  same : t = { s with regs := t.regs, refs := t.refs, tb := t.tb, fresh := t.fresh, notes := t.notes, msiPend := t.msiPend,
                      msiSent := t.msiSent }
  last : t.tb.sLast = s.tb.sLast
  keeps : s.Keeps l t

namespace State.TbStep
variable {s t u : State} {l m : List Nat}

theorem refl (s : State) : s.TbStep l s := ⟨rfl, rfl, .of_regs rfl⟩

theorem trans (h : s.TbStep l t) (k : t.TbStep l u) : s.TbStep l u :=
  ⟨by rw [k.same, h.same], k.last.trans h.last, h.keeps.trans k.keeps⟩

theorem mono (h : s.TbStep l t) (hl : l ⊆ m) : s.TbStep m t := ⟨h.same, h.last, h.keeps.mono hl⟩

theorem setReg (h : s.TbStep l t) (r : RegDef) (i j v : Nat) (hl : r.key i j ∈ l) (hf : statusFree (r.key i j) = true) :
    s.TbStep l (t.setReg r i j v) := h.trans ⟨rfl, rfl, .setReg t r i j v hl hf⟩

theorem set (h : s.TbStep l t) (f : RField) (v i j : Nat) (hl : f.reg.key i j ∈ l)
    (hf : statusFree (f.reg.key i j) = true) : s.TbStep l (t.set f v i j) := h.setReg f.reg i j _ hl hf

theorem setTb (h : s.TbStep l t) (f : Timebase → Timebase) (hf : ∀ b, (f b).sLast = b.sLast := by intro; rfl) :
    s.TbStep l (t.setTb f) :=
  h.trans ⟨rfl, hf _, .of_regs rfl⟩

theorem setRef (h : s.TbStep l t) (x : Nat) (r : Ref) : s.TbStep l (t.setRef x r) := h.trans ⟨rfl, rfl, .of_regs rfl⟩

theorem drawn (h : s.TbStep l t) : s.TbStep l t.drawn := h.trans ⟨rfl, rfl, .of_regs rfl⟩

theorem tbFlag (h : s.TbStep l t) (b : Nat) (hl : tbStatus.key 0 0 ∈ l) : s.TbStep l (t.tbFlag b) :=
  h.trans ⟨by rw [(t.tbFlag_events b).1], by rw [t.tbFlag_tb b], t.keeps_tbFlag b hl⟩

theorem setTbState (h : s.TbStep l t) (st : Nat) (hs : tbState.key 0 0 ∈ l) (hl : tbStatus.key 0 0 ∈ l) :
    s.TbStep l (t.setTbState st) := by
  unfold State.setTbState
  split
  · exact h
  · exact (h.set tbStateState st 0 0 hs (by decide)).tbFlag 0 hl

/-- Registers of the timebase alone. -/
theorem timebaseOnly (h : s.TbStep l t) (hl : ∀ k ∈ l, 0x200000 ≤ k ∧ k < 0x200300) : s.timebaseOnly t := by
  refine ⟨h.same, State.regsKept_mono h.keeps.kept fun k hk => ?_⟩
  rcases (Bool.or_eq_true _ _).mp hk with hk | hk
  · simp [evtOr, hk]
  · simp [evtOr, hl k (of_decide_eq_true hk)]

theorem inReset (h : s.TbStep l t) : t.power.inReset = s.power.inReset := by rw [h.same]

end State.TbStep

/-! ### The states (R315) -/

theorem State.get_tbFlag (s : State) (b : Nat) (f : RField) (i j : Nat) (he : eventReg (f.reg.key i j) = false)
    (hs : f.reg.key i j ≠ tbStatus.key 0 0) : (s.tbFlag b).get f i j = s.get f i j :=
  (s.keeps_tbFlag b (List.mem_singleton_self _)).get f i j he (by simpa using hs)

theorem State.setTbState_same {s : State} {st : Nat} (h : s.get tbStateState = st) : s.setTbState st = s := if_pos h

theorem State.setTbState_other {s : State} {st : Nat} (h : s.get tbStateState ≠ st) :
    s.setTbState st = (s.set tbStateState st).tbFlag 0 := if_neg h

theorem State.get_setTbState {s : State} {st : Nat} (hst : st < 8) (hr : Sparse.rising s.regs = true) :
    (s.setTbState st).get tbStateState = st := by
  by_cases h : s.get tbStateState = st
  · rw [State.setTbState_same h, h]
  · rw [State.setTbState_other h, State.get_tbFlag _ _ _ _ _ (by decide) (by decide),
      State.get_set_same _ _ _ _ _ hr (by decide) (by decide)]
    exact Nat.mod_eq_of_lt hst

theorem State.get_setTbState_apart {s : State} (st : Nat) (f : RField) (hr : Sparse.rising s.regs = true) (hf : f.fits)
    (ha : tbStateState.apart f) : (s.setTbState st).get f = s.get f := by
  by_cases h : s.get tbStateState = st
  · rw [State.setTbState_same h]
  · rw [State.setTbState_other h, State.get_tbFlag _ _ _ _ _ (by rw [← ha.1]; decide) (by rw [← ha.1]; decide),
      State.get_set_apart _ _ _ _ _ _ hr (by decide) hf ha]

/-- A register beside TB.STATE and TB.STATUS does not see the state. -/
theorem State.get_setTbState_other (s : State) (st : Nat) (f : RField) (he : eventReg (f.reg.key 0 0) = false)
    (hl : f.reg.key 0 0 ∉ [tbState.key 0 0, tbStatus.key 0 0]) : (s.setTbState st).get f = s.get f :=
  ((State.TbStep.refl s).setTbState st (List.mem_cons_self ..) (by simp)).keeps.get f 0 0 he hl

@[simp] theorem State.setTbState_refs (s : State) (st : Nat) : (s.setTbState st).refs = s.refs := by
  unfold State.setTbState; split <;> simp

@[simp] theorem State.setTbState_tb (s : State) (st : Nat) : (s.setTbState st).tb = s.tb := by
  unfold State.setTbState; split <;> simp

/-- A change of the state sets STATE_CHG and raises source 168. -/
theorem State.setTbState_shows {s : State} {st : Nat} (h : s.get tbStateState ≠ st) (hr : Sparse.rising s.regs = true)
    (hp : s.power.inReset = false) :
    (s.setTbState st).on tbStatusStateChg = true ∧ (s.setTbState st).evtOn 168 = true := by
  rw [State.setTbState_other h, tbStatusStateChg, State.on_eq_bit]
  exact State.tbFlag_shows (s := s.set tbStateState st) 0 (by decide) (s.set_rising _ _ _ _ hr) hp

theorem State.setTbState_events (s : State) (st : Nat) :
    s.onlyEvents (s.setTbState st) fun k => k = tbState.key 0 0 || k = tbStatus.key 0 0 := by
  unfold State.setTbState
  split
  · exact ⟨s.sameBut_refl, s.regsKept_refl _⟩
  · have h := State.tbFlag_events (s.set tbStateState st) 0
    refine ⟨State.sameBut_trans (s.sameBut_set _ _ _ _) h.1,
      State.regsKept_trans (State.regsKept_set s tbStateState st 0 0 _ (by decide))
        (State.regsKept_mono h.2 fun k hk => ?_)⟩
    rcases (Bool.or_eq_true _ _).mp hk with hk | hk <;> simp [hk]

/-! ### The selector (R309 to R312) -/

/-- The registers that the selector and the loop may change. -/
def loopRegs : List Nat := [tbState.key 0 0, tbStatus.key 0 0, tbFreq.key 0 0, tbHold.key 0 0]

section
variable {s t : State} (h : s.TbStep loopRegs t)
include h

theorem State.TbStep.setState (f : RField) (v : Nat) (hf : f.reg = tbState) : s.TbStep loopRegs (t.set f v) :=
  h.set f v 0 0 (by rw [hf]; decide) (by rw [hf]; decide)

theorem State.TbStep.toState (st : Nat) : s.TbStep loopRegs (t.setTbState st) := h.setTbState st (by decide) (by decide)

theorem State.TbStep.endWait : s.TbStep loopRegs t.endWait := (h.setState tbStateWtr 0 rfl).setState tbStateWtrLeft 0 rfl

theorem State.TbStep.startSwitch (x : Nat) : s.TbStep loopRegs (t.startSwitch x) :=
  (h.endWait.setState tbStateSwitching 1 rfl).setTb _

theorem State.TbStep.endSwitch : s.TbStep loopRegs t.endSwitch :=
  (h.setState tbStateSwitching 0 rfl).setTb _

theorem State.TbStep.selectRef (x : Nat) : s.TbStep loopRegs (t.selectRef x) := by
  unfold State.selectRef
  exact ((h.setState tbStateCur x rfl).setTb _).toState 1

theorem State.TbStep.loseRef : s.TbStep loopRegs t.loseRef := by
  have hcur := h.endWait.setState tbStateCur 3 rfl
  unfold State.loseRef
  dsimp only
  split
  · exact (hcur.setReg tbFreq 0 0 _ (by decide) (by decide)).toState 3
  · exact hcur.toState 4

theorem State.TbStep.awaitRef (x : Nat) : s.TbStep loopRegs (t.awaitRef x) := by
  unfold State.awaitRef
  dsimp only
  split
  · exact h.startSwitch x
  · split
    · exact h
    · exact ((h.setState tbStateWtr 1 rfl).setState tbStateWtrRef x rfl).setState tbStateWtrLeft _ rfl

theorem State.TbStep.select (forced : Option Nat) : s.TbStep loopRegs (t.select forced) := by
  unfold State.select
  dsimp only
  split
  · exact h
  · split
    · split
      · split
        · exact h
        · exact h.selectRef _
      · exact h
    · split
      · split
        · exact h.startSwitch _
        · exact h.loseRef
      · split
        · split
          · exact h.endWait
          · exact h.awaitRef _
        · exact h.endWait

theorem State.TbStep.judge (forced : Option Nat) : s.TbStep loopRegs (t.judge forced) := by
  unfold State.judge
  split
  · split
    · exact h
    · exact (h.endSwitch.tbFlag 5 (by decide)).select forced
  · exact h.select forced

end

/-! ### The servo's states (R305, R306, R318) -/

/-- The registers that a change of REFC's activity may change. -/
def activityRegs : List Nat := tbRefStat.key 2 0 :: loopRegs

/-- The registers that a change of the servo's state may change. -/
def servoRegs : List Nat := ptpsState.key 0 0 :: activityRegs

theorem State.get_tbRefStat_setQual {s : State} (q : Nat) (f : RField) (hr : Sparse.rising s.regs = true) (hf : f.fits)
    (ha : tbRefStatQstate.apart f) : (s.setQual 2 q).get f 2 = s.get f 2 := by
  rw [State.setQual, State.get_tbFlag _ _ _ _ _ (by rw [← ha.1]; decide) (by rw [← ha.1]; decide),
    State.get_set_apart _ _ _ _ _ _ hr (by decide) hf ha]

theorem State.refActive_setQual {s : State} (q : Nat) (hr : Sparse.rising s.regs = true) :
    (s.setQual 2 q).refActive 2 = s.refActive 2 := by
  simp only [State.refActive, State.on,
    State.get_tbRefStat_setQual q tbRefStatAct10m hr (by decide) ⟨rfl, by decide⟩,
    State.get_tbRefStat_setQual q tbRefStatActPps hr (by decide) ⟨rfl, by decide⟩]

theorem State.refActive_disqualify {s : State} (c : Nat) (hr : Sparse.rising s.regs = true) :
    (s.disqualify 2 c).refActive 2 = s.refActive 2 := by
  rw [State.disqualify, State.refActive_setQual 0 (s.set_rising _ _ _ _ hr)]
  simp only [State.refActive, State.on,
    State.get_set_apart s tbRefStatCause tbRefStatAct10m c 2 0 hr (by decide) (by decide) ⟨rfl, by decide⟩,
    State.get_set_apart s tbRefStatCause tbRefStatActPps c 2 0 hr (by decide) (by decide) ⟨rfl, by decide⟩]

theorem State.Keeps.refActive {s t : State} {l : List Nat} (h : s.Keeps l t) (hl : tbRefStat.key 2 0 ∉ l) :
    t.refActive 2 = s.refActive 2 := by
  simp only [State.refActive, State.on, h.get tbRefStatAct10m 2 0 (by decide) hl, h.get tbRefStatActPps 2 0 (by decide) hl]

theorem State.TbStep.setQual {s t : State} (h : s.TbStep activityRegs t) (q : Nat) : s.TbStep activityRegs (t.setQual 2 q) :=
  (h.set tbRefStatQstate q 2 0 (by decide) (by decide)).tbFlag 3 (by decide)

/-- What follows from a change of REFC's activity leaves that activity itself. -/
theorem State.activity_spec (s : State) (was : Bool) : s.TbStep activityRegs (s.activity 2 was) ∧
    (Sparse.rising s.regs = true → (s.activity 2 was).refActive 2 = s.refActive 2) := by
  unfold State.activity
  dsimp only
  split
  · exact ⟨.refl s, fun _ => rfl⟩
  · split
    · split
      · exact ⟨((State.TbStep.refl s).setRef 2 _).setQual 1,
          State.refActive_setQual (s := s.setRef 2 { s.ref 2 with gates := 0 }) 1⟩
      · exact ⟨.refl s, fun _ => rfl⟩
    · split
      · exact ⟨.refl s, fun _ => rfl⟩
      · have hd : s.TbStep activityRegs (s.disqualify 2 1) :=
          ((State.TbStep.refl s).set tbRefStatCause 1 2 0 (by decide) (by decide)).setQual 0
        have hj := fun u : State => (State.TbStep.refl u).judge none
        exact ⟨(hd.setTb _).trans ((hj _).mono (by decide)),
          fun hr => ((hj _).keeps.refActive (by decide)).trans (State.refActive_disqualify 1 hr)⟩

/-- `s` with the servo in state `st`, the event shown, and REFC active just if it is LOCKED. -/
def State.servoShown (s : State) (st : Nat) : State :=
  (((s.set ptpsStateState st).tbFlag 6).set tbRefStatAct10m (b2n (decide (st = 2))) 2).set tbRefStatActPps
    (b2n (decide (st = 2))) 2

theorem State.setServo_same {s : State} {st : Nat} (h : s.get ptpsStateState = st) : s.setServo st = s := if_pos h

theorem State.setServo_other {s : State} {st : Nat} (h : s.get ptpsStateState ≠ st) :
    s.setServo st = (s.servoShown st).activity 2 (s.refActive 2) := if_neg h

theorem State.tbStep_servoShown (s : State) (st : Nat) : s.TbStep servoRegs (s.servoShown st) :=
  ((((State.TbStep.refl s).set ptpsStateState st 0 0 (by decide) (by decide)).tbFlag 6 (by decide)).set tbRefStatAct10m _ 2 0
    (by decide) (by decide)).set tbRefStatActPps _ 2 0 (by decide) (by decide)

theorem State.tbStep_setServo (s : State) (st : Nat) : s.TbStep servoRegs (s.setServo st) := by
  by_cases h : s.get ptpsStateState = st
  · rw [State.setServo_same h]; exact .refl s
  · rw [State.setServo_other h]; exact (s.tbStep_servoShown st).trans ((State.activity_spec _ _).1.mono (by decide))

end Sys2Proof.Machine
end

section
/-! ## The servo: what its states and its measurements show (R318) -/
namespace Sys2Proof.Machine

theorem State.refActive_servoShown {s : State} (st : Nat) (hr : Sparse.rising s.regs = true) :
    (s.servoShown st).refActive 2 = decide (st = 2) := by
  have hr1 : Sparse.rising ((s.set ptpsStateState st).tbFlag 6).regs = true :=
    (State.keeps_tbFlag (l := [tbStatus.key 0 0]) _ 6 (by decide)).rising (s.set_rising _ _ _ _ hr)
  have hr2 := State.set_rising _ tbRefStatAct10m (b2n (decide (st = 2))) 2 0 hr1
  simp only [State.refActive, State.on, State.servoShown,
    State.get_set_apart _ tbRefStatActPps tbRefStatAct10m _ 2 0 hr2 (by decide) (by decide) ⟨rfl, by decide⟩,
    State.get_set_same _ tbRefStatActPps _ 2 0 hr2 (by decide) (by decide),
    State.get_set_same _ tbRefStatAct10m _ 2 0 hr1 (by decide) (by decide)]
  by_cases h : st = 2 <;> simp [h, b2n, tbRefStatActPps, tbRefStatAct10m]

/-- What a change of the servo's state shows: the state, PTPS_STATE with its source, and REFC's activity. -/
theorem State.setServo_shows {s : State} {st : Nat} (h : s.get ptpsStateState ≠ st) (hst : st < 8)
    (hr : Sparse.rising s.regs = true) (hp : s.power.inReset = false) :
    (s.setServo st).get ptpsStateState = st ∧ (s.setServo st).on tbStatusPtpsState = true ∧
      (s.setServo st).evtOn 174 = true ∧ (s.setServo st).refActive 2 = decide (st = 2) := by
  have hr0 : Sparse.rising (s.set ptpsStateState st).regs = true := s.set_rising _ _ _ _ hr
  obtain ⟨hbit, hevt⟩ := State.tbFlag_shows (s := s.set ptpsStateState st) 6 (by decide) hr0 hp
  have hflag : (s.set ptpsStateState st).Keeps [tbStatus.key 0 0] ((s.set ptpsStateState st).tbFlag 6) :=
    State.keeps_tbFlag _ 6 (by decide)
  have hstat : ((s.set ptpsStateState st).tbFlag 6).Keeps activityRegs (s.servoShown st) :=
    (State.Keeps.setReg _ tbRefStat 2 0 _ (by decide) (by decide)).trans (.setReg _ tbRefStat 2 0 _ (by decide) (by decide))
  have hshown := hstat.rising (hflag.rising hr0)
  obtain ⟨hact, hactive⟩ := State.activity_spec (s.servoShown st) (s.refActive 2)
  have hkeeps := hstat.trans hact.keeps
  rw [State.setServo_other h, hactive hshown, State.refActive_servoShown st hr, tbStatusPtpsState, State.on_eq_bit]
  refine ⟨?_, hkeeps.status 6 (by decide) (hflag.rising hr0) hbit, hkeeps.on 174 (by decide) (hflag.rising hr0) hevt, rfl⟩
  rw [hkeeps.get ptpsStateState 0 0 (by decide) (by decide), hflag.get ptpsStateState 0 0 (by decide) (by decide),
    State.get_set_same s _ _ _ _ hr (by decide) (by decide)]
  exact Nat.mod_eq_of_lt hst

/-! ### Measurements -/

/-- A POFS that is written reads the value, held within 32 bits. -/
theorem State.getInt_setPofs {s : State} (v : Int) (x : Nat) (hr : Sparse.rising s.regs = true) :
    (s.setSat tbRefPofsPs v x).getInt tbRefPofsPs x = clampInt (-2147483648) 2147483647 v := by
  obtain ⟨hlo, hhi⟩ := clampInt_bounds v
  rw [State.getInt, State.setSat, State.setInt, State.get_set_same s _ _ _ _ hr (by decide) (by decide),
    Nat.mod_eq_of_lt (toBits_lt _ _)]
  exact sext_toBits_32 hlo hhi

/-- `s` with the filter's offset for a measurement taken at `t2`, and REFC's POFS that follows it. -/
def State.offsetFiltered (s : State) (t2 : Nat) (o : BitVec 64) : State :=
  ((s.setInt ptpsFiltOfs (Config.ptpFilter s.fresh o)).drawn.setTb fun t => { t with sLast := some t2 }).servoPofs

/-- `s` with the filter's offset and frequency for a measurement taken at `t2`. -/
def State.measured (s : State) (t2 : Nat) (o : BitVec 64) : State :=
  ((s.offsetFiltered t2 o).setReg ptpsFofs 0 0 (Config.freeWord (s.offsetFiltered t2 o).fresh).toNat).drawn

/-- A servo in LOCKING counts the measurements within the limit; the eighth in a row locks it. -/
def State.servoLocking (s : State) (f lim : Nat) : State :=
  if lim < f then s.setTb fun t => { t with sIn := 0 }
  else if s.tb.sIn < 7 then s.setTb fun t => { t with sIn := t.sIn + 1 }
  else (s.setTb fun t => { t with sIn := 0, sOut := 0, sWide := false }).setServo 2

/-- A LOCKED servo goes back to LOCKING with the second measurement in a row that is out of four times the limit. -/
def State.servoLocked (s : State) (f lim : Nat) : State :=
  if f ≤ 4 * lim then s.setTb fun t => { t with sOut := 0 }
  else if s.tb.sOut = 0 then s.setTb fun t => { t with sOut := 1 }
  else (s.setTb fun t => { t with sIn := 0, sOut := 0 }).setServo 1

/-- A servo in any other state begins LOCKING. -/
def State.servoBegun (s : State) : State := (s.setTb fun t => { t with sIn := 0, sOut := 0, sWide := true }).setServo 1

/-- What a filtered offset `f` against the limit `lim` makes of the servo's state. -/
def State.servoJudged (s : State) (f lim : Nat) : State :=
  match s.get ptpsStateState with
  | 1 => s.servoLocking f lim
  | 2 => s.servoLocked f lim
  | _ => s.servoBegun

theorem State.servoTake_eq (s : State) (t2 : Nat) (o : BitVec 64) : s.servoTake t2 o =
    (s.measured t2 o).servoJudged ((s.measured t2 o).getInt ptpsFiltOfs).natAbs
      (max 1 ((s.measured t2 o).get ptpsCfgLimit) * 655360) := rfl

/-- The registers a measurement writes. -/
def measureRegs : List Nat := [ptpsFilt.key 0 0, ptpsFofs.key 0 0, tbRefPofs.key 2 0]

theorem State.tbStep_measured (s : State) (t2 : Nat) (o : BitVec 64) :
    (s.setTb fun t => { t with sLast := some t2 }).TbStep measureRegs (s.measured t2 o) :=
  (((((State.TbStep.refl _).set ptpsFiltOfs _ 0 0 (by decide) (by decide)).drawn.set tbRefPofsPs _ 2 0 (by decide)
    (by decide)).setReg ptpsFofs 0 0 _ (by decide) (by decide))).drawn

theorem State.measured_shows {s : State} (t2 : Nat) (o : BitVec 64) (hr : Sparse.rising s.regs = true) :
    (s.measured t2 o).get ptpsFiltOfs = toBits 64 (Config.ptpFilter s.fresh o) ∧
      (s.measured t2 o).getInt tbRefPofsPs 2 =
        clampInt (-2147483648) 2147483647 ((s.measured t2 o).getInt ptpsFiltOfs * 1000 / 65536) := by
  have hfilt : Sparse.rising (s.setInt ptpsFiltOfs (Config.ptpFilter s.fresh o)).regs = true := s.set_rising _ _ _ _ hr
  have hafter : ∀ f i, f.reg.key i 0 ≠ ptpsFofs.key 0 0 → (s.measured t2 o).get f i = (s.offsetFiltered t2 o).get f i :=
    fun f i hk => State.get_setReg_other ptpsFofs f _ 0 0 i 0 hk
  have hoffset : (s.measured t2 o).get ptpsFiltOfs =
      (s.setInt ptpsFiltOfs (Config.ptpFilter s.fresh o)).get ptpsFiltOfs :=
    (hafter ptpsFiltOfs 0 (by decide)).trans (State.get_set_other _ tbRefPofsPs ptpsFiltOfs _ 2 0 0 0 (by decide))
  constructor
  · rw [hoffset, State.setInt, State.get_set_same s _ _ _ _ hr (by decide) (by decide)]
    exact Nat.mod_eq_of_lt (toBits_lt 64 _)
  · rw [State.getInt, hafter tbRefPofsPs 2 (by decide), State.getInt, hoffset]
    exact State.getInt_setPofs (s := (s.setInt ptpsFiltOfs (Config.ptpFilter s.fresh o)).drawn.setTb _) _ 2 hfilt

theorem State.servoJudged_locking {s : State} {f lim : Nat} (h : s.get ptpsStateState = 1) :
    s.servoJudged f lim = s.servoLocking f lim := by
  rw [State.servoJudged, h]; rfl

theorem State.servoJudged_locked {s : State} {f lim : Nat} (h : s.get ptpsStateState = 2) :
    s.servoJudged f lim = s.servoLocked f lim := by
  rw [State.servoJudged, h]; rfl

theorem State.servoJudged_other {s : State} {f lim : Nat} (h1 : s.get ptpsStateState ≠ 1) (h2 : s.get ptpsStateState ≠ 2) :
    s.servoJudged f lim = s.servoBegun := by
  unfold State.servoJudged
  split
  · next h => exact absurd h h1
  · next h => exact absurd h h2
  · rfl

theorem State.tbStep_servoJudged (s : State) (f lim : Nat) : s.TbStep servoRegs (s.servoJudged f lim) := by
  have htb := State.TbStep.refl (l := servoRegs) s
  unfold State.servoJudged State.servoLocking State.servoLocked State.servoBegun
  split
  · split
    · exact htb.setTb _
    · split
      · exact htb.setTb _
      · exact (htb.setTb _).trans (State.tbStep_setServo _ 2)
  · split
    · exact htb.setTb _
    · split
      · exact htb.setTb _
      · exact (htb.setTb _).trans (State.tbStep_setServo _ 1)
  · exact (htb.setTb _).trans (State.tbStep_setServo _ 1)

section
variable {s : State} {f lim : Nat} (hr : Sparse.rising s.regs = true) (hp : s.power.inReset = false)
include hr hp

theorem State.servoLocking_shows (h : s.get ptpsStateState = 1) :
    let t := s.servoLocking f lim
    (lim < f → t.get ptpsStateState = 1 ∧ t.tb.sIn = 0) ∧
      (f ≤ lim → s.tb.sIn < 7 → t.get ptpsStateState = 1 ∧ t.tb.sIn = s.tb.sIn + 1) ∧
      (f ≤ lim → 7 ≤ s.tb.sIn → t.get ptpsStateState = 2 ∧ t.refActive 2 = true ∧ t.evtOn 174 = true) := by
  unfold State.servoLocking
  refine ⟨fun hout => ?_, fun hin hlow => ?_, fun hin hfull => ?_⟩
  · rw [if_pos hout]
    exact ⟨h, rfl⟩
  · rw [if_neg hin.not_gt, if_pos hlow]
    exact ⟨h, rfl⟩
  · rw [if_neg hin.not_gt, if_neg hfull.not_gt]
    have hne : s.get ptpsStateState ≠ 2 := h.trans_ne (by decide)
    obtain ⟨hst, -, hevt, hact⟩ := State.setServo_shows
      (s := s.setTb fun t => { t with sIn := 0, sOut := 0, sWide := false }) hne (by decide) hr hp
    exact ⟨hst, hact, hevt⟩

theorem State.servoLocked_shows (h : s.get ptpsStateState = 2) :
    let t := s.servoLocked f lim
    (f ≤ 4 * lim → t.get ptpsStateState = 2 ∧ t.tb.sOut = 0) ∧
      (4 * lim < f → s.tb.sOut = 0 → t.get ptpsStateState = 2 ∧ t.tb.sOut = 1) ∧
      (4 * lim < f → s.tb.sOut ≠ 0 → t.get ptpsStateState = 1 ∧ t.refActive 2 = false ∧ t.evtOn 174 = true) := by
  unfold State.servoLocked
  refine ⟨fun hin => ?_, fun hout hfirst => ?_, fun hout hsecond => ?_⟩
  · rw [if_pos hin]
    exact ⟨h, rfl⟩
  · rw [if_neg hout.not_ge, if_pos hfirst]
    exact ⟨h, rfl⟩
  · rw [if_neg hout.not_ge, if_neg hsecond]
    obtain ⟨hst, -, hevt, hact⟩ := State.setServo_shows
      (s := s.setTb fun t => { t with sIn := 0, sOut := 0 }) (st := 1) (h.trans_ne (by decide)) (by decide) hr hp
    exact ⟨hst, hact, hevt⟩

theorem State.servoBegun_shows (h : s.get ptpsStateState ≠ 1) :
    s.servoBegun.get ptpsStateState = 1 ∧ s.servoBegun.evtOn 174 = true := by
  obtain ⟨hst, -, hevt, -⟩ := State.setServo_shows
    (s := s.setTb fun t => { t with sIn := 0, sOut := 0, sWide := true }) (st := 1) h (by decide) hr hp
  exact ⟨hst, hevt⟩

/-- What a measurement shows of the servo: the eighth in limit in a row locks it, the second out of four times the limit
unlocks it (R318). -/
theorem State.servoJudged_shows :
    let t := s.servoJudged f lim
    let st := s.get ptpsStateState
    (st ≠ 1 → st ≠ 2 → t.get ptpsStateState = 1 ∧ t.evtOn 174 = true) ∧
      (st = 1 → lim < f → t.get ptpsStateState = 1 ∧ t.tb.sIn = 0) ∧
      (st = 1 → f ≤ lim → s.tb.sIn < 7 → t.get ptpsStateState = 1 ∧ t.tb.sIn = s.tb.sIn + 1) ∧
      (st = 1 → f ≤ lim → 7 ≤ s.tb.sIn → t.get ptpsStateState = 2 ∧ t.refActive 2 = true ∧ t.evtOn 174 = true) ∧
      (st = 2 → f ≤ 4 * lim → t.get ptpsStateState = 2 ∧ t.tb.sOut = 0) ∧
      (st = 2 → 4 * lim < f → s.tb.sOut = 0 → t.get ptpsStateState = 2 ∧ t.tb.sOut = 1) ∧
      (st = 2 → 4 * lim < f → s.tb.sOut ≠ 0 →
        t.get ptpsStateState = 1 ∧ t.refActive 2 = false ∧ t.evtOn 174 = true) := by
  intro t st
  by_cases h1 : st = 1
  · obtain ⟨hfar, hnear, hlock⟩ := State.servoLocking_shows (f := f) (lim := lim) hr hp h1
    rw [← State.servoJudged_locking h1] at hfar hnear hlock
    exact ⟨fun h => absurd h1 h, fun _ => hfar, fun _ => hnear, fun _ => hlock, fun h => by omega, fun h => by omega,
      fun h => by omega⟩
  · by_cases h2 : st = 2
    · obtain ⟨hnear, hfirst, hsecond⟩ := State.servoLocked_shows (f := f) (lim := lim) hr hp h2
      rw [← State.servoJudged_locked h2] at hnear hfirst hsecond
      exact ⟨fun _ h => absurd h2 h, fun h => absurd h h1, fun h => absurd h h1, fun h => absurd h h1, fun _ => hnear,
        fun _ => hfirst, fun _ => hsecond⟩
    · have hbegun := State.servoBegun_shows hr hp h1
      rw [← State.servoJudged_other (f := f) (lim := lim) h1 h2] at hbegun
      exact ⟨fun _ _ => hbegun, fun h => absurd h h1, fun h => absurd h h1, fun h => absurd h h1, fun h => absurd h h2,
        fun h => absurd h h2, fun h => absurd h h2⟩

end

end Sys2Proof.Machine
end

section
/-! ## The loop at a boundary of its reference (R304, R315) -/
namespace Sys2Proof.Machine

theorem tbRefPofs_key (x : Nat) : tbRefPofs.key x 0 = 0x200110 + 0x20 * x := by
  simp [RegDef.key, tbRefPofs]

theorem eventReg_tbRefPofs (x : Fin 3) : eventReg (tbRefPofs.key x 0) = false := by
  revert x; decide

theorem State.TbStep.setPofs {s t : State} {l : List Nat} (h : s.TbStep l t) (v : Int) (x : Nat)
    (hl : tbRefPofs.key x 0 ∈ l) (hx : x < 3) : s.TbStep l (t.setSat tbRefPofsPs v x) := by
  refine h.set tbRefPofsPs _ x 0 hl (decide_eq_true ?_)
  show tbRefPofs.key x 0 ≠ _ ∧ (tbRefPofs.key x 0 < _ ∨ _ ≤ tbRefPofs.key x 0)
  rw [tbRefPofs_key]
  omega

theorem State.getInt_setPofs_other (s : State) (v : Int) {x y : Nat} (h : y ≠ x) :
    (s.setSat tbRefPofsPs v x).getInt tbRefPofsPs y = s.getInt tbRefPofsPs y := by
  refine congrArg (sext _) (State.get_set_other s tbRefPofsPs tbRefPofsPs _ x 0 y 0 ?_)
  show tbRefPofs.key y 0 ≠ tbRefPofs.key x 0
  rw [tbRefPofs_key, tbRefPofs_key]
  omega

/-! ### What a boundary records -/

/-- POFS of reference `x` as a boundary that comes with the offset `o` leaves it; REFC's is the servo's. -/
def State.boundaryPofs (s : State) (x : Fin 3) (o : Word) : Int :=
  if x.val < 2 then clampInt (-2147483648) 2147483647 (o.toInt + s.getInt tbRefDelayPs x) else s.getInt tbRefPofsPs x

/-- `s` with a boundary of reference `x` recorded. -/
def State.bounded (s : State) (x : Fin 3) (o : Word) : State :=
  let s1 := if x.val = 2 then s else s.setSat tbRefPofsPs (o.toInt + s.getInt tbRefDelayPs x) x
  s1.setRef x { s1.ref x with bound := s1.cycle }

theorem State.tbStep_bounded (s : State) (x : Fin 3) (o : Word) : s.TbStep [tbRefPofs.key x 0] (s.bounded x o) := by
  unfold State.bounded
  dsimp only
  split
  · exact (State.TbStep.refl s).setRef _ _
  · exact ((State.TbStep.refl s).setPofs _ x (by simp) x.isLt).setRef _ _

@[simp] theorem State.bounded_tb (s : State) (x : Fin 3) (o : Word) : (s.bounded x o).tb = s.tb := by
  unfold State.bounded; dsimp only; split <;> rfl

theorem State.bounded_same (s : State) (x : Fin 3) (o : Word) :
    s.bounded x o = { s with regs := (s.bounded x o).regs, refs := (s.bounded x o).refs } := by
  unfold State.bounded; dsimp only; split <;> rfl

theorem State.bounded_refs (s : State) (x : Fin 3) (o : Word) :
    (s.bounded x o).refs = s.refs.put x { s.ref x with bound := s.cycle } {} := by
  unfold State.bounded; dsimp only; split <;> rfl

theorem State.getInt_bounded {s : State} (x : Fin 3) (o : Word) (hr : Sparse.rising s.regs = true) :
    (s.bounded x o).getInt tbRefPofsPs x = s.boundaryPofs x o := by
  unfold State.bounded State.boundaryPofs
  dsimp only
  split
  · next hx => rw [if_neg (by omega)]; rfl
  · next hx =>
    rw [if_pos (by omega)]
    exact State.getInt_setPofs _ x hr

theorem State.get_bounded (s : State) (x : Fin 3) (o : Word) (f : RField) (he : eventReg (f.reg.key 0 0) = false)
    (hx : ∀ y : Fin 3, f.reg.key 0 0 ≠ tbRefPofs.key y 0) : (s.bounded x o).get f = s.get f :=
  (s.tbStep_bounded x o).keeps.get f 0 0 he (by simpa using hx x)

theorem State.ordered_refs {s : State} (h : s.ordered = true) : Sparse.rising s.refs = true := by
  simp only [State.ordered, Bool.and_eq_true] at h
  simp only [h]

/-- A reference's state after a boundary of `x`: its time is `x`'s latest. -/
theorem State.ref_bounded {s : State} (x : Fin 3) (o : Word) (h : Sparse.rising s.refs = true) :
    (s.bounded x o).ref x = { s.ref x with bound := s.cycle } ∧ ∀ y, y ≠ x.val → (s.bounded x o).ref y = s.ref y := by
  simp only [State.ref, State.bounded_refs]
  exact ⟨Sparse.at_put_same h, fun y hy => Sparse.at_put_other hy⟩

/-! ### The loop -/

/-- POFS of reference `y` falls by `d`. -/
def State.shiftPofs (s : State) (d : Int) (y : Nat) : State := s.setSat tbRefPofsPs (s.getInt tbRefPofsPs y - d) y

/-- Every POFS falls by `d`. -/
def State.pofsShifted (s : State) (d : Int) : State := (List.range 3).foldl (fun a y => a.shiftPofs d y) s

def pofsRegs : List Nat := [tbRefPofs.key 0 0, tbRefPofs.key 1 0, tbRefPofs.key 2 0]

theorem State.tbStep_pofsShifted (s : State) (d : Int) : s.TbStep pofsRegs (s.pofsShifted d) :=
  (((State.TbStep.refl s).setPofs _ 0 (by decide) (by decide)).setPofs _ 1 (by decide) (by decide)).setPofs _ 2 (by decide)
    (by decide)

theorem State.getInt_pofsShifted {s : State} (d : Int) (x : Fin 3) (hr : Sparse.rising s.regs = true) :
    (s.pofsShifted d).getInt tbRefPofsPs x = clampInt (-2147483648) 2147483647 (s.getInt tbRefPofsPs x - d) := by
  have hsame : ∀ (t : State) (y : Nat), Sparse.rising t.regs = true →
      (t.shiftPofs d y).getInt tbRefPofsPs y = clampInt (-2147483648) 2147483647 (t.getInt tbRefPofsPs y - d) :=
    fun t y h => State.getInt_setPofs _ y h
  have hother : ∀ (t : State) (y z : Nat), z ≠ y → (t.shiftPofs d y).getInt tbRefPofsPs z = t.getInt tbRefPofsPs z :=
    fun t y z h => State.getInt_setPofs_other t _ h
  have hr1 : Sparse.rising (s.shiftPofs d 0).regs = true := s.set_rising _ _ _ _ hr
  have hr2 : Sparse.rising ((s.shiftPofs d 0).shiftPofs d 1).regs = true := State.set_rising _ _ _ _ _ hr1
  show (((s.shiftPofs d 0).shiftPofs d 1).shiftPofs d 2).getInt tbRefPofsPs x = _
  match x with
  | 0 => exact (hother _ 2 0 (by decide)).trans ((hother _ 1 0 (by decide)).trans (hsame _ 0 hr))
  | 1 =>
    refine (hother _ 2 1 (by decide)).trans ((hsame _ 1 hr1).trans ?_)
    rw [hother _ 0 1 (by decide)]; rfl
  | 2 =>
    refine (hsame _ 2 hr2).trans ?_
    rw [hother _ 1 2 (by decide), hother _ 0 2 (by decide)]; rfl

/-- The current boundary of reference `x` becomes the beginning of a second. -/
def State.secondBegun (s : State) (x : Nat) : State :=
  (s.pofsShifted (s.getInt tbRefPofsPs x)).setTb fun t =>
    { t with acc := (((s.tb.acc : Int) - s.getInt tbRefPofsPs x * 1000000000000) % (secondUnits : Nat)).toNat, held := 0
             stepNext := false }

theorem State.secondBegun_acc (s : State) (x : Nat) : (s.secondBegun x).tb.acc =
    (((s.tb.acc : Int) - s.getInt tbRefPofsPs x * 1000000000000) % (secondUnits : Nat)).toNat := rfl

theorem State.getInt_setTb (s : State) (g : Timebase → Timebase) (f : RField) (i : Nat) :
    (s.setTb g).getInt f i = s.getInt f i := rfl

/-- The reference whose boundary begins the second has no offset left. -/
theorem State.getInt_secondBegun {s : State} (x : Fin 3) (hr : Sparse.rising s.regs = true) :
    (s.secondBegun x).getInt tbRefPofsPs x = 0 := by
  have hshift := State.getInt_pofsShifted (s.getInt tbRefPofsPs x) x hr
  rw [Int.sub_self, clampInt_zero] at hshift
  exact (State.getInt_setTb _ _ tbRefPofsPs x).trans hshift

/-- `s` steered to a frequency the manual does not give. -/
def State.steered (s : State) : State := (s.setReg tbFreq 0 0 (Config.freeWord s.fresh).toNat).drawn

/-- `s` with a holdover value that the manual does not give. -/
def State.averaged (s : State) : State := (s.setReg tbHold 0 0 (Config.freeWord s.fresh).toNat).drawn

/-- A loop in LOCKING counts the boundaries within the limit; the eighth in a row locks it. -/
def State.loopLocking (s : State) (err lim : Nat) : State :=
  if lim < err then s.setTb fun t => { t with inRun := 0 }
  else if s.tb.inRun < 7 then s.setTb fun t => { t with inRun := t.inRun + 1 }
  else (s.setTb fun t => { t with inRun := 0, outRun := 0, wide := false }).setTbState 2

/-- A LOCKED loop goes back to LOCKING with the second boundary in a row that is out of four times the limit. -/
def State.loopLocked (s : State) (err lim : Nat) : State :=
  if err ≤ 4 * lim then s.setTb fun t => { t with outRun := 0 }
  else if s.tb.outRun = 0 then s.setTb fun t => { t with outRun := 1 }
  else (s.setTb fun t => { t with inRun := 0, outRun := 0, wide := true }).setTbState 1

/-- What a phase error `err` against the limit `lim` makes of the loop's state. -/
def State.loopJudged (s : State) (err lim : Nat) : State :=
  if s.steered.get tbStateState = 1 then s.steered.loopLocking err lim else s.steered.averaged.loopLocked err lim

/-- The boundary of reference `x` judges the loop by its phase error against the held POFS. -/
def State.loopMet (s : State) (x : Nat) : State :=
  s.loopJudged (s.getInt tbRefPofsPs x - s.tb.held).natAbs (s.get tbLockLimit * 1000)

theorem State.loopBoundary_eq (s : State) (x : Nat) :
    s.loopBoundary x = (if s.tb.stepNext then s.secondBegun x else s).loopMet x := rfl

theorem State.TbStep.loopLocking {s t : State} (h : s.TbStep loopRegs t) (err lim : Nat) :
    s.TbStep loopRegs (t.loopLocking err lim) := by
  unfold State.loopLocking
  split
  · exact h.setTb _
  · split
    · exact h.setTb _
    · exact (h.setTb _).toState 2

theorem State.TbStep.loopLocked {s t : State} (h : s.TbStep loopRegs t) (err lim : Nat) :
    s.TbStep loopRegs (t.loopLocked err lim) := by
  unfold State.loopLocked
  split
  · exact h.setTb _
  · split
    · exact h.setTb _
    · exact (h.setTb _).toState 1

theorem State.tbStep_steered (s : State) : s.TbStep loopRegs s.steered :=
  ((State.TbStep.refl s).setReg tbFreq 0 0 _ (by decide) (by decide)).drawn

theorem State.tbStep_averaged (s : State) : s.TbStep loopRegs s.averaged :=
  ((State.TbStep.refl s).setReg tbHold 0 0 _ (by decide) (by decide)).drawn

theorem State.tbStep_loopJudged (s : State) (err lim : Nat) : s.TbStep loopRegs (s.loopJudged err lim) := by
  unfold State.loopJudged
  split
  · exact s.tbStep_steered.loopLocking err lim
  · exact (s.tbStep_steered.trans (State.tbStep_averaged _)).loopLocked err lim

/-- Judging the loop touches neither the references, nor what the phase is held at, nor the phase itself. -/
theorem State.loopJudged_held (s : State) (err lim : Nat) :
    (s.loopJudged err lim).refs = s.refs ∧ (s.loopJudged err lim).tb.held = s.tb.held ∧
      (s.loopJudged err lim).tb.stepNext = s.tb.stepNext ∧ (s.loopJudged err lim).tb.acc = s.tb.acc := by
  unfold State.loopJudged State.loopLocking State.loopLocked
  split_ifs <;> simp [State.setTb, State.steered, State.averaged]

theorem State.tbStep_loopMet (s : State) (x : Nat) : s.TbStep loopRegs (s.loopMet x) := s.tbStep_loopJudged _ _

theorem State.loopMet_held (s : State) (x : Nat) :
    (s.loopMet x).refs = s.refs ∧ (s.loopMet x).tb.held = s.tb.held ∧
      (s.loopMet x).tb.stepNext = s.tb.stepNext ∧ (s.loopMet x).tb.acc = s.tb.acc := s.loopJudged_held _ _

theorem State.loopJudged_locking {s : State} {err lim : Nat} (h : s.get tbStateState = 1) :
    s.steered.get tbStateState = 1 ∧ s.loopJudged err lim = s.steered.loopLocking err lim := by
  have h1 : s.steered.get tbStateState = 1 := (State.get_setReg_other tbFreq tbStateState _ 0 0 0 0 (by decide)).trans h
  exact ⟨h1, if_pos h1⟩

theorem State.loopJudged_locked {s : State} {err lim : Nat} (h : s.get tbStateState = 2) :
    s.steered.averaged.get tbStateState = 2 ∧ s.loopJudged err lim = s.steered.averaged.loopLocked err lim := by
  have h2 : s.steered.get tbStateState = 2 := (State.get_setReg_other tbFreq tbStateState _ 0 0 0 0 (by decide)).trans h
  exact ⟨(State.get_setReg_other tbHold tbStateState _ 0 0 0 0 (by decide)).trans h2, if_neg (by omega)⟩

section
variable {s : State} {err lim : Nat} (hr : Sparse.rising s.regs = true) (hp : s.power.inReset = false)
include hr hp

theorem State.loopLocking_shows (h : s.get tbStateState = 1) :
    let t := s.loopLocking err lim
    (lim < err → t.get tbStateState = 1 ∧ t.tb.inRun = 0) ∧
      (err ≤ lim → s.tb.inRun < 7 → t.get tbStateState = 1 ∧ t.tb.inRun = s.tb.inRun + 1) ∧
      (err ≤ lim → 7 ≤ s.tb.inRun →
        t.get tbStateState = 2 ∧ t.tb.wide = false ∧ t.on tbStatusStateChg = true ∧ t.evtOn 168 = true) := by
  unfold State.loopLocking
  refine ⟨fun hout => ?_, fun hin hlow => ?_, fun hin hfull => ?_⟩
  · rw [if_pos hout]
    exact ⟨h, rfl⟩
  · rw [if_neg hin.not_gt, if_pos hlow]
    exact ⟨h, rfl⟩
  · rw [if_neg hin.not_gt, if_neg hfull.not_gt]
    exact ⟨State.get_setTbState (by decide) hr, by rw [State.setTbState_tb]; rfl,
      State.setTbState_shows (s := s.setTb _) (h.trans_ne (by decide)) hr hp⟩

theorem State.loopLocked_shows (h : s.get tbStateState = 2) :
    let t := s.loopLocked err lim
    (err ≤ 4 * lim → t.get tbStateState = 2 ∧ t.tb.outRun = 0) ∧
      (4 * lim < err → s.tb.outRun = 0 → t.get tbStateState = 2 ∧ t.tb.outRun = 1) ∧
      (4 * lim < err → s.tb.outRun ≠ 0 →
        t.get tbStateState = 1 ∧ t.tb.wide = true ∧ t.on tbStatusStateChg = true ∧ t.evtOn 168 = true) := by
  unfold State.loopLocked
  refine ⟨fun hin => ?_, fun hout hfirst => ?_, fun hout hsecond => ?_⟩
  · rw [if_pos hin]
    exact ⟨h, rfl⟩
  · rw [if_neg hout.not_ge, if_pos hfirst]
    exact ⟨h, rfl⟩
  · rw [if_neg hout.not_ge, if_neg hsecond]
    exact ⟨State.get_setTbState (by decide) hr, by rw [State.setTbState_tb]; rfl,
      State.setTbState_shows (s := State.setTb _ _) (h.trans_ne (by decide)) hr hp⟩

/-- What a boundary shows of the loop: the eighth in limit in a row locks it, the second out of four times the limit
unlocks it (R315). -/
theorem State.loopJudged_shows :
    let t := s.loopJudged err lim
    let st := s.get tbStateState
    (st = 1 → lim < err → t.get tbStateState = 1 ∧ t.tb.inRun = 0) ∧
      (st = 1 → err ≤ lim → s.tb.inRun < 7 → t.get tbStateState = 1 ∧ t.tb.inRun = s.tb.inRun + 1) ∧
      (st = 1 → err ≤ lim → 7 ≤ s.tb.inRun →
        t.get tbStateState = 2 ∧ t.tb.wide = false ∧ t.on tbStatusStateChg = true ∧ t.evtOn 168 = true) ∧
      (st = 2 → err ≤ 4 * lim → t.get tbStateState = 2 ∧ t.tb.outRun = 0) ∧
      (st = 2 → 4 * lim < err → s.tb.outRun = 0 → t.get tbStateState = 2 ∧ t.tb.outRun = 1) ∧
      (st = 2 → 4 * lim < err → s.tb.outRun ≠ 0 →
        t.get tbStateState = 1 ∧ t.tb.wide = true ∧ t.on tbStatusStateChg = true ∧ t.evtOn 168 = true) := by
  intro t st
  have hrs := s.tbStep_steered.keeps.rising hr
  by_cases h1 : st = 1
  · obtain ⟨hsteered, hjudged⟩ := State.loopJudged_locking (err := err) (lim := lim) h1
    obtain ⟨hfar, hnear, hlock⟩ := State.loopLocking_shows (err := err) (lim := lim) hrs hp hsteered
    rw [← hjudged] at hfar hnear hlock
    exact ⟨fun _ => hfar, fun _ => hnear, fun _ => hlock, fun h => by omega, fun h => by omega, fun h => by omega⟩
  · by_cases h2 : st = 2
    · obtain ⟨havg, hjudged⟩ := State.loopJudged_locked (err := err) (lim := lim) h2
      obtain ⟨hnear, hfirst, hsecond⟩ := State.loopLocked_shows (err := err) (lim := lim)
        ((State.tbStep_averaged _).keeps.rising hrs) hp havg
      rw [← hjudged] at hnear hfirst hsecond
      exact ⟨fun h => absurd h h1, fun h => absurd h h1, fun h => absurd h h1, fun _ => hnear, fun _ => hfirst,
        fun _ => hsecond⟩
    · exact ⟨fun h => absurd h h1, fun h => absurd h h1, fun h => absurd h h1, fun h => absurd h h2,
        fun h => absurd h h2, fun h => absurd h h2⟩

end

end Sys2Proof.Machine
end

section
/-! ## A boundary's meaning (R304, R315) -/
namespace Sys2Proof.Machine

theorem exec_referenceBoundary {s : State} (x : Fin 3) (o : Word) (hp : s.power.inReset = false)
    (ha : s.refActive x = true) : exec (.referenceBoundary x o) s = .next
      (if s.get tbStateCur = x.val && (s.get tbStateState = 1 || s.get tbStateState = 2) && s.tb.target.isNone
        then (s.bounded x o).loopBoundary x else s.bounded x o) := by
  have hcur : (s.bounded x o).get tbStateCur = s.get tbStateCur := s.get_bounded x o _ (by decide) (by decide)
  have hst : (s.bounded x o).get tbStateState = s.get tbStateState := s.get_bounded x o _ (by decide) (by decide)
  rw [← hcur, ← hst, ← s.bounded_tb x o]
  show Host.Outcome.next (if s.power.inReset || !s.refActive x then s else _) = _
  rw [if_neg (by simp [hp, ha])]
  rfl

/-- A boundary that does not steer the loop is recorded, and no more. -/
theorem State.bounded_spec {s : State} (x : Fin 3) (o : Word) (hr : Sparse.rising s.regs = true)
    (hrefs : Sparse.rising s.refs = true) :
    State.onlyRegs { s with refs := (s.bounded x o).refs } (s.bounded x o) (fun k => k = tbRefPofs.key x 0) ∧
      (s.bounded x o).getInt tbRefPofsPs x = s.boundaryPofs x o ∧
      (s.bounded x o).ref x = { s.ref x with bound := s.cycle } ∧
      ∀ y, y ≠ x.val → (s.bounded x o).ref y = s.ref y := by
  obtain ⟨hx, hy⟩ := State.ref_bounded x o hrefs
  refine ⟨⟨s.bounded_same x o, fun k d hk => ?_⟩, State.getInt_bounded x o hr, hx, hy⟩
  unfold State.bounded
  dsimp only
  split
  · rfl
  · exact State.regsKept_set s tbRefPofsPs _ x 0 (fun k => k = tbRefPofs.key x 0) (decide_eq_true rfl) k d hk

theorem State.timebaseOnly_bounded (s : State) (x : Fin 3) (o : Word) : s.timebaseOnly (s.bounded x o) := by
  have hx : ∀ x : Fin 3, ∀ k ∈ [tbRefPofs.key x 0], 0x200000 ≤ k ∧ k < 0x200300 := by decide
  exact (s.tbStep_bounded x o).timebaseOnly (hx x)

theorem State.tbStep_secondBegun (s : State) (x : Nat) : s.TbStep pofsRegs (s.secondBegun x) :=
  (s.tbStep_pofsShifted _).setTb _

/-- A boundary met by the loop where it is not to be stepped: the phase error against the held POFS judges it. -/
theorem State.loopMet_spec {s : State} (x : Fin 3) (o : Word) (hr : Sparse.rising s.regs = true)
    (hrefs : Sparse.rising s.refs = true) (hnext : s.tb.stepNext = false) :
    let t := (s.bounded x o).loopBoundary x
    t = (s.bounded x o).loopJudged (s.boundaryPofs x o - s.tb.held).natAbs (s.get tbLockLimit * 1000) ∧
      s.timebaseOnly t ∧ t.getInt tbRefPofsPs x = s.boundaryPofs x o ∧ (t.ref x).bound = s.cycle ∧
      t.tb.held = s.tb.held := by
  intro t
  have hlim : (s.bounded x o).get tbLockLimit = s.get tbLockLimit := s.get_bounded x o _ (by decide) (by decide)
  have hmet : t = (s.bounded x o).loopMet x :=
    (State.loopBoundary_eq _ _).trans (by rw [s.bounded_tb x o, hnext, if_neg (by decide)])
  have ht : t = (s.bounded x o).loopJudged (s.boundaryPofs x o - s.tb.held).natAbs (s.get tbLockLimit * 1000) := by
    rw [hmet, State.loopMet, State.getInt_bounded x o hr, hlim, s.bounded_tb x o]
  have hjudged := (s.bounded x o).tbStep_loopMet x
  obtain ⟨hjrefs, hheld, -, -⟩ := (s.bounded x o).loopMet_held x
  rw [← hmet] at hjudged hjrefs hheld
  have hpofs : ∀ y : Fin 3, tbRefPofs.key y 0 ∉ loopRegs := by decide
  refine ⟨ht, ?_, ?_, ?_, hheld.trans (congrArg _ (s.bounded_tb x o))⟩
  · exact State.timebaseOnly_trans (s.timebaseOnly_bounded x o) (hjudged.timebaseOnly (by decide))
  · exact (hjudged.keeps.getInt tbRefPofsPs x 0 (eventReg_tbRefPofs x) (hpofs x)).trans (State.getInt_bounded x o hr)
  · rw [State.ref, hjrefs]
    exact congrArg Ref.bound (State.ref_bounded x o hrefs).1

/-- A boundary that steps the phase begins a second (R315). -/
theorem State.loopStepped_spec {s : State} (x : Fin 3) (o : Word) (hr : Sparse.rising s.regs = true)
    (hnext : s.tb.stepNext = true) :
    let t := (s.bounded x o).loopBoundary x
    s.timebaseOnly t ∧ t.getInt tbRefPofsPs x = 0 ∧ t.tb.held = 0 ∧ t.tb.stepNext = false ∧
      (t.tb.acc : Int) = ((s.tb.acc : Int) - s.boundaryPofs x o * 1000000000000) % (secondUnits : Nat) := by
  intro t
  have hbound := s.tbStep_bounded x o
  have hpofs : (s.bounded x o).getInt tbRefPofsPs x = s.boundaryPofs x o := State.getInt_bounded x o hr
  have ht : t = ((s.bounded x o).secondBegun x).loopMet x :=
    (State.loopBoundary_eq _ _).trans (by rw [s.bounded_tb x o, hnext, if_pos rfl])
  have hjudged := ((s.bounded x o).secondBegun x).tbStep_loopMet x
  obtain ⟨-, hheld, hstep, hacc⟩ := ((s.bounded x o).secondBegun x).loopMet_held x
  rw [← ht] at hjudged hheld hstep hacc
  have hnot : ∀ y : Fin 3, tbRefPofs.key y 0 ∉ loopRegs := by decide
  refine ⟨?_, ?_, hheld, hstep, ?_⟩
  · exact State.timebaseOnly_trans (s.timebaseOnly_bounded x o) (State.timebaseOnly_trans
      (((s.bounded x o).tbStep_secondBegun x).timebaseOnly (by decide)) (hjudged.timebaseOnly (by decide)))
  · exact (hjudged.keeps.getInt tbRefPofsPs x 0 (eventReg_tbRefPofs x) (hnot x)).trans
      (State.getInt_secondBegun x (hbound.keeps.rising hr))
  · rw [hacc, State.secondBegun_acc, s.bounded_tb x o, hpofs]
    exact Int.toNat_of_nonneg (Int.emod_nonneg _ (by simp [secondUnits]))

end Sys2Proof.Machine
end

section
/-! ## Writes of `TB.CFG` and `TB.PSTEP` (R309, R310, R314, R315) -/
namespace Sys2Proof.Machine

/-! ### `TB.CFG` -/

/-- The loop runs free, at `TB.FREE_OFS`. -/
def State.freed (s : State) : State :=
  ((s.endWait.endSwitch.set tbStateCur 3).setReg tbFreq 0 0 (s.get tbFreeOfsValue)).setTbState 0

/-- What the fields of `TB.CFG`, once written, make the selector do. -/
def State.cfgActed (s : State) : State :=
  let m := s.get tbCfgMan
  if m = 3 then s.freed
  else match s.tb.target with
    | some (x, _) => if s.refQualified m && m ≠ x then s.setTb fun t => { t with manWait := some m } else s.judge
    | none => if s.refQualified m && m ≠ s.get tbStateCur && s.get tbStateCur ≠ 3 then s.startSwitch m else s.judge

theorem exec_tbCfgWrite {s : State} {w : Who} (v : Word) (hl : s.lets w (tbCfg.key 0 0)) :
    exec (.tbCfgWrite w v) s = .next (s.writeFieldsOf tbCfg 0 0 v.toNat).cfgActed :=
  congrArg _ (s.guarded0_lets w _ _ hl)

theorem State.tbStep_cfgActed (s : State) : s.TbStep loopRegs s.cfgActed := by
  have h := State.TbStep.refl (l := loopRegs) s
  unfold State.cfgActed State.freed
  dsimp only
  split
  · exact ((h.endWait.endSwitch.setState tbStateCur 3 rfl).setReg tbFreq 0 0 _ (by decide) (by decide)).toState 0
  · split
    · split
      · exact h.setTb _
      · exact h.judge none
    · split
      · exact h.startSwitch _
      · exact h.judge none

section
variable {s : State} (hr : Sparse.rising s.regs = true)
include hr

theorem State.endWait_wtr : s.endWait.get tbStateWtr = 0 ∧ Sparse.rising s.endWait.regs = true := by
  have hr1 := s.set_rising tbStateWtr 0 0 0 hr
  refine ⟨?_, State.set_rising _ _ _ _ _ hr1⟩
  rw [State.endWait, State.get_set_apart _ tbStateWtrLeft tbStateWtr _ _ _ hr1 (by decide) (by decide) ⟨rfl, by decide⟩,
    State.get_set_same s _ _ _ _ hr (by decide) (by decide)]
  rfl

theorem State.freed_shows : s.freed.get tbStateState = 0 ∧ s.freed.get tbStateCur = 3 ∧ s.freed.on tbStateWtr = false ∧
    s.freed.tb.target = none ∧ s.freed.get tbFreqValue = s.get tbFreeOfsValue := by
  obtain ⟨hwtr, hr1⟩ := State.endWait_wtr hr
  have hr2 : Sparse.rising s.endWait.endSwitch.regs = true := State.set_rising _ tbStateSwitching 0 0 0 hr1
  have hr3 := State.set_rising _ tbStateCur 3 0 0 hr2
  have hr4 := State.setReg_rising _ tbFreq 0 0 (s.get tbFreeOfsValue) hr3
  have hstate : ∀ f : RField, f.fits → tbStateState.apart f →
      s.freed.get f = (s.endWait.endSwitch.set tbStateCur 3).get f := fun f hf ha =>
    (State.get_setTbState_apart 0 f hr4 hf ha).trans (State.get_setReg_other tbFreq f _ 0 0 0 0 (by rw [← ha.1]; decide))
  refine ⟨State.get_setTbState (by decide) hr4, ?_, ?_, by rw [State.freed, State.setTbState_tb]; rfl, ?_⟩
  · rw [hstate tbStateCur (by decide) ⟨rfl, by decide⟩, State.get_set_same _ _ _ _ _ hr2 (by decide) (by decide)]
    rfl
  · rw [State.on, hstate tbStateWtr (by decide) ⟨rfl, by decide⟩,
      State.get_set_apart _ tbStateCur tbStateWtr _ _ _ hr2 (by decide) (by decide) ⟨rfl, by decide⟩]
    exact decide_eq_false (by
      rw [show s.endWait.endSwitch.get tbStateWtr = s.endWait.get tbStateWtr from
        State.get_set_apart _ tbStateSwitching tbStateWtr _ _ _ hr1 (by decide) (by decide) ⟨rfl, by decide⟩, hwtr]
      decide)
  · refine (State.get_setTbState_other _ 0 tbFreqValue (by decide) (by decide)).trans ?_
    exact (State.get_setReg_whole tbFreqValue 0 0 _ hr3 rfl rfl).trans (bits_mod_width _ 31 0)

theorem State.startSwitch_shows (x : Nat) :
    (s.startSwitch x).on tbStateSwitching = true ∧ (s.startSwitch x).tb.target = some (x, s.pofsNow x) := by
  refine ⟨decide_eq_true ?_, rfl⟩
  exact State.get_set_same _ tbStateSwitching 1 0 0 (State.endWait_wtr hr).2 (by decide) (by decide)

theorem State.selectRef_shows {x : Nat} (hx : x < 4) :
    (s.selectRef x).get tbStateCur = x ∧ (s.selectRef x).get tbStateState = 1 := by
  have hr1 := s.set_rising tbStateCur x 0 0 hr
  have hset : ∀ g, (((s.set tbStateCur x).setTb g).setTbState 1).get tbStateCur = x ∧
      (((s.set tbStateCur x).setTb g).setTbState 1).get tbStateState = 1 := fun g =>
    ⟨(State.get_setTbState_apart (s := (s.set tbStateCur x).setTb g) 1 tbStateCur hr1 (by decide) ⟨rfl, by decide⟩).trans
      ((State.get_set_same s tbStateCur x 0 0 hr (by decide) (by decide)).trans (Nat.mod_eq_of_lt hx)),
      State.get_setTbState (s := (s.set tbStateCur x).setTb g) (by decide) hr1⟩
  exact hset _

end

/-- With nothing selected, the reference that MAN names is selected at once. -/
theorem State.judge_selects {s : State} {m : Nat} (ht : s.tb.target = none) (hman : s.get tbCfgMan = m) (hm : m ≠ 3)
    (hcur : s.get tbStateCur = 3) (hq : s.refQualified m = true) (hfio : s.onFio = false) : s.judge = s.selectRef m := by
  have hpref : s.preferred = some m := by simp [State.preferred, hman, hm, hq]
  simp [State.judge, ht, State.select, hman, hm, hcur, hpref, hfio]

section
variable {s : State} {m : Nat} (hman : s.get tbCfgMan = m) (hm : m ≠ 3) (hq : s.refQualified m = true)
include hman hm hq

theorem State.cfgActed_switch (ht : s.tb.target = none) (hcur : s.get tbStateCur ≠ m) (hcur3 : s.get tbStateCur ≠ 3) :
    s.cfgActed = s.startSwitch m := by
  simp [State.cfgActed, hman, hm, ht, hq, hcur.symm, hcur3]

theorem State.cfgActed_select (ht : s.tb.target = none) (hcur : s.get tbStateCur = 3) (hfio : s.onFio = false) :
    s.cfgActed = s.selectRef m := by
  rw [← State.judge_selects ht hman hm hcur hq hfio]
  simp [State.cfgActed, hman, hm, ht, hcur]

theorem State.cfgActed_wait {x : Nat} {p : Int} (ht : s.tb.target = some (x, p)) (hx : m ≠ x) :
    s.cfgActed = s.setTb fun t => { t with manWait := some m } := by
  simp [State.cfgActed, hman, hm, ht, hq, hx]

end

theorem State.cfgActed_free {s : State} (hman : s.get tbCfgMan = 3) : s.cfgActed = s.freed := by
  rw [State.cfgActed, if_pos hman]

/-- A write of `TB.CFG` leaves what the selector reads of a reference. -/
theorem State.writeTbCfg_refs (s : State) (v m : Nat) :
    (s.writeFieldsOf tbCfg 0 0 v).pofsNow m = s.pofsNow m ∧
      (s.writeFieldsOf tbCfg 0 0 v).get tbRefStatQstate m = s.get tbRefStatQstate m := by
  have hpofs : tbRefPofsPs.reg.key m 0 ≠ tbCfg.key 0 0 := by simp only [RegDef.key, tbRefPofsPs, tbRefPofs, tbCfg]; omega
  have hfofs : tbRefFofsValue.reg.key m 0 ≠ tbCfg.key 0 0 := by
    simp only [RegDef.key, tbRefFofsValue, tbRefFofs, tbCfg]; omega
  have hstat : tbRefStatQstate.reg.key m 0 ≠ tbCfg.key 0 0 := by
    simp only [RegDef.key, tbRefStatQstate, tbRefStat, tbCfg]; omega
  refine ⟨?_, State.get_setReg_other _ _ _ _ _ _ _ hstat⟩
  simp only [State.pofsNow, State.getInt, State.writeFieldsOf, State.get_setReg_other _ _ _ _ _ _ _ hpofs,
    State.get_setReg_other _ _ _ _ _ _ _ hfofs]
  rfl

/-! ### `TB.PSTEP` -/

/-- `s` with `u` of a phase step still to apply. -/
def State.stepLeft (s : State) (u : Int) : State :=
  (s.setTb fun t => { t with step := u }).setInt tbPstepRemRem (stepPs u)

theorem exec_tbPstepWrite {s : State} {w : Who} (v : Word) (hl : s.lets w (tbPstep.key 0 0)) :
    exec (.tbPstepWrite w v) s = .next
      (if s.getInt tbPstepRemRem + v.toInt < -2147483648 ∨ 2147483647 < s.getInt tbPstepRemRem + v.toInt
        then s.reject w (tbPstep.key 0 0)
        else if s.tb.step + v.toInt * 1000000000000 = 0 && s.tb.step ≠ 0
          then (s.stepLeft (s.tb.step + v.toInt * 1000000000000)).tbFlag 4
          else s.stepLeft (s.tb.step + v.toInt * 1000000000000)) := by
  rw [← sext_toNat v]
  exact congrArg _ (s.guarded0_lets w _ _ hl)

theorem State.get_stepLeft {s : State} (u : Int) (hr : Sparse.rising s.regs = true) :
    (s.stepLeft u).get tbPstepRemRem = toBits 32 (stepPs u) :=
  (State.get_set_same (s.setTb fun t => { t with step := u }) tbPstepRemRem _ 0 0 hr (by decide) (by decide)).trans
    (Nat.mod_eq_of_lt (toBits_lt 32 _))

theorem State.stepLeft_only (s : State) (u : Int) :
    State.onlyRegs { s with tb := { s.tb with step := u } } (s.stepLeft u) (fun k => k = tbPstepRem.key 0 0) :=
  ⟨rfl, State.regsKept_set (s.setTb fun t => { t with step := u }) tbPstepRemRem _ 0 0 _ (decide_eq_true rfl)⟩

/-- The end of a phase step is shown. -/
theorem State.stepLeft_done {s : State} (u : Int) (hr : Sparse.rising s.regs = true) (hp : s.power.inReset = false) :
    let t := (s.stepLeft u).tbFlag 4
    t.get tbPstepRemRem = toBits 32 (stepPs u) ∧ t.on tbStatusPstepDone = true ∧ t.evtOn 172 = true ∧ t.tb.step = u := by
  have hr1 : Sparse.rising (s.stepLeft u).regs = true := State.set_rising _ _ _ _ _ hr
  obtain ⟨hbit, hevt⟩ := State.tbFlag_shows (s := s.stepLeft u) 4 (by decide) hr1 hp
  exact ⟨(State.get_tbFlag _ 4 _ _ _ (by decide) (by decide)).trans (State.get_stepLeft u hr),
    (State.on_eq_bit _ tbStatus 4 0 0).trans hbit, hevt, by rw [State.tbFlag_tb]; rfl⟩

/-- What stays of a phase step once a write of it was taken, with PSTEP_DONE where that is nothing. -/
theorem State.stepTaken_spec {s : State} (u : Int) (hr : Sparse.rising s.regs = true) (hp : s.power.inReset = false) :
    let t := if u = 0 && s.tb.step ≠ 0 then (s.stepLeft u).tbFlag 4 else s.stepLeft u
    State.onlyEvents { s with tb := { s.tb with step := u } } t (fun k => k = tbPstepRem.key 0 0 || k = tbStatus.key 0 0) ∧
      t.get tbPstepRemRem = toBits 32 (stepPs u) ∧
      (u = 0 → s.tb.step ≠ 0 → t.on tbStatusPstepDone = true ∧ t.evtOn 172 = true) := by
  obtain ⟨hsame, hkept⟩ := s.stepLeft_only u
  have hleft : State.onlyEvents { s with tb := { s.tb with step := u } } (s.stepLeft u)
      (fun k => k = tbPstepRem.key 0 0 || k = tbStatus.key 0 0) :=
    ⟨rfl, State.regsKept_mono hkept fun k hk => by simp [of_decide_eq_true hk]⟩
  intro t
  by_cases hdone : u = 0 ∧ s.tb.step ≠ 0
  · have ht : t = (s.stepLeft u).tbFlag 4 := if_pos (by simp [hdone])
    have hflag := (s.stepLeft u).tbFlag_events 4
    obtain ⟨hrem, hon, hevt, -⟩ := State.stepLeft_done u hr hp
    rw [ht]
    refine ⟨⟨State.sameBut_trans hleft.1 hflag.1, State.regsKept_trans hleft.2 (State.regsKept_mono hflag.2 fun k hk => ?_)⟩,
      hrem, fun _ _ => ⟨hon, hevt⟩⟩
    rcases (Bool.or_eq_true _ _).mp hk with hk | hk <;> simp [hk]
  · have ht : t = s.stepLeft u := if_neg (by simpa using hdone)
    rw [ht]
    exact ⟨hleft, State.get_stepLeft u hr, fun h0 h1 => absurd ⟨h0, h1⟩ hdone⟩

/-! ### The end of a phase step -/

/-- The registers that the passing of time changes besides those of a phase step. -/
def regionRegs : List Nat := (List.range 4).map fun r => rgnNs.key r 0

theorem State.keeps_secondCarry (s : State) : s.Keeps regionRegs s.secondCarry ∧ s.secondCarry.tb.step = s.tb.step := by
  unfold State.secondCarry
  split
  · exact ⟨.raised (by rfl) _, by rw [(State.raise_same _ _).2]⟩
  · exact ⟨.of_regs rfl, rfl⟩

theorem State.keeps_carries (s : State) (n : Nat) : s.Keeps regionRegs (s.carries n) ∧ (s.carries n).tb.step = s.tb.step := by
  unfold State.carries
  split
  · exact ⟨.of_regs rfl, rfl⟩
  · exact s.keeps_secondCarry
  · exact ⟨s.keeps_secondCarry.1.trans (.of_regs rfl), s.keeps_secondCarry.2⟩

theorem State.keeps_runRegion (s : State) (n : Nat) {r : Nat} (hr : r < 4) :
    s.Keeps regionRegs (s.runRegion n r) ∧ (s.runRegion n r).tb = s.tb := by
  have hkey : ∀ r < 4, rgnNs.key r 0 ∈ regionRegs ∧ statusFree (rgnNs.key r 0) = true := by decide
  unfold State.runRegion
  split
  · dsimp only
    split <;> exact ⟨.of_regs rfl, rfl⟩
  · exact ⟨.setReg s rgnNs r 0 _ (hkey r hr).1 (hkey r hr).2, rfl⟩

theorem State.keeps_runRegions (s : State) (n : Nat) (idle : Bool) :
    let t := if idle then s else (((s.runRegion n 0).runRegion n 1).runRegion n 2).runRegion n 3
    s.Keeps regionRegs t ∧ t.tb = s.tb := by
  dsimp only
  split
  · exact ⟨.of_regs rfl, rfl⟩
  · obtain ⟨h0, e0⟩ := s.keeps_runRegion n (show 0 < 4 by decide)
    obtain ⟨h1, e1⟩ := State.keeps_runRegion (s.runRegion n 0) n (show 1 < 4 by decide)
    obtain ⟨h2, e2⟩ := State.keeps_runRegion ((s.runRegion n 0).runRegion n 1) n (show 2 < 4 by decide)
    obtain ⟨h3, e3⟩ := State.keeps_runRegion (((s.runRegion n 0).runRegion n 1).runRegion n 2) n (show 3 < 4 by decide)
    exact ⟨((h0.trans h1).trans h2).trans h3, ((e3.trans e2).trans e1).trans e0⟩

theorem State.keeps_commit (s : State) (b : Table) : s.Keeps regionRegs (s.commit b) := by
  cases h : s.on tickStatusSealed with
  | false => rw [State.commit_open b h]; exact .of_regs rfl
  | true => rw [State.commit_sealed b h]; exact .raised (by rfl) _

theorem State.keeps_takeCommits (s : State) : s.Keeps regionRegs s.takeCommits := by
  have hbits : ∀ (t : State) (c : SysCommit), t.Keeps regionRegs (t.commitBits c.ctx c.bits) := fun t c =>
    (((State.Keeps.ite _ (t.keeps_commit _)).trans (.ite _ (State.keeps_commit _ _))).trans
      (.ite _ (State.keeps_commit _ _))).trans (.ite _ (State.keeps_commit _ _))
  exact (State.Keeps.foldl _ hbits _ _).from_regs (by rfl)

/-- `s` with its phase step applied down to `rest`. -/
def State.stepApplied (s : State) (rest : Int) : State :=
  (s.pofsShifted (stepPs s.tb.step - stepPs rest)).setTb fun t =>
    { t with held := t.held - (stepPs s.tb.step - stepPs rest)
             target := t.target.map fun (x : Nat × Int) => (x.1, x.2 - (stepPs s.tb.step - stepPs rest)) }


/-- What a phase step applied by `d` down to `rest` leaves besides the POFS. -/
theorem State.stepLeft_applied (s : State) (d rest : Int) :
    ({ s with tb := { s.tb with step := rest, held := s.tb.held - d
                                target := s.tb.target.map fun (t : Nat × Int) => (t.1, t.2 - d) } } : State).setInt
      tbPstepRemRem (stepPs rest) =
    (s.setTb fun t => { t with held := t.held - d, target := t.target.map fun (x : Nat × Int) => (x.1, x.2 - d) }).stepLeft
      rest := rfl

theorem State.stepped_eq (s : State) (rest : Int) : s.stepped rest =
    if rest = 0 then ((s.stepApplied rest).stepLeft rest).tbFlag 4 else (s.stepApplied rest).stepLeft rest := by
  rw [State.stepApplied, ← State.stepLeft_applied]
  rfl

theorem State.stepApplied_kept (s : State) (rest : Int) : (s.stepApplied rest).power = s.power ∧
    (Sparse.rising s.regs = true → Sparse.rising (s.stepApplied rest).regs = true) :=
  ⟨rfl, (s.tbStep_pofsShifted _).keeps.rising⟩

theorem stepPs_zero : toBits 32 (stepPs 0) = 0 := by decide

/-- In `n` control cycles at 1 ns per second the whole of a short phase step is applied. -/
theorem State.runTod_done {s : State} {n : Nat} (hstep : s.tb.step ≠ 0) (hn : s.tb.step.natAbs ≤ 3200000 * n) :
    ∃ p a, s.runTod n = ((({ s with tick := { s.tick with passed := p } } : State).stepped 0).setTb fun t =>
      { t with acc := a % secondUnits }).carries (a / secondUnits) := by
  have hclamp : clampInt (-(3200000 * n : Nat)) (3200000 * n : Nat) s.tb.step = s.tb.step := by
    rw [clampInt, if_neg (by omega), if_neg (by omega)]
  refine ⟨s.tick.passed + ((((s.tb.acc + n * s.todStep : Nat) : Int) - s.tb.step).toNat - s.tb.acc),
    (((s.tb.acc + n * s.todStep : Nat) : Int) - s.tb.step).toNat, ?_⟩
  simp only [State.runTod, hclamp, if_neg hstep, Int.sub_self]
  rfl

/-- Core cycles in which control cycles pass leave what the time of day leaves, but for the regions' counters. -/
theorem State.keeps_elapse {s : State} (n : Nat) (hp : s.power.inReset = false) :
    (s.runTod n).Keeps regionRegs (s.elapse (4 * n)) ∧ (s.elapse (4 * n)).tb.step = (s.runTod n).tb.step := by
  have hcycles : (s.cycle + 4 * n) / 4 - s.cycle / 4 = n := by omega
  unfold State.elapse
  rw [if_neg (by simp [hp]), hcycles]
  extract_lets u f v
  obtain ⟨hv, hvtb⟩ := u.keeps_runRegions f (f = 0 || s.get pwrStateState = 2)
  have hcommits := State.keeps_takeCommits { v with cycle := s.cycle + 4 * n }
  refine ⟨hv.trans (hcommits.from_regs rfl), ?_⟩
  rw [(State.committed_takeCommits _).same]
  exact congrArg Timebase.step hvtb

/-- Once the time that a phase step takes has passed, it has been applied. -/
theorem State.pstepDone_shows {s : State} {n : Nat} (hr : Sparse.rising s.regs = true) (hp : s.power.inReset = false)
    (hstep : s.tb.step ≠ 0) (hn : s.tb.step.natAbs ≤ 3200000 * n) :
    (s.elapse (4 * n)).tb.step = 0 ∧ (s.elapse (4 * n)).get tbPstepRemRem = 0 ∧
      (s.elapse (4 * n)).on tbStatusPstepDone = true ∧ (s.elapse (4 * n)).evtOn 172 = true := by
  obtain ⟨helapse, helapseStep⟩ := s.keeps_elapse n hp
  obtain ⟨p, a, hrun⟩ := State.runTod_done hstep hn
  rw [hrun] at helapse helapseStep
  generalize hs0 : ({ s with tick := { s.tick with passed := p } } : State) = s0 at helapse helapseStep
  obtain ⟨hpower, hrising⟩ := s0.stepApplied_kept 0
  have hr0 : Sparse.rising (s0.stepApplied 0).regs = true := hrising (by subst hs0; exact hr)
  have hp0 : (s0.stepApplied 0).power.inReset = false := by rw [hpower]; subst hs0; exact hp
  have hstepped : s0.stepped 0 = ((s0.stepApplied 0).stepLeft 0).tbFlag 4 := s0.stepped_eq 0
  obtain ⟨hrem, hon, hevt, hzero⟩ := State.stepLeft_done (s := s0.stepApplied 0) 0 hr0 hp0
  have hru : Sparse.rising (((s0.stepApplied 0).stepLeft 0).tbFlag 4).regs = true :=
    (State.keeps_tbFlag (l := [tbStatus.key 0 0]) _ 4 (by decide)).rising (State.set_rising _ _ _ _ _ hr0)
  rw [← hstepped] at hrem hon hevt hzero hru
  obtain ⟨hcarry, hcarryStep⟩ :=
    ((s0.stepped 0).setTb fun t => { t with acc := a % secondUnits }).keeps_carries (a / secondUnits)
  have hkeeps : (s0.stepped 0).Keeps regionRegs (s.elapse (4 * n)) :=
    (hcarry.trans helapse).from_regs rfl
  refine ⟨helapseStep.trans (hcarryStep.trans hzero), ?_, ?_, hkeeps.on 172 (by decide) hru hevt⟩
  · exact (hkeeps.get tbPstepRemRem 0 0 (by decide) (by decide)).trans (hrem.trans stepPs_zero)
  · rw [tbStatusPstepDone, State.on_eq_bit] at hon ⊢
    exact hkeeps.status 4 (by decide) hru hon

end Sys2Proof.Machine
end

section
/-! ## Writes to the servo, and what the loop and the servo come to (R307, R315, R316, R318) -/
namespace Sys2Proof.Machine

/-! ### `PTPS.CFG` and measurements -/

/-- `s` with the servo's filter cleared, and REFC's POFS with it. -/
def State.filterCleared (s : State) : State := ((s.setReg ptpsFilt 0 0 0).setReg ptpsFofs 0 0 0).servoPofs

/-- `s` with the servo OFF and its filter cleared. -/
def State.servoOff (s : State) : State := (s.filterCleared.setTb fun t => { t with sIn := 0, sOut := 0 }).setServo 0

theorem exec_ptpsCfgWrite {s : State} {w : Who} (v : Word) (hl : s.lets w (ptpsCfg.key 0 0)) :
    exec (.ptpsCfgWrite w v) s = .next (if bit v.toNat 31 then s.writeFieldsOf ptpsCfg 0 0 v.toNat
      else (s.writeFieldsOf ptpsCfg 0 0 v.toNat).servoOff) :=
  congrArg _ (s.guarded0_lets w _ _ hl)

theorem State.tbStep_servoOff (s : State) : s.TbStep (measureRegs ++ servoRegs) s.servoOff :=
  (((((State.TbStep.refl s).setReg ptpsFilt 0 0 _ (by decide) (by decide)).setReg ptpsFofs 0 0 _ (by decide)
    (by decide)).set tbRefPofsPs _ 2 0 (by decide) (by decide)).setTb _).trans ((State.tbStep_setServo _ 0).mono (by decide))

theorem State.get_setServo {s : State} {st : Nat} (hst : st < 8) (hr : Sparse.rising s.regs = true)
    (hp : s.power.inReset = false) : (s.setServo st).get ptpsStateState = st := by
  by_cases h : s.get ptpsStateState = st
  · rw [State.setServo_same h, h]
  · exact (State.setServo_shows h hst hr hp).1

theorem State.filterCleared_shows {s : State} (hr : Sparse.rising s.regs = true) :
    s.filterCleared.get ptpsFiltOfs = 0 ∧ s.filterCleared.get ptpsFofsValue = 0 ∧
      s.filterCleared.getInt tbRefPofsPs 2 = 0 ∧ Sparse.rising s.filterCleared.regs = true := by
  have hr1 := s.setReg_rising ptpsFilt 0 0 0 hr
  have hr2 := State.setReg_rising _ ptpsFofs 0 0 0 hr1
  have hfilt : ((s.setReg ptpsFilt 0 0 0).setReg ptpsFofs 0 0 0).get ptpsFiltOfs = 0 :=
    (State.get_setReg_other ptpsFofs ptpsFiltOfs _ 0 0 0 0 (by decide)).trans
      (State.get_setReg_whole ptpsFiltOfs 0 0 0 hr rfl rfl)
  refine ⟨?_, ?_, ?_, State.set_rising _ tbRefPofsPs _ 2 0 hr2⟩
  · exact (State.get_set_other _ tbRefPofsPs ptpsFiltOfs _ 2 0 0 0 (by decide)).trans hfilt
  · exact (State.get_set_other _ tbRefPofsPs ptpsFofsValue _ 2 0 0 0 (by decide)).trans
      (State.get_setReg_whole ptpsFofsValue 0 0 0 hr1 rfl rfl)
  · refine (State.getInt_setPofs _ 2 hr2).trans ?_
    rw [State.getInt, hfilt]
    exact clampInt_zero

theorem State.servoOff_shows {s : State} (hr : Sparse.rising s.regs = true) (hp : s.power.inReset = false) :
    s.servoOff.get ptpsStateState = 0 ∧ s.servoOff.get ptpsFiltOfs = 0 ∧ s.servoOff.get ptpsFofsValue = 0 ∧
      s.servoOff.getInt tbRefPofsPs 2 = 0 := by
  obtain ⟨hfilt, hfofs, hpofs, hr1⟩ := State.filterCleared_shows hr
  have hservo := (State.tbStep_setServo (s.filterCleared.setTb fun t => { t with sIn := 0, sOut := 0 }) 0).keeps
  refine ⟨State.get_setServo (by decide) hr1 hp, ?_, ?_, ?_⟩
  · exact (hservo.get ptpsFiltOfs 0 0 (by decide) (by decide)).trans hfilt
  · exact (hservo.get ptpsFofsValue 0 0 (by decide) (by decide)).trans hfofs
  · exact (hservo.getInt tbRefPofsPs 2 0 (by decide) (by decide)).trans hpofs

/-- A measurement taken at `t2` is neither out of order nor stale. -/
def State.freshT2 (s : State) (t2 : Nat) : Prop :=
  (∀ p, s.tb.sLast = some p → p < t2) ∧ stampNs s.todStamp ≤ t2 + 1000000000

theorem exec_ptpMeasurement_idle {s : State} {w : Who} (o : BitVec 64) (hl : s.lets w (ptpsOfs.key 0 0))
    (h : s.on ptpsCfgEn = false ∨ s.egrUp 0 = false) : exec (.ptpMeasurement w o) s = .next s := by
  refine (congrArg _ (s.guarded0_lets w _ _ hl)).trans (congrArg _ (if_pos ?_))
  rcases h with h | h <;> simp [h]

section
variable {s : State} {w : Who} (o : BitVec 64) (hl : s.lets w (ptpsOfs.key 0 0)) (hen : s.on ptpsCfgEn = true)
  (hup : s.egrUp 0 = true)
include hl hen hup

theorem exec_ptpMeasurement_fresh (h : s.freshT2 (stampNs (s.get ptpsT2Stamp))) :
    exec (.ptpMeasurement w o) s = .next (s.servoTake (stampNs (s.get ptpsT2Stamp)) o) := by
  obtain ⟨horder, htime⟩ := h
  refine (congrArg _ (s.guarded0_lets w _ _ hl)).trans (congrArg _ ?_)
  rw [if_neg (by simp [hen, hup]), if_neg, BitVec.ofNat_toNat, BitVec.setWidth_eq]
  cases hlast : s.tb.sLast with
  | none => simpa using htime
  | some p => simpa using ⟨horder p hlast, htime⟩

theorem exec_ptpMeasurement_stale (h : ¬ s.freshT2 (stampNs (s.get ptpsT2Stamp))) :
    exec (.ptpMeasurement w o) s = .next (s.tbFlag 7) := by
  refine (congrArg _ (s.guarded0_lets w _ _ hl)).trans (congrArg _ ?_)
  rw [if_neg (by simp [hen, hup]), if_pos]
  by_contra hfresh
  refine h ⟨fun p hlast => ?_, ?_⟩ <;> simp only [Bool.or_eq_true, decide_eq_true_eq, not_or] at hfresh
  · simpa [hlast] using hfresh.1
  · omega

end

/-- A measurement that is taken: what the filter makes of it, and the state that follows. -/
theorem State.servoTake_spec {s : State} (t2 : Nat) (o : BitVec 64) (hr : Sparse.rising s.regs = true) :
    let t := s.servoTake t2 o
    let u := s.measured t2 o
    s.timebaseOnly t ∧ t.tb.sLast = some t2 ∧ t.get ptpsFiltOfs = toBits 64 (Config.ptpFilter s.fresh o) ∧
      t.getInt tbRefPofsPs 2 = clampInt (-2147483648) 2147483647 (t.getInt ptpsFiltOfs * 1000 / 65536) ∧
      t = u.servoJudged (t.getInt ptpsFiltOfs).natAbs (max 1 (s.get ptpsCfgLimit) * 655360) ∧
      u.get ptpsStateState = s.get ptpsStateState ∧ u.tb.sIn = s.tb.sIn ∧ u.tb.sOut = s.tb.sOut ∧
      Sparse.rising u.regs = true ∧ u.power = s.power := by
  intro t u
  have hmeas := s.tbStep_measured t2 o
  have hjudged := u.tbStep_servoJudged (u.getInt ptpsFiltOfs).natAbs (max 1 (u.get ptpsCfgLimit) * 655360)
  have ht : t = u.servoJudged (u.getInt ptpsFiltOfs).natAbs (max 1 (u.get ptpsCfgLimit) * 655360) := s.servoTake_eq t2 o
  rw [← ht] at hjudged
  obtain ⟨hfilt, hpofs⟩ := State.measured_shows t2 o hr
  have hint : t.getInt ptpsFiltOfs = u.getInt ptpsFiltOfs := hjudged.keeps.getInt ptpsFiltOfs 0 0 (by decide) (by decide)
  have hlimit : u.get ptpsCfgLimit = s.get ptpsCfgLimit := hmeas.keeps.get ptpsCfgLimit 0 0 (by decide) (by decide)
  refine ⟨?_, ?_, ?_, ?_, by rw [hint, ← hlimit]; exact ht, ?_, rfl, rfl, hmeas.keeps.rising hr, rfl⟩
  · exact State.timebaseOnly_trans (hmeas.timebaseOnly (by decide)) (hjudged.timebaseOnly (by decide))
  · exact hjudged.last
  · exact (hjudged.keeps.get ptpsFiltOfs 0 0 (by decide) (by decide)).trans hfilt
  · rw [hint]
    exact (hjudged.keeps.getInt tbRefPofsPs 2 0 (by decide) (by decide)).trans hpofs
  · exact hmeas.keeps.get ptpsStateState 0 0 (by decide) (by decide)

end Sys2Proof.Machine
end

section
/-! ## The loop, holdover and the servo (R303 to R318) -/
namespace Sys2Proof.Machine

/-- A LOCKED loop's mean frequency is kept for holdover (R316). -/
theorem State.holdValid_shows {s : State} (m : Word) (hr : Sparse.rising s.regs = true) :
    let t := (s.setReg tbHold 0 0 m.toNat).set tbStateHoldValid 1
    s.onlyRegs t (fun k => k = tbHold.key 0 0 || k = tbState.key 0 0) ∧ t.get tbHoldValue = m.toNat ∧
      t.on tbStateHoldValid = true ∧ t.get tbStateState = s.get tbStateState ∧ t.get tbStateCur = s.get tbStateCur := by
  have hr1 := s.setReg_rising tbHold 0 0 m.toNat hr
  refine ⟨⟨rfl, ?_⟩, ?_, decide_eq_true (State.get_set_same _ _ _ _ _ hr1 (by decide) (by decide)), ?_, ?_⟩
  · exact State.regsKept_trans (s.regsKept_setReg tbHold 0 0 _ _ (by decide))
      (State.regsKept_set _ tbStateHoldValid _ 0 0 _ (by decide))
  · exact (State.get_set_other _ tbStateHoldValid tbHoldValue _ 0 0 0 0 (by decide)).trans
      ((State.get_setReg_whole tbHoldValue 0 0 _ hr rfl rfl).trans (Nat.mod_eq_of_lt m.isLt))
  · exact (State.get_set_apart _ tbStateHoldValid tbStateState _ _ _ hr1 (by decide) (by decide) ⟨rfl, by decide⟩).trans
      (State.get_setReg_other tbHold _ _ 0 0 0 0 (by decide))
  · exact (State.get_set_apart _ tbStateHoldValid tbStateCur _ _ _ hr1 (by decide) (by decide) ⟨rfl, by decide⟩).trans
      (State.get_setReg_other tbHold _ _ 0 0 0 0 (by decide))

theorem exec_holdmaxExpiry_loop (s : State) : exec (.holdmaxExpiry false) s = .next
    (if s.get tbLockHoldmax = 0 then s else if s.get tbStateState = 3 then s.setTbState 4 else s) := rfl

theorem exec_holdmaxExpiry_servo (s : State) : exec (.holdmaxExpiry true) s = .next
    (if s.get tbLockHoldmax = 0 then s else if s.get ptpsStateState = 3 then s.setServo 4 else s) := rfl

theorem exec_tbQualWrite {s : State} {w : Who} (v : Word) (hl : s.lets w (tbQual.key 0 0)) :
    exec (.tbQualWrite w v) s = .next (if bits v.toNat 31 16 ≤ bits v.toNat 15 0 then s.reject w (tbQual.key 0 0)
      else s.setReg tbQual 0 0 v.toNat) :=
  congrArg _ (s.guarded0_lets w _ _ hl)

/-- A read-write field of a register that was written and that what followed leaves alone. -/
theorem State.TbStep.get_written {s t : State} {r : RegDef} {v : Nat} {l : List Nat}
    (h : (s.writeFieldsOf r 0 0 v).TbStep l t) (hr : Sparse.rising s.regs = true) (he : eventReg (r.key 0 0) = false)
    (hl : r.key 0 0 ∉ l) (hfs : fieldsApart r.fields) (hi lo : Nat) (hf : RField.fits ⟨r, hi, lo⟩)
    (hm : ⟨hi, lo, .rw⟩ ∈ r.fields) : t.get ⟨r, hi, lo⟩ = bits v hi lo :=
  (h.keeps.get ⟨r, hi, lo⟩ 0 0 he hl).trans (State.get_writeFieldsOf ⟨r, hi, lo⟩ 0 0 v hr hf hfs hm)

/-- What the fields of `TB.CFG` read once they are written and the selector has acted. -/
theorem State.cfgActed_spec {s : State} (v : Nat) (hr : Sparse.rising s.regs = true) :
    let t := (s.writeFieldsOf tbCfg 0 0 v).cfgActed
    s.timebaseOnly t ∧ t.get tbCfgMan = bits v 17 16 ∧ t.get tbCfgWtr = bits v 15 4 ∧ t.get tbCfgBw = bits v 22 20 ∧
      t.get tbCfgRevert = bits v 0 0 := by
  intro t
  have hwrite : s.TbStep [tbCfg.key 0 0] (s.writeFieldsOf tbCfg 0 0 v) :=
    (State.TbStep.refl s).setReg tbCfg 0 0 _ (by decide) (by decide)
  have hacted := (s.writeFieldsOf tbCfg 0 0 v).tbStep_cfgActed
  have hfield := hacted.get_written hr (by decide) (by decide) (by decide)
  exact ⟨State.timebaseOnly_trans (hwrite.timebaseOnly (by decide)) (hacted.timebaseOnly (by decide)),
    hfield 17 16 (by decide) (by decide), hfield 15 4 (by decide) (by decide), hfield 22 20 (by decide) (by decide),
    hfield 0 0 (by decide) (by decide)⟩

/-- What a write of `TB.CFG` starts (R309, R310, R315): FREERUN, a switch, a first selection, or the wait for a switch. -/
theorem State.cfgActed_acts {s : State} (v : Nat) (hr : Sparse.rising s.regs = true) :
    let t := (s.writeFieldsOf tbCfg 0 0 v).cfgActed
    let m := bits v 17 16
    (m = 3 → t.get tbStateState = 0 ∧ t.get tbStateCur = 3 ∧ t.on tbStateWtr = false ∧ t.tb.target = none ∧
        t.get tbFreqValue = s.get tbFreeOfsValue) ∧
      (m ≠ 3 → s.get tbRefStatQstate m = 2 → s.tb.target = none → s.get tbStateCur ≠ m → s.get tbStateCur ≠ 3 →
        t.on tbStateSwitching = true ∧ t.tb.target = some (m, s.pofsNow m)) ∧
      (m ≠ 3 → s.get tbRefStatQstate m = 2 → s.tb.target = none → s.get tbStateCur = 3 → s.get clkSrcDom % 8 = 0 →
        t.get tbStateCur = m ∧ t.get tbStateState = 1) ∧
      (∀ x p, m ≠ 3 → s.get tbRefStatQstate m = 2 → s.tb.target = some (x, p) → m ≠ x →
        t.tb.target = s.tb.target ∧ t.tb.manWait = some m) := by
  intro t m
  have hru : Sparse.rising (s.writeFieldsOf tbCfg 0 0 v).regs = true := s.setReg_rising _ _ _ _ hr
  have human : (s.writeFieldsOf tbCfg 0 0 v).get tbCfgMan = m :=
    State.get_writeFieldsOf tbCfgMan 0 0 _ hr (by decide) (by decide) (by decide)
  have hkept : ∀ f : RField, f.reg.key 0 0 ≠ tbCfg.key 0 0 → (s.writeFieldsOf tbCfg 0 0 v).get f = s.get f :=
    fun f hf => State.get_setReg_other tbCfg f _ 0 0 0 0 hf
  obtain ⟨hpofs, hq⟩ := s.writeTbCfg_refs v m
  have hcur := hkept tbStateCur (by decide)
  have hqual : m ≠ 3 → s.get tbRefStatQstate m = 2 → (s.writeFieldsOf tbCfg 0 0 v).refQualified m = true := by
    intro hm h2
    have hlt : m < 4 := bits_lt _ 17 16 _ rfl
    have hm3 : m < 3 := by omega
    simp [State.refQualified, hq, h2, hm3]
  unfold t
  refine ⟨fun hm => ?_, fun hm h2 ht hne hne3 => ?_, fun hm h2 ht h3 hsrc => ?_, fun x p hm h2 ht hx => ?_⟩
  · rw [State.cfgActed_free (human.trans hm), ← hkept tbFreeOfsValue (by decide)]
    exact State.freed_shows hru
  · rw [State.cfgActed_switch human hm (hqual hm h2) ht (hcur.trans_ne hne) (hcur.trans_ne hne3), ← hpofs]
    exact State.startSwitch_shows hru m
  · have hfio : (s.writeFieldsOf tbCfg 0 0 v).onFio = false := by
      simp [State.onFio, hkept clkSrcDom (by decide), hsrc]
    rw [State.cfgActed_select human hm (hqual hm h2) ht (hcur.trans h3) hfio]
    exact State.selectRef_shows hru (bits_lt _ 17 16 _ rfl)
  · rw [State.cfgActed_wait human hm (hqual hm h2) ht hx]
    exact ⟨rfl, rfl⟩

/-- What the fields of `PTPS.CFG` read once they are written, whether or not the servo is turned off. -/
theorem State.ptpsCfg_reads {s : State} (v : Nat) (hr : Sparse.rising s.regs = true) {t : State}
    (ht : (s.writeFieldsOf ptpsCfg 0 0 v).TbStep (measureRegs ++ servoRegs) t) :
    s.timebaseOnly t ∧ t.get ptpsCfgEn = bits v 31 31 ∧ t.get ptpsCfgBw = bits v 18 16 ∧
      t.get ptpsCfgMeasTo = bits v 15 8 ∧ t.get ptpsCfgLimit = bits v 7 0 := by
  have hwrite : s.TbStep [ptpsCfg.key 0 0] (s.writeFieldsOf ptpsCfg 0 0 v) :=
    (State.TbStep.refl s).setReg ptpsCfg 0 0 _ (by decide) (by decide)
  have hfield := ht.get_written hr (by decide) (by decide) (by decide)
  exact ⟨State.timebaseOnly_trans (hwrite.timebaseOnly (by decide)) (ht.timebaseOnly (by decide)),
    hfield 31 31 (by decide) (by decide), hfield 18 16 (by decide) (by decide), hfield 15 8 (by decide) (by decide),
    hfield 7 0 (by decide) (by decide)⟩

/-- Settles O48: a boundary is recorded (`State.bounded_spec`) and then meets the loop (`State.loopMet_spec`) or steps the
phase (`State.loopStepped_spec`); a write of `TB.CFG` starts what `State.cfgActed_acts` says, one of `TB.PSTEP`
what `State.stepTaken_spec` says, and a phase step ends as `State.pstepDone_shows` says; a measurement is filtered
(`State.servoTake_spec`) and judged (`State.servoJudged`), and a change of the servo's state shows what
`State.setServo_shows` says. -/
theorem loopHoldoverAndServo : Obligations.LoopHoldoverAndServo := by
  unfold Obligations.LoopHoldoverAndServo
  refine ⟨?idle, ?boundary, ?holdValid, ?holdmax, ?cfg, ?qual, ?pstep, ?noStep, ?stepDone, ?servoIdle, ?measured, ?timeout,
    ?servoCfg⟩
  case idle =>
    intro s x o h
    exact congrArg Host.Outcome.next (if_pos (by simpa using h))
  case boundary =>
    intro s x o hs hord hp hact p st lim
    have hr := State.sound_rising hs
    have hrefs := State.ordered_refs hord
    have hrb : Sparse.rising (s.bounded x o).regs = true := (s.tbStep_bounded x o).keeps.rising hr
    have hpb : (s.bounded x o).power.inReset = false := (s.tbStep_bounded x o).inReset.trans hp
    have hstb : (s.bounded x o).get tbStateState = st := s.get_bounded x o _ (by decide) (by decide)
    refine ⟨fun hout => ?_, fun hcur ht hst hnext => ?_, fun hcur ht hst hnext => ?_⟩
    · refine ⟨s.bounded x o, ?_, State.bounded_spec x o hr hrefs⟩
      rw [exec_referenceBoundary x o hp hact, if_neg]
      simp only [Bool.and_eq_true, Bool.or_eq_true, decide_eq_true_eq, Option.isNone_iff_eq_none, not_and_or, not_or]
      tauto
    · have hexec : exec (.referenceBoundary x o) s = .next ((s.bounded x o).loopBoundary x) := by
        rw [exec_referenceBoundary x o hp hact, if_pos]
        simpa [hcur, ht] using hst
      obtain ⟨hjudged, htime, hpofs, hbound, hheld⟩ := State.loopMet_spec x o hr hrefs hnext
      have hshows := State.loopJudged_shows (s := s.bounded x o) (err := (p - s.tb.held).natAbs) (lim := lim) hrb hpb
      rw [hstb, s.bounded_tb x o] at hshows
      refine ⟨_, hexec, htime, hpofs, hbound, hheld, ?_⟩
      rw [hjudged]
      exact hshows
    · refine ⟨_, ?_, State.loopStepped_spec x o hr hnext⟩
      rw [exec_referenceBoundary x o hp hact, if_pos]
      simp [hcur, ht, show s.get tbStateState = 1 from hst]
  case holdValid =>
    intro s m hs
    refine ⟨fun h => congrArg Host.Outcome.next (if_neg h), fun h => ⟨_, congrArg Host.Outcome.next (if_pos h), ?_⟩⟩
    rw [← h]
    exact State.holdValid_shows m (State.sound_rising hs)
  case holdmax =>
    intro s hs hp
    have hr := State.sound_rising hs
    rw [exec_holdmaxExpiry_loop, exec_holdmaxExpiry_servo]
    refine ⟨fun h => ?_, fun h => ?_, fun hmax hst => ⟨_, by rw [if_neg hmax, if_pos hst], ?_⟩,
      fun hmax hst => ⟨_, by rw [if_neg hmax, if_pos hst], ?_⟩⟩
    · rcases h with h | h <;> simp [h]
    · rcases h with h | h <;> simp [h]
    · exact ⟨s.setTbState_events 4, State.get_setTbState (by decide) hr,
        State.get_setTbState_apart 4 tbStateCur hr (by decide) ⟨rfl, by decide⟩,
        State.setTbState_shows (hst.trans_ne (by decide)) hr hp⟩
    · obtain ⟨hget, hon, hevt, -⟩ := State.setServo_shows (st := 4) (hst.trans_ne (by decide)) (by decide) hr hp
      exact ⟨(s.tbStep_setServo 4).timebaseOnly (by decide), hget, hon, hevt⟩
  case cfg =>
    intro s w v hs hl m
    have hr := State.sound_rising hs
    obtain ⟨htime, hman, hwtr, hbw, hrevert⟩ := State.cfgActed_spec v.toNat hr
    exact ⟨_, exec_tbCfgWrite v hl, htime, hman, hwtr, hbw, hrevert, State.cfgActed_acts v.toNat hr⟩
  case qual =>
    intro s w v hs hl
    refine ⟨fun h => ⟨_, exec_tbQualWrite v hl, ?_⟩, fun h => ⟨_, exec_tbQualWrite v hl, ?_⟩⟩
    · rw [if_neg h.not_ge]
      exact ⟨⟨rfl, s.regsKept_setReg _ _ _ _ _ (decide_eq_true rfl)⟩,
        (s.reg_setReg_same _ _ _ _ (State.sound_rising hs)).trans (Nat.mod_eq_of_lt v.isLt)⟩
    · rw [if_pos h]
      exact State.refused_reject w _ hs (State.lets_reset hl)
  case pstep =>
    intro s w v hs hl rem u
    refine ⟨fun hlo hhi => ⟨_, exec_tbPstepWrite v hl, ?_⟩, fun h => ⟨_, exec_tbPstepWrite v hl, ?_⟩⟩
    · rw [if_neg (by omega)]
      exact State.stepTaken_spec u (State.sound_rising hs) (State.lets_reset hl)
    · rw [if_pos h]
      exact State.refused_reject w _ hs (State.lets_reset hl)
  case noStep =>
    intro s h
    exact congrArg Host.Outcome.next (if_pos (by simpa using h))
  case stepDone =>
    intro s hs hp hstep
    exact ⟨_, congrArg Host.Outcome.next (if_neg (by simp [hp, hstep])), s.later_elapse _,
      State.pstepDone_shows (State.sound_rising hs) hp hstep (by omega)⟩
  case servoIdle =>
    intro s w o hl h
    exact exec_ptpMeasurement_idle o hl h
  case measured =>
    intro s w o hs hl hen hup t2 fresh st
    have hr := State.sound_rising hs
    have hp := State.lets_reset hl
    refine ⟨fun h => ⟨_, exec_ptpMeasurement_stale o hl hen hup h, s.tbFlag_events 7, ?_⟩, fun h =>
      ⟨_, exec_ptpMeasurement_fresh o hl hen hup h, ?_⟩⟩
    · rw [tbStatusPtpsMeas, State.on_eq_bit]
      exact State.tbFlag_shows 7 (by decide) hr hp
    · obtain ⟨htime, hlast, hfilt, hpofs, hjudged, hst, hin, hout, hru, hpu⟩ := State.servoTake_spec t2 o hr
      have hpr : (s.measured t2 o).power.inReset = false := by rw [hpu, hp]
      refine ⟨htime, hlast, hfilt, hpofs, ?_⟩
      intro f lim
      have hshows := State.servoJudged_shows (f := f) (lim := lim) hru hpr
      rwa [hst, hin, hout, ← hjudged] at hshows
  case timeout =>
    intro s hs hp st
    refine ⟨fun h1 h2 => congrArg Host.Outcome.next (if_neg (by simpa using ⟨h1, h2⟩)), fun h =>
      ⟨_, congrArg Host.Outcome.next (if_pos (by simpa using h)), ?_⟩⟩
    have hne : s.get ptpsStateState ≠ 3 := by
      rcases h with h | h <;> exact h.trans_ne (by decide)
    exact ⟨(s.tbStep_setServo 3).timebaseOnly (by decide), State.setServo_shows hne (by decide) (State.sound_rising hs) hp⟩
  case servoCfg =>
    intro s w v hs hl
    have hr := State.sound_rising hs
    have hru : Sparse.rising (s.writeFieldsOf ptpsCfg 0 0 v.toNat).regs = true := s.setReg_rising _ _ _ _ hr
    refine ⟨_, exec_ptpsCfgWrite v hl, ?_⟩
    cases hen : bit v.toNat 31 with
    | true =>
      obtain ⟨htime, hfen, hbw, hto, hlim⟩ := State.ptpsCfg_reads v.toNat hr (.refl _)
      exact ⟨htime, hfen, hbw, hto, hlim, fun _ => ⟨rfl, s.regsKept_setReg _ _ _ _ _ (decide_eq_true rfl)⟩, nofun⟩
    | false =>
      obtain ⟨htime, hfen, hbw, hto, hlim⟩ :=
        State.ptpsCfg_reads v.toNat hr (s.writeFieldsOf ptpsCfg 0 0 v.toNat).tbStep_servoOff
      exact ⟨htime, hfen, hbw, hto, hlim, nofun,
        fun _ => State.servoOff_shows hru (State.lets_reset (s := s) hl)⟩

end Sys2Proof.Machine
end
